-- ==== Sys2Proof/Word.lean ====
section
/-! DEFINITION. The word types of the module: bytes, and the 32-bit and 64-bit words that software sees. -/

namespace Sys2Proof

/-- One byte of memory (R29, R101). -/
abbrev Byte := BitVec 8

/-- A 32-bit word: counters, positions, versions, epochs. -/
abbrev Word32 := BitVec 32

/-- A 64-bit word: scalar and address registers, BAR0 registers. -/
abbrev Word64 := BitVec 64

end Sys2Proof
end

