-- ==== Sys2Proof/Syntax.lean ====
section
/-! DEFINITION. The commands of the module, one constructor per row of the table, with their operands. -/

namespace Sys2Proof

/-- The common fields of a tile instruction: who issues it, and its predicate (Table 4.14, R115). -/
structure Issue where
  /-- Tile ID (Table 1.2). -/
  tile : Fin 192
  /-- Hardware context. -/
  ctx : Fin 4
  /-- 1: issue is predicated. -/
  pe : Bool
  /-- 1: the predicate is inverted. -/
  pn : Bool
  /-- Predicate p0 to p7. -/
  pidx : Fin 8
  deriving DecidableEq, Repr

/-- The second operand of SALU and SCMP: a register, or a sign-extended immediate (Table 4.18). -/
inductive ScalarSrc where
  | reg (sb : Fin 32)
  | imm (v : BitVec 32)
  deriving DecidableEq, Repr

/-- The operand of LDS and STS (Table 4.18): register, log2 of the width, region, address register, byte offset. -/
structure ScalarMem where
  s : Fin 32
  log2w : Fin 4
  region : BitVec 3
  areg : Fin 16
  off : BitVec 23
  deriving DecidableEq, Repr

/-- A 22-bit SRAM operand (R117). -/
structure SramOp where
  region : BitVec 3
  areg : Fin 16
  off : BitVec 15
  deriving DecidableEq, Repr

/-- The operand fields of MMA (Table 4.16). -/
structure MmaFields where
  acc : Fin 16
  accumulate : Bool
  bResident : Bool
  fmtA : BitVec 4
  fmtB : BitVec 4
  groups : BitVec 6
  bnd : Fin 32
  opa : SramOp
  opb : SramOp
  deriving DecidableEq, Repr

/-- The operand fields of VOP, SFN and ROWSTAT (Table 4.17). -/
structure VecFields where
  func : BitVec 6
  fmtD : BitVec 4
  fmtA : BitVec 4
  fmtB : BitVec 4
  bnd : Fin 32
  rows : Fin 32
  bsel : Fin 4
  sb : Fin 32
  opd : SramOp
  opa : SramOp
  opb : SramOp
  deriving DecidableEq, Repr

/-- The operand fields of SMT (Table 4.18). -/
structure SmtFields where
  /-- 0 device to SRAM, 1 SRAM to device. -/
  toDevice : Bool
  lengthM1 : BitVec 8
  region : BitVec 3
  aS : Fin 16
  off : BitVec 23
  aD : Fin 16
  devOff : BitVec 48
  deriving DecidableEq, Repr

/-- What the model keeps of a packet's header (Table 13.2), of the port it arrived on, and of its sealing
(R375): the counter it carries and whether its tag verifies. -/
structure PktHdr where
  port : Fin 8
  src : BitVec 12
  slice : BitVec 12
  domain : BitVec 10
  cls : BitVec 2
  plane : Fin 8
  xfer : BitVec 16
  index : BitVec 24
  address : BitVec 48
  aux : BitVec 48
  sealed : Bool
  keyGen : BitVec 32
  ctr : BitVec 64
  tagOk : Bool
  /-- length_m1. -/
  length : BitVec 8 := 0
  deriving DecidableEq, Repr

/-- What every ring message carries: ring ID, check value (R273) and the items by which members match their
records of one pass (R281). -/
structure RingHdr where
  ring : BitVec 12
  check : BitVec 64
  tag : BitVec 16
  gStart : BitVec 48
  layer : BitVec 8
  op : BitVec 8
  deriving DecidableEq, Repr

/-- Which ring data chunk (64 KiB, R283) a message carries or acknowledges. -/
inductive RingData where
  /-- Chunk of a page of the shard that step `step` uses (R285). -/
  | shard (step page chunk : Nat)
  /-- Chunk of the query rows (R288). -/
  | query (chunk : Nat)
  /-- Chunk of member `member`'s partials of head `head` (R290). -/
  | part (head member chunk : Nat)
  /-- Chunk of the output of head `head` (R289). -/
  | output (head chunk : Nat)
  deriving DecidableEq, Repr

/-- The items a first chunk carries (R281), with the base and length of the shard (R285). -/
structure RingFirst where
  stepNs : BitVec 32
  slackNs : BitVec 32
  fmtK : BitVec 4
  fmtV : BitVec 4
  kvHeads : BitVec 6
  domain : BitVec 10
  origin : BitVec 8
  heads : BitVec 8
  spread : Bool
  qBytes : BitVec 32
  headBytes : BitVec 24
  base : BitVec 32
  length : BitVec 32
  deriving DecidableEq, Repr

/-- What every control message of a collective carries (Table 11.7). -/
structure CollMsg where
  group : BitVec 12
  seq : BitVec 32
  check : BitVec 64
  stage : Nat
  piece : Nat
  deriving DecidableEq, Repr

/-- The plan items carried by the first GRANT of an instance (Table 11.7). -/
structure CollPlanItems where
  kind : BitVec 4
  op : BitVec 4
  wire : Bool
  pieceElems : BitVec 32
  fmtSrc : BitVec 4
  fmtDst : BitVec 4
  domain : BitVec 10
  deriving DecidableEq, Repr

/-- A chunk sent and not acknowledged (R479). -/
inductive ChunkId where
  | ring (binding : Fin 16384) (dst : BitVec 12) (d : RingData)
  | coll (group : BitVec 12) (seq : BitVec 32) (dst : BitVec 12) (stage piece chunk : Nat)
  deriving DecidableEq, Repr

/-- What a TIME reply carries, with the times and corrections of its exchange (R367). -/
structure TimeReply where
  t1 : Nat
  t2 : Nat
  t3 : Nat
  t4 : Nat
  corrQ : Nat
  corrR : Nat
  locked : Bool
  isSource : Bool
  stepLog2 : Fin 32
  deriving DecidableEq, Repr

/-- A SESSION handshake message (R374): the first, or the answer; with the key generation it sets up, the peer's config_id and whether its
chain and signature verify (R429). -/
structure SessionMsg where
  answer : Bool
  gen : BitVec 32
  configId : BitVec 64
  verified : Bool
  timeOnly : Bool
  /-- The peer's ephemeral public key. -/
  share : BitVec 768 := 0
  deriving DecidableEq, Repr

/-- A write access to a BAR0 register (R388) or to a stream queue register by firmware (R162). -/
inductive RegAccess where
  | bar0 (off : Nat) (size : Nat) (v : BitVec 64)
  | stq (q : Fin 256) (reg : Nat) (v : BitVec 64)
  deriving DecidableEq, Repr

/-- The frozen registers of R437. -/
inductive FrozenReg where
  | bar2Base | bar2Domain | apertureBase | msixTable (entry : Fin 16) (word : Fin 2) | resizableBar
  deriving DecidableEq, Repr

/-- How a maintenance activity ended (Table 17.11). -/
structure MaintResult where
  done : Bool
  /-- Activity 3: the width the port trained at (Table 14.6 coding). -/
  width : Fin 4
  /-- Activity 1: grains of frames found with corrected errors in three or more sectors, and corrections per stack (R482). -/
  weakGrains : List (BitVec 28)
  corrections : List (Fin 24 × Nat)
  deriving DecidableEq, Repr

/-- An error of a copy of a grain (R208, R483): for the near frame, the sector and what the array changed in its symbols
(R481); a far copy's error is always uncorrectable. -/
structure CopyError where
  /-- 0 near frame, 1 primary far frame, 2 mirror frame. -/
  copy : Fin 3
  sector : Fin 1024
  errors : List (Fin 67 × BitVec 8)
  deriving DecidableEq, Repr

/-- How a rebuild ended (R209): whether the copy succeeded, and how long it took in ns. -/
structure RestoreResult where
  ok : Bool
  ns : BitVec 32
  deriving DecidableEq, Repr

/-- What bring-up found (R430, R470, R495). -/
structure BringupResult where
  firmwareOk : Bool
  fellBack : Bool
  configOk : Bool
  diesOk : Bool
  stacksOk : BitVec 24
  portWidth : List (Fin 4)
  cxlWidth : List (Fin 4)
  cxlFrames : List Nat
  cxlId : List (BitVec 64)
  cxlPoison : List (List (BitVec 26))
  deriving DecidableEq, Repr

/-- A tile or an AE, as the idle levels treat them (R460). -/
inductive IdleUnit where
  | tile (t : Fin 192)
  | ae (e : Fin 32)
  deriving DecidableEq, Repr

/-- The SMBus telemetry values that a refresh takes (Table 19.4); the hottest junctions of CD0 to CD3 as a list. -/
structure Telemetry where
  vin : BitVec 16
  iin : BitVec 16
  pin : BitVec 16
  tInlet : BitVec 16
  tOutlet : BitVec 16
  tDie : List (BitVec 16)
  tStack : BitVec 16
  deriving DecidableEq, Repr

/-- The commands of the module: one constructor per row of the table of operations and events. -/
inductive Instr where
  /-- `NOP` (R114): Tile instruction that does nothing but use its issue cycle. -/
  | nop (u : Issue)
  /-- `SLI` (R114): Loads a 64-bit immediate into a scalar register. -/
  | sli (u : Issue) (sd : Fin 32) (imm : BitVec 64)
  /-- `SALU` (R124): Scalar arithmetic or logic on scalar registers or an immediate. -/
  | salu (u : Issue) (func : BitVec 6) (sd sa : Fin 32) (b : ScalarSrc)
  /-- `SCMP` (R114): Sets a predicate from a comparison of scalar values. -/
  | scmp (u : Issue) (pd : Fin 8) (cond : BitVec 4) (sa : Fin 32) (b : ScalarSrc)
  /-- `PLOG` (R114): Sets a predicate from a logical combination of two predicates. -/
  | plog (u : Issue) (pd pa pb : Fin 8) (op : Fin 4)
  /-- `AADD` (R114): Sets an address register to a base plus a scalar plus an immediate. -/
  | aadd (u : Issue) (ad : Fin 16) (zeroBase : Bool) (aa : Fin 16) (sb : Fin 32) (imm : BitVec 48)
  /-- `SGET` (R114): Reads a shape register, identity value, fabric time, global step, address register or loop index into a scalar register. -/
  | sget (u : Issue) (sd : Fin 32) (src : BitVec 6)
  /-- `LDS` (R124): Scalar load from tile SRAM, held by R64 and faulting when misaligned. -/
  | lds (u : Issue) (a : ScalarMem) (sx : Bool)
  /-- `STS` (R124): Scalar store to tile SRAM, held by R64 and faulting when misaligned. -/
  | sts (u : Issue) (a : ScalarMem)
  /-- `BR` (R124): Relative branch within CODE. -/
  | br (u : Issue) (off : BitVec 32)
  /-- `LOOP` (R125): Sets up a hardware loop at one level, faulting when the count exceeds its bound. -/
  | loop (u : Issue) (level : Fin 8) (countInReg : Bool) (sc : Fin 32) (body : BitVec 16) (bound imm : BitVec 32)
  /-- `END` (R126): Ends the context, which becomes EMPTY once its issued instructions complete. -/
  | end_ (u : Issue)
  /-- `MMA` (R76): Issues a matrix product into an accumulator block, which overwrites or accumulates on a staging copy. -/
  | mma (u : Issue) (f : MmaFields)
  /-- `VOP` (R79): Element-wise vector operation on rows, with one rounding per element. -/
  | vop (u : Issue) (f : VecFields)
  /-- `SFN` (R135): Evaluates a built-in special function or a micro-program over rows. -/
  | sfn (u : Issue) (f : VecFields)
  /-- `ROWSTAT` (R142): Computes one FP32 row statistic per row on the VXU. -/
  | rowstat (u : Issue) (f : VecFields)
  /-- `SQIS` (R158): Writes a transfer of a stream descriptor into a stream queue, active or shadow, or has it refused when the shadow slot is full. -/
  | sqis (u : Issue) (desc : BitVec 16) (queue : Fin 256) (aSrc : Option (Fin 16)) (aDst : Option (Fin 16)) (bnd : Fin 32)
  /-- `SMT` (R166): Issues a small transfer of 1 to 256 bytes between tile SRAM and the device range. -/
  | smt (u : Issue) (f : SmtFields)
  /-- `AEQ` (R213): Appends an AE descriptor and its bound value to an AE context's queue, or is refused when the queue is full or the AE has failed. -/
  | aeq (u : Issue) (desc : BitVec 16) (ae : Fin 32) (aeCtx : Fin 4) (bnd : Fin 32)
  /-- `COLL` (R307): Starts a collective instance, which takes the group's next sequence number and a slot or ends at once with ST_BUSY. -/
  | coll (u : Issue) (plan : BitVec 16) (aSrc : Option (Fin 16)) (aDst : Option (Fin 16))
  /-- `WAITC` (R329): Waits until a sequence counter reaches a threshold; the context becomes SPINNING. -/
  | waitc (u : Issue) (vid : BitVec 16) (sThr : Fin 32) (imm : BitVec 32)
  /-- `SIGC` (R329): Adds to a sequence counter after earlier STS and SMT of the context are done. -/
  | sigc (u : Issue) (vid : BitVec 16) (sVal : Fin 32) (imm : BitVec 32)
  /-- `TAKE` (R331): Waits for a full/empty word to be full, reads it and leaves it empty. -/
  | take (u : Issue) (vid : BitVec 16) (sd : Fin 32)
  /-- `PUT` (R331): Waits for a full/empty word to be empty, writes it and leaves it full. -/
  | put (u : Issue) (vid : BitVec 16) (ss : Fin 32)
  /-- `FAA` (R89): Draws block indices from a work counter by fetch-and-add at its home. -/
  | faa (u : Issue) (vid : BitVec 16) (sd sInc : Fin 32) (imm : BitVec 32)
  /-- `STR` (R337): Arrives at a String channel by setting the tile's latch, waiting for the next generation in mode 0. -/
  | str (u : Issue) (channel : Fin 16) (arriveOnly : Bool)
  /-- `BLKCNT` (R111): Counts one executed block of an operation for its completion record. -/
  | blkcnt (u : Issue) (operation : BitVec 8) (bnd : Fin 32)
  /-- `MXU_BLOCK_CHECK` (R84): At the end of an MXU instruction's groups the checksums are compared; a pass writes the block back, a mismatch re-executes it. -/
  | mxuBlockCheck (t : Fin 192) (mismatch : Option (Fin 128 × Fin 128))
  /-- `UNIT_INSTRUCTION_COMPLETE` (R64): A VXU, SFU or ROWSTAT instruction completes, which releases the accesses that R64 held on its bytes. -/
  | unitInstructionComplete (t : Fin 192) (sfu : Bool)
  /-- `SPIN_LIMIT_REACHED` (R70): A spinning context reaches the spin limit while another context is READY and becomes PARKED. -/
  | spinLimitReached (t : Fin 192) (c : Fin 4)
  /-- `CONTEXT_SWITCH_DONE` (R71): After 64 cycles the incoming context issues its first instruction. -/
  | contextSwitchDone (t : Fin 192) (c : Fin 4)
  /-- `WAIT_MET` (R334): The home's reply that a wait, TAKE or PUT is met reaches the context, which runs again or becomes READY. -/
  | waitMet (t : Fin 192) (c : Fin 4)
  /-- `WAIT_CANCEL_REPLY` (R346): The home answers a pre-emption cancel with cancelled or granted, and the context save proceeds. -/
  | waitCancelReply (t : Fin 192) (c : Fin 4)
  /-- `PREEMPT_DRAIN_DONE` (R73): The last issued instruction of a context being pre-empted completes, and its save starts. -/
  | preemptDrainDone (t : Fin 192) (c : Fin 4)
  /-- `CONTEXT_SAVE_DONE` (R73): The context record, tile-local objects and SRAM ranges are saved, and the context becomes HALTED. -/
  | contextSaveDone (t : Fin 192) (c : Fin 4)
  /-- `CONTEXT_RESTORE_DONE` (R73): The saved ranges, objects and record are written back, and the context becomes READY. -/
  | contextRestoreDone (t : Fin 192) (c : Fin 4)
  /-- `SYNC_REQUEST` (R326): A request reaches a sync object's home and is applied in source order: signal, wait, take, put, fetch-and-add, credit take or withdrawal, or plain access. -/
  | syncRequest (k : Nat)
  /-- `TRANSFER_START` (R159): An active stream transfer obtains its credit, or needs none, and starts sending requests. -/
  | transferStart (q : Fin 256)
  /-- `STREAM_REQUEST_ISSUE` (R168): A stream request takes a free slot and meets its grain or address, proceeding, halting or ending the transfer by Table 6.9. -/
  | streamRequestIssue (q : Fin 256)
  /-- `STREAM_REQUEST_COMPLETE` (R161): A stream request completes and frees its slot; at the last one the transfer completes. -/
  | streamRequestComplete (q : Fin 256) (k : Nat)
  /-- `STREAM_RESUME` (R169): A halted transfer resumes from its saved position after its grain is released. -/
  | streamResume (q : Fin 256)
  /-- `DRAIN_READY` (R178): A drain transfer waiting in state 4 finds every earlier transfer and SMT of its context done and proceeds. -/
  | drainReady (q : Fin 256)
  /-- `DEADLINE_EXPIRY` (R174): A transfer not complete at its deadline writes EV_DEADLINE_MISS and may switch out its spinning waiters. -/
  | deadlineExpiry (q : Fin 256)
  /-- `CREDIT_WATCH_EXPIRY` (R175): A transfer in state 1 for one credit-watch period triggers the module-wide cycle check. -/
  | creditWatchExpiry (q : Fin 256)
  /-- `STQ_CTL_ABORT` (R162): Firmware writes STQ_CTL.enable 0, aborting both slots of the queue. -/
  | stqCtlAbort (q : Fin 256)
  /-- `SMT_COMPLETE` (R167): An SMT's bytes reach SRAM or become visible in the device range, and it completes. -/
  | smtComplete (t : Fin 192) (c : Fin 4)
  /-- `TUN_FILL_COMPLETE` (R180): A Tun line fill completes and serves its waiting requests. -/
  | tunFillComplete (die : Fin 4) (line : BitVec 38)
  /-- `AE_DESCRIPTOR_START` (R214): An AE context's next descriptor takes its credit and starts; an ATTEND enters its walker slot. -/
  | aeDescriptorStart (ae : Fin 32) (c : Fin 4)
  /-- `AE_GROUP_BOUNDARY` (R215): At a group boundary the matrix path picks a ready context and processes its next group of 32 positions. -/
  | aeGroupBoundary (ae : Fin 32)
  /-- `AE_GROUP_CHECK` (R244): At the end of a group the AE checksums are compared, and a mismatch re-executes the group. -/
  | aeGroupCheck (ae : Fin 32) (scores values adders : Bool)
  /-- `AE_DESCRIPTOR_END` (R232): A descriptor finishes its rows, writes outputs or partial records and signals its release. -/
  | aeDescriptorEnd (ae : Fin 32) (c : Fin 4)
  /-- `AE_CONTEXT_SAVE` (R216): A pre-empted AE context stops at a group boundary and saves its rows as partial records. -/
  | aeContextSave (ae : Fin 32) (c : Fin 4)
  /-- `EXTEND` (R261): Window operation that extends a sequence by up to 4,096 positions, copying a shared last page. -/
  | extend (t : Fin 192) (c : Fin 4)
  /-- `TRUNCATE` (R258): Window operation that sets a sequence's length and drops later pages. -/
  | truncate (t : Fin 192) (c : Fin 4)
  /-- `ENTER` (R268): Window operation that enters a tile context as a walker and returns version_addr. -/
  | enter (t : Fin 192) (c : Fin 4)
  /-- `LEAVE` (R268): Window operation that empties the tile context's walker slot. -/
  | leave (t : Fin 192) (c : Fin 4)
  /-- `PAGE_COPY_DONE` (R265): A copy on write of a shared page completes and the extension is published. -/
  | pageCopyDone (h : BitVec 17)
  /-- `FORK_PUBLISHED` (R256): A fork's references are all added and the new sequence's version is published. -/
  | forkPublished (h : BitVec 17)
  /-- `EPOCH_TICK` (R269): At the end of each 10 µs interval the epoch advances if a version was published, unless held back. -/
  | epochTick
  /-- `RECLAMATION_PASS` (R264): Every 50 µs, or on a failed allocation, items in LIMBO no walker can see are returned to FREE. -/
  | reclamationPass
  /-- `ROTATE` (R284): Pass record that starts a KV rotation pass of a bound sequence. -/
  | rotate (t : Fin 192) (c : Fin 4)
  /-- `CIRCULATE` (R288): Pass record that starts a query circulation pass of a bound sequence. -/
  | circulate (t : Fin 192) (c : Fin 4)
  /-- `PASS_BEGIN` (R282): The global step counter reaches g_start, and an accepted pass begins. -/
  | passBegin (b : Fin 16384)
  /-- `RING_CHUNK_ARRIVAL` (R283): A ring data chunk arrives and is written, acknowledged and counted once; a whole shard is published. -/
  | ringChunkArrival (p : PktHdr) (h : RingHdr) (d : RingData) (first : Option RingFirst) (bytes : List Byte)
  /-- `SLOT_FREE` (R285): A neighbour's slot-free message arrives, and the mover forwards shard pages to that visitor. -/
  | slotFree (p : PktHdr) (h : RingHdr) (visitor : Fin 3)
  /-- `RING_ACK` (R283): A ring chunk acknowledgement arrives and the chunk is released from the resend store. -/
  | ringAck (p : PktHdr) (h : RingHdr) (d : RingData)
  /-- `HOLD` (R297): A HOLD message arrives and stops the break timer for that neighbour. -/
  | hold (p : PktHdr) (h : RingHdr)
  /-- `RESUME` (R297): A RESUME message arrives and restarts the break timer. -/
  | resume (p : PktHdr) (h : RingHdr)
  /-- `RING_ABANDON` (R281): An abandon message arrives and the pass ends with ST_ABANDONED. -/
  | ringAbandon (p : PktHdr) (h : RingHdr)
  /-- `BROKEN_MESSAGE` (R299): A broken message arrives; the ring becomes BROKEN and its passes end. -/
  | brokenMessage (p : PktHdr) (h : RingHdr)
  /-- `RING_DUE_TIME` (R296): A step or pass not complete at its due time writes EV_RING_LATE or advances late_steps. -/
  | ringDueTime (b : Fin 16384)
  /-- `RING_BREAK_TIMER` (R299): No progress for break_us without a HOLD declares the ring BROKEN. -/
  | ringBreakTimer (b : Fin 16384)
  /-- `GRANT` (R315): A collective GRANT arrives, is compared with the plan and lets the sender send granted chunks. -/
  | grant (p : PktHdr) (g : CollMsg) (firstChunk count : Nat) (plan : Option CollPlanItems)
  /-- `COLL_CHUNK_ARRIVAL` (R317): A collective chunk arrives, is CRC-checked, folded or written, and acknowledged or NAKed. -/
  | collChunkArrival (p : PktHdr) (header : BitVec 512) (payload : List Byte)
  /-- `COLL_ACK` (R315): A collective ACK arrives; the chunk is released and the instance may complete. -/
  | collAck (p : PktHdr) (g : CollMsg) (chunk : Nat)
  /-- `NAK` (R317): A NAK arrives and the sender resends the chunk. -/
  | nak (p : PktHdr) (g : CollMsg) (chunk : Nat)
  /-- `ABANDON` (R319): A collective ABANDON arrives and the active instance ends with ST_ABANDONED. -/
  | abandon (p : PktHdr) (g : CollMsg) (status : BitVec 8)
  /-- `COLL_STALL_TIMER` (R320): An instance with no activity for stall_us writes EV_COLL_STALL once. -/
  | collStallTimer (group : BitVec 12) (seq : BitVec 32)
  /-- `CHUNK_RESEND_TIMER` (R479): A ring or collective chunk unacknowledged for 100 µs is resent on the next plane. -/
  | chunkResendTimer (u : ChunkId)
  /-- `WRITE` (R355): A fabric WRITE packet arrives and is written and acknowledged, or written again as a duplicate. -/
  | write (p : PktHdr) (payload : List Byte)
  /-- `SIGNAL` (R355): A fabric SIGNAL arrives and is applied once every counted packet of its transfer is visible. -/
  | signal (p : PktHdr)
  /-- `ACK` (R355): A fabric ACK arrives; acknowledged packets are released and a remote transfer may complete. -/
  | ack (p : PktHdr)
  /-- `DENY` (R360): A DENY arrives and the source's transfer ends with its status. -/
  | deny (p : PktHdr)
  /-- `ACK_FLUSH` (R355): An ACK held back for 1 µs is sent. -/
  | ackFlush (src : BitVec 12)
  /-- `PACKET_RESEND_TIMER` (R355): A packet unacknowledged for 50 µs is resent on the next plane. -/
  | packetResendTimer (dst : BitVec 12) (xfer : BitVec 16) (index : BitVec 24)
  /-- `CREDIT_RETURN` (R362): Returned credits of a class arrive and waiting packets may be sent. -/
  | creditReturn (port : Fin 8) (cls : Fin 3) (n : Nat)
  /-- `CREDIT_STALL_TIMER` (R364): A class with waiting packets and no credit for 10 ms writes EV_FABRIC_CREDIT_STALL. -/
  | creditStallTimer (port : Fin 8) (cls : Fin 2)
  /-- `TIME_REQUEST` (R367): A TIME request arrives and a serving source replies with t2 and t3, or drops it. -/
  | timeRequest (p : PktHdr) (t1 : Nat)
  /-- `TIME_REPLY` (R367): A TIME reply arrives; the follower computes the offset, adjusts its rate or steps, and changes time state. -/
  | timeReply (p : PktHdr) (r : TimeReply)
  /-- `TIME_EXCHANGE_TIMER` (R366): Every 125 µs a follower sends a TIME request on the next plane. -/
  | timeExchangeTimer
  /-- `HOLDOVER_TIMER` (R368): 1 ms without a reply moves LOCKED to HOLDOVER. -/
  | holdoverTimer
  /-- `HOLDOVER_EXPIRY` (R368): 100 ms in HOLDOVER moves fabric time to FREE. -/
  | holdoverExpiry
  /-- `BACKUP_TAKEOVER` (R371): After 1 ms without source replies, followers turn to the backup and a locked backup starts serving. -/
  | backupTakeover
  /-- `MASTER_PROBE_TIMER` (R371): Every 10 ms a follower of the backup sends one request to the master. -/
  | masterProbeTimer
  /-- `HALT` (R363): A HALT packet arrives and its halt number is acted on once. -/
  | halt (p : PktHdr) (stop : Bool)
  /-- `NOTICE_DOWN` (R379): A NOTICE (down) arrives; the plane leaves the sender's effective set and its packets are resent. -/
  | noticeDown (p : PktHdr)
  /-- `NOTICE_UP` (R379): A NOTICE (up) arrives and the plane returns to the sender's effective set. -/
  | noticeUp (p : PktHdr)
  /-- `SESSION` (R374): A SESSION handshake message arrives and the sealing session advances, is accepted or is refused. -/
  | session (p : PktHdr) (msg : SessionMsg)
  /-- `SESSION_REKEY_TIMER` (R376): After 24 hours or 2^40 packets a session starts a new handshake. -/
  | sessionRekeyTimer (peer : BitVec 12)
  /-- `OLD_KEY_EXPIRY` (R376): 100 ms after the first packet under new keys the old key generation is refused. -/
  | oldKeyExpiry (peer : BitVec 12)
  /-- `FRAME_CRC_FAIL` (R352): A link frame failing its CRC is replayed from the replay buffer. -/
  | frameCrcFail (port : Fin 8)
  /-- `LANE_FAILURE` (R377): A lane loses lock or its FEC fails, and the port starts retraining narrower. -/
  | laneFailure (port : Fin 8) (lanes : BitVec 4)
  /-- `PORT_RETRAIN_DONE` (R377): A port finishes retraining at reduced width, replays its buffer and writes EV_LINK_DEGRADED. -/
  | portRetrainDone (port : Fin 8)
  /-- `PORT_DOWN` (R378): A port goes down; its plane is removed, NOTICE is sent and unacknowledged packets resent. -/
  | portDown (port : Fin 8)
  /-- `UNREACHABLE_TIMER` (R380): A destination with no acknowledgement for 1 ms after resends on every plane becomes unreachable. -/
  | unreachableTimer (dst : BitVec 12)
  /-- `FLIT_CRC_FAIL` (R11): A die-to-die flit fails its CRC and is replayed; eight in succession declare the link down. -/
  | flitCrcFail (link : Fin 10) (replayed : Bool)
  /-- `MBX_TAIL_WRITE` (R391): A doorbell write to MBX_TAIL makes new entries pending, and the mailbox takes them in order. -/
  | mbxTailWrite (m : Fin 8) (v : BitVec 12)
  /-- `MBX_ENABLE` (R390): Setting MBX_RING_SIZE.enable resets the mailbox, or refuses an invalid size with EV_MBX_ERROR. -/
  | mbxEnable (m : Fin 8) (log2 : BitVec 4)
  /-- `MBX_DISABLE` (R390): Clearing MBX_RING_SIZE.enable stops the taking of descriptors. -/
  | mbxDisable (m : Fin 8)
  /-- `DESCRIPTOR_READ_DONE` (R392): A descriptor read completes; the mailbox takes it or stops on a read error. -/
  | descriptorReadDone (m : Fin 8) (r : Option (BitVec 512 × List Byte))
  /-- `EVQ_ENABLE` (R398): Setting EVQ_CTL.enable clears the queue counters and arms it, or refuses an invalid size. -/
  | evqEnable (q : Fin 4) (ctl : BitVec 64)
  /-- `EVQ_DISABLE` (R398): Clearing EVQ_CTL.enable sends later events for the queue to queue 0. -/
  | evqDisable (q : Fin 4) (ctl : BitVec 64)
  /-- `EVQ_CONS_WRITE` (R400): A write to EVQ_CONS is accepted or refused and re-arms the queue's interrupt. -/
  | evqConsWrite (q : Fin 4) (v : BitVec 32)
  /-- `MODERATION_TIMER` (R406): mod_time after the first armed record the queue raises its MSI-X vector. -/
  | moderationTimer (q : Fin 4)
  /-- `HOST_BAR2_BASE_WRITE` (R384): A write to HOST_BAR2_BASE takes effect only when aligned and within grain space. -/
  | hostBar2BaseWrite (v : BitVec 64)
  /-- `POKE_ADD` (R343): A write of SYNC_POKE_VAL with op ADD adds to a host-visible counter. -/
  | pokeAdd (v : BitVec 64)
  /-- `POKE_SET` (R343): A write of SYNC_POKE_VAL with op SET sets a host-visible counter. -/
  | pokeSet (v : BitVec 64)
  /-- `POKE_PUT` (R343): A write of SYNC_POKE_VAL with op PUT fills an empty full/empty word. -/
  | pokePut (v : BitVec 64)
  /-- `SYNC_POKE_VAL_READ` (R343): A read of SYNC_POKE_VAL returns the named object's value from its home. -/
  | syncPokeValRead
  /-- `REGISTER_WRITE` (R388): A write to a BAR0 or firmware register with no row of its own, including RW1C clears and bad-size accesses. -/
  | registerWrite (a : RegAccess)
  /-- `BAR2_READ` (R385): A host read through BAR2 is served, refused, poisoned or held by Table 14.2. -/
  | bar2Read (off : Nat) (len : Nat)
  /-- `BAR2_WRITE` (R385): A host write through BAR2 is written, dropped or held by Table 14.2. -/
  | bar2Write (off : Nat) (bytes : List Byte)
  /-- `BAR2_HOLD_TIMEOUT` (R385): A BAR2 access held for 1 ms ends with Completer Abort or is dropped. -/
  | bar2HoldTimeout (k : Nat)
  /-- `HOST_LINK_RETRAIN` (R382): The host link trains again at another rate or width and writes EV_HOST_LINK. -/
  | hostLinkRetrain (rate : BitVec 8) (width : BitVec 8)
  /-- `LINK_RESET` (R466): FLR, hot reset or Data Link Down re-initialises the host function while execution continues. -/
  | linkReset
  /-- `SLICE_BIND` (R412): Command with action BIND: applies a SLICE_BIND record and installs the routing table. -/
  | sliceBind (m : Fin 8)
  /-- `SLICE_BIND_UNBIND` (R412): Command with action UNBIND: stops, unloads, closes, scrubs and unbinds the module. -/
  | sliceBindUnbind (m : Fin 8)
  /-- `SLICE_HALT_PAUSE` (R413): SLICE_HALT in mode PAUSE pre-empts every running launch. -/
  | sliceHaltPause (m : Fin 8)
  /-- `SLICE_HALT_STOP` (R413): SLICE_HALT in mode STOP stops every launch. -/
  | sliceHaltStop (m : Fin 8)
  /-- `DOMAIN_OPEN` (R412): Opens a data domain as the domain policy permits. -/
  | domainOpen (m : Fin 8)
  /-- `DOMAIN_CLOSE` (R414): Closes a domain: unloads its images, frees its sequences, releases its grains and scrubs. -/
  | domainClose (m : Fin 8)
  /-- `SCHED_LOAD` (R415): Copies and checks a schedule image and returns a handle or the failing check. -/
  | schedLoad (m : Fin 8)
  /-- `SCHED_UNLOAD` (R415): Unloads a schedule image whose launch is not running or HALTED. -/
  | schedUnload (m : Fin 8)
  /-- `SCHED_LAUNCH` (R416): Runs the launch checks and starts a launch with actual shapes. -/
  | schedLaunch (m : Fin 8)
  /-- `SCHED_STOP` (R417): Unbinds a launch, emptying its contexts and abandoning its objects. -/
  | schedStop (m : Fin 8)
  /-- `SCHED_PREEMPT` (R418): Pre-empts every context of a running launch until all are HALTED. -/
  | schedPreempt (m : Fin 8)
  /-- `SCHED_RESUME` (R418): Restores every context of a HALTED launch until all are READY. -/
  | schedResume (m : Fin 8)
  /-- `SEQ_CREATE` (R255): Creates a sequence under the lowest FREE handle. -/
  | seqCreate (m : Fin 8)
  /-- `SEQ_FORK` (R256): Starts a new sequence sharing the source's pages below a prefix end. -/
  | seqFork (m : Fin 8)
  /-- `SEQ_TRUNCATE` (R258): Sets a sequence's length and drops pages wholly above it. -/
  | seqTruncate (m : Fin 8)
  /-- `SEQ_FREE` (R259): Drops every page of a sequence and makes its entry RETIRING. -/
  | seqFree (m : Fin 8)
  /-- `RING_FORM` (R274): RING_FORM action FORM fills a ring table entry. -/
  | ringForm (m : Fin 8)
  /-- `RING_DISSOLVE` (R274): RING_FORM action DISSOLVE returns a ring entry to FREE. -/
  | ringDissolve (m : Fin 8)
  /-- `RING_BIND` (R275): RING_FORM action BIND binds a sequence under a tag and creates its visitors. -/
  | ringBind (m : Fin 8)
  /-- `RING_UNBIND` (R275): RING_FORM action UNBIND frees the visitors and clears the binding. -/
  | ringUnbind (m : Fin 8)
  /-- `GROUP_SET` (R301): GROUP_SET action SET fills or replaces a group table entry. -/
  | groupSet (m : Fin 8)
  /-- `GROUP_CLEAR` (R301): GROUP_SET action CLEAR returns a group entry to FREE. -/
  | groupClear (m : Fin 8)
  /-- `PREFER_NEAR` (R201): Placement action setting prefer_near on a range and marking FAR grains pending. -/
  | preferNear (m : Fin 8)
  /-- `PREFER_FAR` (R201): Placement action setting prefer_far on a range. -/
  | preferFar (m : Fin 8)
  /-- `NO_PREFERENCE` (R201): Placement action clearing both preferences on a range. -/
  | noPreference (m : Fin 8)
  /-- `PIN` (R201): Placement action adding one pin to each grain, backing and promoting as needed. -/
  | pin (m : Fin 8)
  /-- `UNPIN` (R201): Placement action removing one pin from each grain. -/
  | unpin (m : Fin 8)
  /-- `MIRROR` (R201): Placement action making grains mirrored across both CXL ports. -/
  | mirror (m : Fin 8)
  /-- `UNMIRROR` (R201): Placement action clearing mirrored and freeing mirror frames. -/
  | unmirror (m : Fin 8)
  /-- `SOURCE` (R201): Placement action recording a restorable source for a range. -/
  | source (m : Fin 8)
  /-- `RELEASE` (R192): Placement action releasing every grain of a range to UNBACKED. -/
  | release (m : Fin 8)
  /-- `HORIZON` (R205): Placement action setting the slice's prefetch horizon. -/
  | horizon (m : Fin 8)
  /-- `SYNC_SIGNAL_ADD` (R344): Adds to a host-visible counter. -/
  | syncSignalAdd (m : Fin 8)
  /-- `SYNC_SIGNAL_SET` (R344): Sets the value of a host-visible counter. -/
  | syncSignalSet (m : Fin 8)
  /-- `SYNC_SIGNAL_PUT` (R344): Writes a host-visible full/empty word and sets it full, or returns ST_BUSY. -/
  | syncSignalPut (m : Fin 8)
  /-- `SYNC_SIGNAL_TAKE` (R344): Returns a host-visible full/empty word and sets it empty, or returns ST_BUSY. -/
  | syncSignalTake (m : Fin 8)
  /-- `SYNC_SIGNAL_QUERY` (R344): Returns the record of a host-visible sync object. -/
  | syncSignalQuery (m : Fin 8)
  /-- `NOTIFY` (R345): Arms a one-shot notification at a counter threshold on an event queue. -/
  | notify (m : Fin 8)
  /-- `WAKE_TOLERANCE_SET` (R461): Records the tolerable wake latency and returns the deepest permitted idle level. -/
  | wakeToleranceSet (m : Fin 8)
  /-- `PATROL_SCRUB` (R472): MAINT_START activity 1 starts a patrol scrub pass of target stacks. -/
  | patrolScrub (m : Fin 8)
  /-- `MEMORY_RETRAINING` (R472): MAINT_START activity 2 retrains a stack's channels one at a time. -/
  | memoryRetraining (m : Fin 8)
  /-- `LINK_RETRAINING` (R472): MAINT_START activity 3 retrains a fabric, host or CXL port. -/
  | linkRetraining (m : Fin 8)
  /-- `TIME_RESYNCHRONISATION` (R472): MAINT_START activity 4 clears the servo history and reacquires fabric time. -/
  | timeResynchronisation (m : Fin 8)
  /-- `THERMAL_RECALIBRATION` (R472): MAINT_START activity 7 recalibrates a die's sensors at 12/16 issue rate. -/
  | thermalRecalibration (m : Fin 8)
  /-- `MAINT_INSTANCE_END` (R473): A maintenance instance ends DONE or FAILED and writes EV_MAINT_DONE. -/
  | maintInstanceEnd (inst : BitVec 32) (r : MaintResult)
  /-- `MAINT_STATUS` (R423): Returns the state of one or every active maintenance instance. -/
  | maintStatus (m : Fin 8)
  /-- `COUNTER_READ` (R424): Returns counters or table entries of a space, optionally clearing module counters. -/
  | counterRead (m : Fin 8)
  /-- `PROT_NONCE_GET` (R444): Draws a new current nonce for protection records. -/
  | protNonceGet (m : Fin 8)
  /-- `ENROLL` (R448): PROT_APPLY of an ENROLL record stores the Operator and Custodian keys. -/
  | enroll (m : Fin 8)
  /-- `ROUTING_UPDATE` (R442): PROT_APPLY of a ROUTING_UPDATE record installs a new routing table. -/
  | routingUpdate (m : Fin 8)
  /-- `DOMAIN_POLICY` (R440): PROT_APPLY of a DOMAIN_POLICY record installs the domain policy. -/
  | domainPolicy (m : Fin 8)
  /-- `FW_POLICY` (R442): PROT_APPLY of a FW_POLICY record installs the firmware acceptance policy. -/
  | fwPolicy (m : Fin 8)
  /-- `KEY_ROTATE` (R446): PROT_APPLY of a KEY_ROTATE record replaces enrolled keys. -/
  | keyRotate (m : Fin 8)
  /-- `SERVICE` (R450): PROT_APPLY of a SERVICE record scrubs the module and enters the service state. -/
  | service (m : Fin 8)
  /-- `NONCE_EXPIRY` (R444): The current nonce stops being current 600 s after issue. -/
  | nonceExpiry
  /-- `ATTEST_GET` (R433): Returns signed evidence of measurements and protection log entries. -/
  | attestGet (m : Fin 8)
  /-- `STEP` (R451): DEBUG_GRANT of scope STEP grants single-step execution on a tile. -/
  | step (m : Fin 8)
  /-- `TRACE` (R451): DEBUG_GRANT of scope TRACE writes the hub trace buffer to the host. -/
  | trace (m : Fin 8)
  /-- `MEMORY_READ` (R451): DEBUG_GRANT of scope MEMORY_READ copies a domain's grains to the host. -/
  | memoryRead (m : Fin 8)
  /-- `STEP_TILE_TAKE` (R452): A waiting STEP grant takes its tile once it holds no bound context and executes its instructions. -/
  | stepTileTake (g : BitVec 32)
  /-- `GRANT_EXPIRY` (R452): A debug grant whose duration ends first writes EV_DEBUG_DONE with ST_ABANDONED. -/
  | grantExpiry (g : BitVec 32)
  /-- `FW_STAGE` (R426): Stages one chunk of a firmware image, checking the whole image on the last. -/
  | fwStage (m : Fin 8)
  /-- `FW_ACTIVATE` (R427): Activates the staged firmware through a firmware reset. -/
  | fwActivate (m : Fin 8)
  /-- `FW_READY` (R467): Restarted firmware reaches READY and writes EV_FW_ACTIVATED. -/
  | fwReady
  /-- `SCRUB_COMPLETE` (R455): A scrub ends and its signed certificate is logged and returned. -/
  | scrubComplete
  /-- `GET_VERSION` (R432): SPDM request answered over DOE. -/
  | getVersion
  /-- `GET_CAPABILITIES` (R432): SPDM request answered over DOE. -/
  | getCapabilities
  /-- `NEGOTIATE_ALGORITHMS` (R432): SPDM request answered over DOE. -/
  | negotiateAlgorithms
  /-- `GET_DIGESTS` (R432): SPDM request answered over DOE. -/
  | getDigests
  /-- `GET_CERTIFICATE` (R432): SPDM request returning the slot 0 chain. -/
  | getCertificate (slot : Fin 8)
  /-- `CHALLENGE` (R432): SPDM request answered with a signature by the identity key. -/
  | challenge (slot : Fin 8) (nonce : BitVec 256)
  /-- `GET_MEASUREMENTS` (R432): SPDM request returning measurements 1 to 6. -/
  | getMeasurements (index : BitVec 8) (nonce : BitVec 256)
  /-- `KEY_EXCHANGE` (R432): SPDM request opening a secured session. -/
  | keyExchange (exchange : BitVec 768)
  /-- `FINISH` (R432): SPDM request completing a secured session. -/
  | finish (verified : Bool)
  /-- `KEY_UPDATE` (R432): SPDM request updating session keys. -/
  | keyUpdate
  /-- `HEARTBEAT` (R432): SPDM request keeping the session alive. -/
  | heartbeat
  /-- `END_SESSION` (R432): SPDM request ending the secured session. -/
  | endSession
  /-- `UNSUPPORTED_SPDM_REQUEST` (R432): An unlisted SPDM request is answered with ERROR(UnsupportedRequest). -/
  | unsupportedSpdmRequest (code : BitVec 8)
  /-- `IDE_KM` (R436): IDE_KM message within the secured session keys the selective IDE stream. -/
  | ideKm
  /-- `LOCK_INTERFACE` (R436): TDISP message moving the function to CONFIG_LOCKED. -/
  | lockInterface
  /-- `START_INTERFACE` (R436): TDISP message moving the function to RUN. -/
  | startInterface
  /-- `STOP_INTERFACE` (R436): TDISP message returning the function to CONFIG_UNLOCKED. -/
  | stopInterface
  /-- `FROZEN_REGISTER_WRITE` (R437): A write to a frozen register is ignored and moves the function to ERROR. -/
  | frozenRegisterWrite (r : FrozenReg) (v : BitVec 64)
  /-- `IDE_INTEGRITY_FAILURE` (R436): An IDE integrity failure or session loss moves the function to ERROR. -/
  | ideIntegrityFailure (sessionLost : Bool)
  /-- `BACKING_COMPLETE` (R190): A zeroed frame is obtained and a BACKING grain becomes NEAR or FAR. -/
  | backingComplete (g : BitVec 28)
  /-- `PROMOTION_START` (R197): A pending promotion starts in its order once a free near frame exists. -/
  | promotionStart
  /-- `PROMOTION_COMPLETE` (R190): The copy to near finishes and the grain becomes NEAR_CLEAN. -/
  | promotionComplete (g : BitVec 28)
  /-- `EVICTION_SCAN` (R206): Every 50 µs while free frames are low, victims are chosen and evictions applied or refused.
  `late`: grains whose promotion request reaches the directory after the choice and before the eviction. -/
  | evictionScan (late : List (BitVec 28))
  /-- `EVICTION_COMPLETE` (R190): The copy to far finishes and an EVICTING grain becomes FAR. -/
  | evictionComplete (g : BitVec 28)
  /-- `MOVE_WINDOW` (R200): At the end of each 1 ms window, grains used mostly by another die are chosen to move. -/
  | moveWindow
  /-- `MOVE_COMPLETE` (R190): A move to another stack finishes and the grain returns to its earlier state. -/
  | moveComplete (g : BitVec 28)
  /-- `UNCORRECTABLE_ERROR` (R208): An uncorrectable error in a grain's copy retires the frame and starts a rebuild or poisons the grain. -/
  | uncorrectableError (g : BitVec 28) (e : CopyError)
  /-- `RESTORE_COMPLETE` (R209): A rebuild ends, held requests proceed and the restore is reported. -/
  | restoreComplete (g : BitVec 28) (r : RestoreResult)
  /-- `RESTORE_TIMEOUT` (R209): A rebuild not ended 200 µs after the error poisons the grain. -/
  | restoreTimeout (g : BitVec 28)
  /-- `CHANNEL_CRC_FAIL` (R485): A memory burst failing its CRC is retried, and exhausted retries become an uncorrectable error.
  `write` is the burst of a write: its sector and bytes. -/
  | channelCrcFail (stack : Fin 24) (channel : Fin 4) (g : BitVec 28) (write : Option (Fin 1024 × List (BitVec 8))) (failures : Fin 6)
  /-- `STACK_UNRESPONSIVE` (R485): A stack with no response on any channel for 10 µs goes out of service. -/
  | stackUnresponsive (stack : Fin 24)
  /-- `CXL_REQUEST_TIMEOUT` (R486): A CXL.mem request times out after 100 µs and is reissued or treated as uncorrectable. -/
  | cxlRequestTimeout (port : Fin 2) (g : BitVec 28)
  /-- `CXL_LINK_DOWN` (R486): A CXL link goes down and the port goes out of service. -/
  | cxlLinkDown (port : Fin 2)
  /-- `POWER_MEASURE` (R21): Every 10 µs input power is measured, and a reading above 2,900 W cuts the rate to 8/16. -/
  | powerMeasure (watts : Nat)
  /-- `MODULE_RATE_DOWN` (R21): After 8 ms above 2,500 W and then every 100 µs, the module rate falls by 1/16. -/
  | moduleRateDown
  /-- `MODULE_RATE_UP` (R23): Every 1 ms below 2,400 W the module rate rises by 1/16. -/
  | moduleRateUp
  /-- `DIE_POWER_RATE_DOWN` (R24): After 8 ms above 460 W and then every 100 µs, a die's power rate falls by 1/16; the operand is the
  rail's power as measured. -/
  | diePowerRateDown (die : Fin 4) (watts : Nat)
  /-- `DIE_POWER_RATE_UP` (R24): Every 1 ms below 440 W a die's power rate rises by 1/16; the operand is the rail's power as
  measured. -/
  | diePowerRateUp (die : Fin 4) (watts : Nat)
  /-- `THERMAL_RATE_DOWN` (R505): A die above its thermal limit has its thermal rate lowered by the steps of R24. -/
  | thermalRateDown (die : Fin 4)
  /-- `THERMAL_RATE_UP` (R505): Every 1 ms with temperatures below the return limits the thermal rate rises by 1/16. -/
  | thermalRateUp (die : Fin 4)
  /-- `THERMAL_TRIP` (R505): A junction at 110 °C or stack at 100 °C is a module fault. -/
  | thermalTrip (die : Fin 4)
  /-- `RAIL_LOST` (R480): A compute die loses a supply rail, which is a module fault. -/
  | railLost (die : Fin 4)
  /-- `PLL_LOCK_LOST` (R480): The root PLL loses lock, which is a module fault. -/
  | pllLockLost
  /-- `POWER_APPLIED` (R502): The tray applies 54 V, the standby rail comes up and STBY_OK rises; the operand of this
  and of the other releases of reset is the level of the geographic address pins (R19). -/
  | powerApplied (ga : BitVec 6)
  /-- `PWR_GOOD_RISE` (R502): PWR_GOOD rises and bring-up phase 1 begins. -/
  | pwrGoodRise (ga : BitVec 6)
  /-- `PWR_GOOD_LOW` (R501): PWR_GOOD low for 10 µs powers the module down. -/
  | pwrGoodLow
  /-- `INPUT_OUT_OF_RANGE` (R501): Input below 44 V for 1 ms, below 40 V, or above 60 V for 100 µs powers the module down. -/
  | inputOutOfRange (below40 : Bool)
  /-- `INPUT_RECOVERED` (R501): Input at 47 V or more for 10 ms with PWR_GOOD high restarts the module by cold reset. -/
  | inputRecovered (ga : BitVec 6)
  /-- `COLD_RST` (R464): COLD_RST# low for at least 10 µs causes a cold reset. -/
  | coldRst
  /-- `PERST` (R464): Assertion of PERST# causes a warm reset. -/
  | perst
  /-- `WATCHDOG_EXPIRY` (R464): Expiry of the 1 s control firmware watchdog causes a warm reset. -/
  | watchdogExpiry
  /-- `FLASH_SEL` (R497): FLASH_SEL# low with PWR_GOOD low connects flash to the header and holds the hub in reset. -/
  | flashSel
  /-- `BRINGUP_END` (R469): Bring-up ends in READY, SERVICE or FAILED. -/
  | bringupEnd (r : BringupResult)
  /-- `IDLE_I2_ENTRY` (R460): A unit 50 µs at I1 enters I2. -/
  | idleI2Entry (u : IdleUnit)
  /-- `IDLE_I3_ENTRY` (R460): A die idle with no stack request for 1 ms enters I3. -/
  | idleI3Entry (die : Fin 4)
  /-- `IDLE_I4_ENTRY` (R460): A module whose dies were at I3 for 10 ms enters I4. -/
  | idleI4Entry
  /-- `WAKE_SLOT` (R463): A waking unit's wave slot arrives and its ramp begins. -/
  | wakeSlot (u : IdleUnit)
  /-- `WAKE_DONE` (R462): A unit's exit completes and it has its first useful cycle. -/
  | wakeDone (u : IdleUnit)
  /-- `SMBUS_READ_WORD` (R498): An SMBus Read Word returns a telemetry value. -/
  | smbusReadWord (cmd : BitVec 8)
  /-- `SMBUS_ALERT_RESPONSE` (R498): A read of the Alert Response Address returns 0x4C and releases SMB_ALERT#. -/
  | smbusAlertResponse
  /-- `SMBUS_WRITE` (R498): An SMBus write is not acknowledged. -/
  | smbusWrite
  /-- `SMBUS_REFRESH` (R498): Every 10 ms the telemetry values are refreshed. -/
  | smbusRefresh (v : Telemetry)
  /-- `JTAG_INSTRUCTION` (R450): A TAP instruction runs boundary scan, or internal access in the service state. -/
  | jtagInstruction (internal : Bool) (data : BitVec 64)
  /-- `PERST_RELEASE` (R469): Deassertion of PERST# starts the warm bring-up count and host link training 20 ms later. -/
  | perstRelease (ga : BitVec 6)
  /-- `COLD_RST_RELEASE` (R502): Release of COLD_RST# restarts bring-up at phase 1. -/
  | coldRstRelease (ga : BitVec 6)
  /-- `FLASH_SEL_RELEASE` (R497): FLASH_SEL# going high disconnects the flash pass-through and lets a waiting bring-up proceed. -/
  | flashSelRelease
  /-- `RESIZABLE_BAR_WRITE` (R384): A Resizable BAR control write changes BAR2's size and sets HOST_BAR2_BASE to 0 when the base becomes unaligned. -/
  | resizableBarWrite (log2Size : Fin 6)
  /-- `MASTER_STARTUP_TIMER` (R371): 10 ms after its reset with no answer from the backup, the master serves from its own time. -/
  | masterStartupTimer
  /-- `PREFETCH_HORIZON_REACHED` (R205): A KV page whose ring step comes within the prefetch horizon stops being a victim and, if FAR, is marked pending. -/
  | prefetchHorizonReached (h : BitVec 17) (layer : BitVec 8) (page : Nat)
  /-- `LEAK_SENSOR_WET` (R498): The cold-plate leak sensor turns wet, driving LEAK# and SMB_ALERT# low and setting the leak bit. -/
  | leakSensorWet
  /-- `DEBUG_WORK_END` (R452): A debug grant's work ends and EV_DEBUG_DONE is written with ST_OK and the bytes written. -/
  | debugWorkEnd (g : BitVec 32)
  deriving DecidableEq, Repr

end Sys2Proof
end

