-- ==== Sys2Proof/Config.lean ====
section
/-! DEFINITION. What the manual leaves to the part and what it leaves open: constants without a body, of which no
statement can know a value. -/

namespace Sys2Proof

/-- The k-th free value of a run (log entry 2). -/
opaque Config.free : Nat → Nat

/-- The coefficients of the segments of Table 5.1 and of R241, as FP32x words: table, segment, power of t.  They are not in
the manual (log entry 9). -/
opaque Config.coef : Nat → Nat → Nat → Nat

/-- Anchor, Keg and numerator of a row whose nan flag is set, as a function of what the row has met: R228 gives them no
value (log entry 39). -/
opaque Config.nanRow : Nat → Nat

/-- A signature by the device identity key: the message and a fresh value (R428, R429; log entry 13). -/
opaque Config.sign : List Byte → Nat → Nat

/-- Digests that the manual does not give (Table 16.1, R447; log entry 14), by kind and what they depend on: 1 boot ROM,
2 boot loader of the image in a bank, 3 the factory's image of a bank, 4 firmware policy, 5 a configuration record, 6 the
Beynel firmware key. -/
opaque Config.digest : Nat → List Byte → Nat

/-- The public part of the k-th ephemeral P-384 key of a run, and the AES-256 key of a direction that the handshake derives
from it and the peer's public part (R374); `out` is the direction from this module (log entry 114). -/
opaque Config.ephemeral : Nat → BitVec 768
opaque Config.sessionKey (k : Nat) (peer : BitVec 768) (out : Bool) : BitVec 256

/-- Byte i of what AES-256-GCM makes of a plaintext under a key, a nonce and authenticated bytes: the ciphertext, then the
16 bytes of the tag (R375; log entry 114). -/
opaque Config.aesGcm (key : BitVec 256) (nonce : BitVec 96) (aad plain : List (BitVec 8)) (i : Nat) : BitVec 8

/-- The 128-bit serial number and the certificate chain of slot 0 (R429; log entry 14). -/
opaque Config.serial : Nat
opaque Config.chain : List Byte

/-- The 1 KiB context record as a function of the state of Table 3.4 (R73, R451; log entry 15). -/
opaque Config.contextRecord : Nat → Nat

end Sys2Proof
end

