-- ==== Sys2Proof/Machine/Bits.lean ====
section
/-! DEFINITION. Bit fields, byte order and sign extension (R29, R101): the one place where they are decided. -/

namespace Sys2Proof.Machine

/-- Bits [hi:lo] of a word or record held as a number. -/
def bits (w hi lo : Nat) : Nat := (w >>> lo) % 2 ^ (hi + 1 - lo)

/-- Bit i of a record held as a number. -/
def bitAt (w i : Nat) : Bool := w.testBit i

/-- A bit as a number. -/
def b2n (b : Bool) : Nat := if b then 1 else 0

/-- Little-endian bytes as a number (R29, R101). -/
def leNat : List Byte → Nat
  | [] => 0
  | b :: t => b.toNat + 256 * leNat t

/-- The low n bytes of a number, little-endian. -/
def leBytes : Nat → Nat → List Byte
  | 0, _ => []
  | n + 1, w => BitVec.ofNat 8 w :: leBytes n (w / 256)

/-- Big-endian bytes as a number: the key and signature encoding of R429, and digests as byte strings. -/
def beNat (l : List Byte) : Nat := l.foldl (fun a b => a * 256 + b.toNat) 0

/-- The low n bytes of a number, big-endian. -/
def beBytes (n w : Nat) : List Byte := (leBytes n w).reverse

/-- Sign extension of an n-bit field to a 64-bit word. -/
def sext64 (n v : Nat) : Word64 :=
  let u := v % 2 ^ n
  if u < 2 ^ (n - 1) then BitVec.ofNat 64 u else BitVec.ofNat 64 (u + (2 ^ 64 - 2 ^ n))

/-- Packs (width, value) items from the least significant bit up, each at its declared width. -/
def packBits : List (Nat × Nat) → Nat
  | [] => 0
  | (w, v) :: t => v % 2 ^ w + 2 ^ w * packBits t

/-- Ceiling division. -/
def cdiv (a b : Nat) : Nat := (a + b - 1) / b

/-- Rounds a up to a multiple of b. -/
def alignUp (a b : Nat) : Nat := cdiv a b * b

/-- Two half-open ranges share a byte. -/
def overlaps (a la b lb : Nat) : Bool := a < b + lb && b < a + la

/-- The list 0 … n-1 with its elements that satisfy p. -/
def idxWhere (n : Nat) (p : Nat → Bool) : List Nat := (List.range n).filter p

/-- A number saturated at the largest value of its width (R491). -/
def satAt (w v : Nat) : Nat := min v (2 ^ w - 1)

/-- Splits a list into pieces of n (n > 0), the last one possibly shorter; fuel is the list's length. -/
def piecesOf {α : Type} (n : Nat) : Nat → List α → List (List α)
  | 0, _ => []
  | fuel + 1, l => if l.isEmpty then [] else l.take n :: piecesOf n fuel (l.drop n)

/-- All pieces of n elements. -/
def pieces {α : Type} (n : Nat) (l : List α) : List (List α) := piecesOf n l.length l

/-- Pads a list on the right to n elements. -/
def padTo {α : Type} (n : Nat) (d : α) (l : List α) : List α := l.take n ++ List.replicate (n - l.length) d

/-- The byte string of a number given in hexadecimal digits order (byte 0 first, R101), n bytes. -/
def strBytes (n w : Nat) : List Byte := beBytes n w

/-- Inserts x in front of the first y that it may stand before. -/
def insertBy {α : Type} (before : α → α → Bool) (x : α) : List α → List α
  | [] => [x]
  | y :: t => if before x y then x :: y :: t else y :: insertBy before x t

/-- Sorts by insertion from the last element on; `before` true of equals keeps their order. -/
def sortBy {α : Type} (before : α → α → Bool) (l : List α) : List α := l.foldr (insertBy before) []

/-! Status codes (Table 14.13). -/

abbrev stOk : Nat := 0x00
abbrev stPending : Nat := 0x01
abbrev stBusy : Nat := 0x02
abbrev stDenied : Nat := 0x03
abbrev stBadArg : Nat := 0x04
abbrev stNoResource : Nat := 0x05
abbrev stShape : Nat := 0x06
abbrev stAbandoned : Nat := 0x07
abbrev stSigInvalid : Nat := 0x08
abbrev stConflict : Nat := 0x09
abbrev stPoisoned : Nat := 0x0A

end Sys2Proof.Machine
end

