-- ==== Sys2Proof/Machine/Arith.lean ====
section
/-! DEFINITION. Number formats, conversions and rounding (ch. 2): every floating value is kept exactly, as a sign, a
magnitude and a power of two, and is rounded only where a rule says so. -/

namespace Sys2Proof.Machine

/-- A value of a floating format: a NaN, an infinity, or (−1)^neg × m × 2^e. -/
inductive Val where
  | nan
  | inf (neg : Bool)
  | fin (neg : Bool) (m : Nat) (e : Int)
  deriving DecidableEq, Repr

/-- Positive zero. -/
def vZero : Val := .fin false 0 0

/-- A natural number as a value. -/
def vNat (n : Nat) : Val := .fin false n 0

/-- A floating layout (Table 2.2): exponent bits, fraction bits, bias; `e4m3` marks the one without infinities. -/
structure FloatFmt where
  eb : Nat
  fb : Nat
  bias : Nat
  e4m3 : Bool := false
  deriving DecidableEq, Repr

def f32 : FloatFmt := ⟨8, 23, 127, false⟩
def f32x : FloatFmt := ⟨8, 39, 127, false⟩
def fbf16 : FloatFmt := ⟨8, 7, 127, false⟩
def ff16 : FloatFmt := ⟨5, 10, 15, false⟩
def fe4m3 : FloatFmt := ⟨4, 3, 7, true⟩
def fe5m2 : FloatFmt := ⟨5, 2, 15, false⟩
/-- The element of an FP4 block before its scale. -/
def fe2m1 : FloatFmt := ⟨2, 1, 1, false⟩

/-- m / 2^k rounded to nearest, ties to even (R36). -/
def rneShift (m k : Nat) : Nat :=
  if k = 0 then m else
    let q := m >>> k
    let r := m % 2 ^ k
    let half := 2 ^ (k - 1)
    if r > half ∨ (r = half ∧ q % 2 = 1) then q + 1 else q

/-- Rounds m × 2^e to `fb` fraction bits, no finer than 2^qmin and with no upper limit (R37). -/
def roundMag (fb : Nat) (qmin : Int) (m : Nat) (e : Int) : Nat × Int :=
  if m = 0 then (0, qmin) else
    let q := max ((Nat.log2 m : Int) + e - fb) qmin
    if q ≤ e then (m, e) else (rneShift m (q - e).toNat, q)

/-- m₁ × 2^e₁ ≤ m₂ × 2^e₂. -/
def magLe (m₁ : Nat) (e₁ : Int) (m₂ : Nat) (e₂ : Int) : Bool :=
  let e := min e₁ e₂
  decide (m₁ * 2 ^ (e₁ - e).toNat ≤ m₂ * 2 ^ (e₂ - e).toNat)

/-- The weight of the last fraction bit of the subnormals of a layout. -/
def FloatFmt.qmin (f : FloatFmt) : Int := 1 - (f.bias : Int) - f.fb

/-- The bits of an exactly representable magnitude. -/
def packMag (f : FloatFmt) (m : Nat) (e : Int) : Nat :=
  if m = 0 then 0 else
    let top := (Nat.log2 m : Int) + e
    if top < 1 - (f.bias : Int) then m * 2 ^ (e - f.qmin).toNat
    else
      let q := top - f.fb
      let frac := if q ≤ e then m * 2 ^ (e - q).toNat else m / 2 ^ (q - e).toNat
      (top + f.bias).toNat * 2 ^ f.fb + (frac - 2 ^ f.fb)

/-- The largest finite encoding of a layout, without its sign (Table 2.2). -/
def FloatFmt.maxBits (f : FloatFmt) : Nat :=
  if f.e4m3 then 2 ^ (f.eb + f.fb) - 2 else if f.fb = 1 then 7 else (2 ^ f.eb - 1) * 2 ^ f.fb - 1

/-- The canonical NaN (R39). -/
def FloatFmt.nanBits (f : FloatFmt) : Nat :=
  if f.e4m3 then 2 ^ (f.eb + f.fb) - 1 else
    if f.fb = 2 then 0x7F else (2 ^ f.eb - 1) * 2 ^ f.fb + 2 ^ (f.fb - 1)

/-- Values of a layout's encodings (R31). -/
def decodeFloat (f : FloatFmt) (raw : Nat) : Val :=
  let neg := raw.testBit (f.eb + f.fb)
  let ef := (raw >>> f.fb) % 2 ^ f.eb
  let fr := raw % 2 ^ f.fb
  if f.e4m3 then
    if ef = 15 ∧ fr = 7 then .nan
    else if ef = 0 then .fin neg fr f.qmin else .fin neg (2 ^ f.fb + fr) ((ef : Int) - 1 + f.qmin)
  else if ef = 2 ^ f.eb - 1 ∧ f.fb ≠ 1 then (if fr = 0 then .inf neg else .nan)
  else if ef = 0 then .fin neg fr f.qmin else .fin neg (2 ^ f.fb + fr) ((ef : Int) - 1 + f.qmin)

/-- Conversion into a float layout: round, then the overflow rule (R37, R38, Table 2.5). -/
def encodeFloat (f : FloatFmt) (v : Val) : Nat :=
  let sgn := fun (neg : Bool) => if neg then 2 ^ (f.eb + f.fb) else 0
  let infBits := (2 ^ f.eb - 1) * 2 ^ f.fb
  match v with
  | .nan => f.nanBits
  | .inf neg => sgn neg + (if f.e4m3 ∨ f.fb = 1 then f.maxBits else infBits)
  | .fin neg m e =>
    let r := roundMag f.fb f.qmin m e
    let p := packMag f r.1 r.2
    sgn neg + (if p ≤ f.maxBits then p else if f.e4m3 ∨ f.fb ≤ 2 then f.maxBits else infBits)

/-- Rounds a value once to a layout (R36). -/
def roundTo (f : FloatFmt) (v : Val) : Val := decodeFloat f (encodeFloat f v)

def rnd32 (v : Val) : Val := roundTo f32 v
def rndX (v : Val) : Val := roundTo f32x v

def vNeg : Val → Val
  | .nan => .nan
  | .inf s => .inf (!s)
  | .fin s m e => .fin (!s) m e

def vAbs : Val → Val
  | .nan => .nan
  | .inf _ => .inf false
  | .fin _ m e => .fin false m e

/-- Exact product; zero times infinity is a NaN (R47). -/
def vMul : Val → Val → Val
  | .nan, _ => .nan
  | _, .nan => .nan
  | .inf s, .inf t => .inf (s ^^ t)
  | .inf s, .fin t m _ => if m = 0 then .nan else .inf (s ^^ t)
  | .fin t m _, .inf s => if m = 0 then .nan else .inf (s ^^ t)
  | .fin s m e, .fin t n g => .fin (s ^^ t) (m * n) (e + g)

/-- The signed integer of a magnitude. -/
def sInt (neg : Bool) (m : Nat) : Int := if neg then -(m : Int) else m

/-- Exact sum; an exact zero sum is +0 (R40), infinities of both signs give a NaN (R47). -/
def vAdd : Val → Val → Val
  | .nan, _ => .nan
  | _, .nan => .nan
  | .inf s, .inf t => if s = t then .inf s else .nan
  | .inf s, .fin _ _ _ => .inf s
  | .fin _ _ _, .inf s => .inf s
  | .fin s m e, .fin t n g =>
    let q := min e g
    let x := sInt s (m * 2 ^ (e - q).toNat) + sInt t (n * 2 ^ (g - q).toNat)
    .fin (decide (x < 0)) x.natAbs q

/-- Exact sum of a list. -/
def vSum (l : List Val) : Val := l.foldl vAdd vZero

/-- a ≤ b on values that are not NaN, +0 counted above −0 (R79). -/
def vLe : Val → Val → Bool
  | .nan, _ => false
  | _, .nan => false
  | .inf s, .inf t => s || !t
  | .inf s, .fin _ _ _ => s
  | .fin _ _ _, .inf t => !t
  | .fin s m e, .fin t n g =>
    let q := min e g
    let x := sInt s (m * 2 ^ (e - q).toNat)
    let y := sInt t (n * 2 ^ (g - q).toNat)
    if x = y then (s || !t || decide (m ≠ 0)) else decide (x < y)

/-- Strictly below, as numbers (both zeros equal). -/
def vLt (a b : Val) : Bool :=
  match a, b with
  | .fin s m e, .fin t n g =>
    let q := min e g
    decide (sInt s (m * 2 ^ (e - q).toNat) < sInt t (n * 2 ^ (g - q).toNat))
  | _, _ => vLe a b && !vLe b a

def vMax (a b : Val) : Val := if a = .nan ∨ b = .nan then .nan else if vLe a b then b else a
def vMin (a b : Val) : Val := if a = .nan ∨ b = .nan then .nan else if vLe a b then a else b

/-- Multiplication by 2^k. -/
def vScale (v : Val) (k : Int) : Val :=
  match v with
  | .fin s m e => .fin s m (e + k)
  | v => v

/-- a / b for finite b ≠ 0, with enough bits and a sticky bit for any one rounding that follows. -/
def vDiv (a b : Val) : Val :=
  match a, b with
  | .nan, _ => .nan
  | _, .nan => .nan
  | .inf _, .inf _ => .nan
  | .inf s, .fin t _ _ => .inf (s ^^ t)
  | .fin s _ _, .inf t => .fin (s ^^ t) 0 0
  | .fin s m e, .fin t n g =>
    if n = 0 then (if m = 0 then .nan else .inf (s ^^ t)) else
      let k := 128 + Nat.log2 n
      let num := m * 2 ^ k
      .fin (s ^^ t) (num / n * 2 + (if num % n = 0 then 0 else 1)) (e - g - k - 1)

/-- The integer square root, bit by bit from bit b down. -/
def isqrtFrom (n : Nat) : Nat → Nat → Nat
  | 0, r => if (r + 1) * (r + 1) ≤ n then r + 1 else r
  | b + 1, r => isqrtFrom n b (if (r + 2 ^ (b + 1)) * (r + 2 ^ (b + 1)) ≤ n then r + 2 ^ (b + 1) else r)

def isqrt (n : Nat) : Nat := isqrtFrom n (Nat.log2 n / 2 + 1) 0

/-- Square root of a value at or above zero, with a sticky bit for one rounding. -/
def vSqrt (v : Val) : Val :=
  match v with
  | .nan => .nan
  | .inf s => if s then .nan else .inf false
  | .fin s m e =>
    if m = 0 then v else if s then .nan else
      let odd := e % 2 ≠ 0
      let n := (if odd then m * 2 else m) * 2 ^ 160
      let e' := if odd then e - 1 else e
      let r := isqrt n
      .fin false (r * 2 + (if r * r = n then 0 else 1)) (e' / 2 - 81)

/-- Rounds a finite value to an integer by R36. -/
def vRoundInt (neg : Bool) (m : Nat) (e : Int) : Int :=
  sInt neg (if 0 ≤ e then m * 2 ^ e.toNat else rneShift m (-e).toNat)

/-- ⌊v⌋ of a finite value. -/
def vFloor (v : Val) : Int :=
  match v with
  | .fin neg m e => if 0 ≤ e then sInt neg (m * 2 ^ e.toNat) else Int.fdiv (sInt neg m) (2 ^ (-e).toNat)
  | _ => 0

/-- The floor of log2 of a magnitude, 0 for zero. -/
def vLog2 (v : Val) : Int :=
  match v with
  | .fin _ m e => if m = 0 then 0 else (Nat.log2 m : Int) + e
  | _ => 0

def vIsFinite : Val → Bool
  | .fin _ _ _ => true
  | _ => false

def vIsZero : Val → Bool
  | .fin _ m _ => m == 0
  | _ => false

/-! Format codes (Table 2.1). -/

/-- The layout of a floating format code. -/
def fmtFloat (c : Nat) : Option FloatFmt :=
  match c with
  | 0 => some f32
  | 1 => some f32x
  | 2 => some fbf16
  | 3 => some ff16
  | 4 => some fe4m3
  | 5 => some fe5m2
  | _ => none

/-- Element size in bytes (Table 2.1); FP4 has none of its own. -/
def fmtSize (c : Nat) : Nat :=
  match c with
  | 0 => 4
  | 1 => 8
  | 2 => 2
  | 3 => 2
  | 4 => 1
  | 5 => 1
  | 7 => 1
  | 8 => 16
  | _ => 0

/-- A code of Table 2.1 that is not reserved (R28). -/
def fmtKnown (c : Nat) : Bool := c ≤ 8

/-- Matrix operand formats of the tiles (Table 2.1). -/
def fmtMatrix (c : Nat) : Bool := c == 0 || (2 ≤ c && c ≤ 6)

/-- Vector operand formats (Table 2.1). -/
def fmtVector (c : Nat) : Bool := c ≤ 5 || c == 7

/-- An element read from its stored bits (R31, R34, R35; Keg as R51). -/
def decodeElem (c raw : Nat) : Val :=
  match c with
  | 1 => decodeFloat f32x (raw >>> 16)
  | 7 => let u := raw % 256; if u < 128 then .fin false u 0 else .fin true (256 - u) 0
  | 8 => .fin false (raw % 2 ^ 96) (-64)
  | c => match fmtFloat c with
    | some f => decodeFloat f raw
    | none => .nan

/-- A value converted and stored in a format (Table 2.5). -/
def encodeElem (c : Nat) (v : Val) : Nat :=
  match c with
  | 1 => encodeFloat f32x v <<< 16
  | 7 =>
    match v with
    | .nan => 0
    | .inf neg => if neg then 0x80 else 0x7F
    | .fin neg m e =>
      let x := vRoundInt neg m e
      if x > 127 then 0x7F else if x < -128 then 0x80 else (x % 256).toNat
  | c => match fmtFloat c with
    | some f => encodeFloat f v
    | none => 0

/-- Elements of a byte string. -/
def elemsOf (c : Nat) (l : List Byte) : List Val := (pieces (fmtSize c) l).map (fun b => decodeElem c (leNat b))

/-- The byte string of elements. -/
def elemsBytes (c : Nat) (l : List Val) : List Byte := l.flatMap (fun v => leBytes (fmtSize c) (encodeElem c v))

/-! FP4 blocks (R30, R32, R33, R41). -/

/-- Element code and scale code of an FP4 element to its value. -/
def fp4Val (scale code : Nat) : Val :=
  if scale ≥ 0xFD then .nan else vScale (decodeFloat fe2m1 (code % 16)) ((scale : Int) - 127)

/-- The 16 bytes of a block's element codes to its codes, low nibble first (R29). -/
def fp4Codes (l : List Byte) : List Nat := l.flatMap (fun b => [b.toNat % 16, b.toNat / 16])

/-- Element codes to bytes. -/
def fp4Pack : List Nat → List Byte
  | a :: b :: t => BitVec.ofNat 8 (a % 16 + 16 * (b % 16)) :: fp4Pack t
  | [a] => [BitVec.ofNat 8 (a % 16)]
  | [] => []

/-- The values of a block. -/
def fp4Block (scale : Nat) (l : List Byte) : List Val := (fp4Codes l).map (fp4Val scale)

/-- The magnitude that R41 treats an element as. -/
def fp4Mag (v : Val) : Val :=
  match v with
  | .inf _ => decodeFloat f32 0x7F7FFFFF
  | v => vAbs v

/-- Conversion of one block to FP4: scale code and element codes (R41, R33). -/
def toFp4 (l : List Val) : Nat × List Nat :=
  if l.any (fun v => v == .nan) then (0xFF, l.map (fun _ => 0)) else
    let m := l.foldl (fun a v => vMax a (fp4Mag v)) vZero
    let k : Int := if vIsZero m then 0 else max (-127) (min 125 (vLog2 m - 2))
    ((k + 127).toNat, l.map (fun v => encodeFloat fe2m1 (vScale v (-k))))

/-! The common format of two matrix operands (Table 2.7). -/

/-- The narrowest matrix format that holds both operands (R43). -/
def commonFmt (a b : Nat) : Nat :=
  if a = b then a
  else if a = 0 ∨ b = 0 then 0
  else if a = 3 ∨ b = 3 then (if a = 2 ∨ b = 2 ∨ a = 6 ∨ b = 6 then 0 else 3)
  else 2

/-- MAC per cycle order: the largest inner depth of the common format (Table 3.7). -/
def maxDepth (c : Nat) : Nat :=
  match c with
  | 6 => 2048
  | 4 => 1024
  | 5 => 1024
  | 2 => 512
  | 3 => 512
  | _ => 128

/-! Accumulation (R44 to R50). -/

/-- Exact groups of 32 products, each rounded once to FP32 and added with one rounding (R44, R45, R48). -/
def dotGroups (acc : Val) (a b : List Val) : Val :=
  (pieces 32 (a.zip b)).foldl (fun s g => rnd32 (vAdd s (rnd32 (vSum (g.map (fun p => vMul p.1 p.2)))))) acc

/-- One element of a matrix product of the MXU, added to `acc`: FP32 operands by one fused multiply-add per index (R46),
others by groups (R44). -/
def dotInto (common : Nat) (acc : Val) (a b : List Val) : Val :=
  if common = 0 then (a.zip b).foldl (fun s p => rnd32 (vAdd (vMul p.1 p.2) s)) acc else dotGroups acc a b

/-- `chunk_sum` of R142: chunks of 32, each exact and rounded once to FP32x, added in ascending order. -/
def chunkSum (l : List Val) : Val :=
  (pieces 32 l).foldl (fun s g => rndX (vAdd s (rndX (vSum g)))) vZero

/-! The Keg (R51 to R56). -/

/-- A term truncated toward zero to a multiple of 2^-64 (R52). -/
def kegTerm (v : Val) : Nat :=
  match v with
  | .fin false m e => if -64 ≤ e then m * 2 ^ (e + 64).toNat else m / 2 ^ (-64 - e).toNat
  | _ => 0

/-- Addition into the Keg (R53). -/
def kegAdd (a b : Nat) : Nat := (a + b) % 2 ^ 96

/-- The anchor of a Keg rises by d (R54). -/
def kegShift (k d : Nat) : Nat := k / 2 ^ d

/-- Keg to FP32 (R56). -/
def kegTo32 (k : Nat) : Val := rnd32 (.fin false k (-64))

/-- Rescaling of a numerator element when the anchor rises by d (R57). -/
def numRescale (v : Val) (d : Nat) : Val := rndX (vScale v (-(d : Int)))

end Sys2Proof.Machine
end

