-- ==== Sys2Proof/Machine/Special.lean ====
section
/-! DEFINITION. Special functions, micro-programs and row statistics (ch. 5).  A built-in function is reduced, evaluated
segment by segment, clamped and scaled as R135, R136 and Table 5.1 have it, with coefficients that the manual does not
give; the exact functions, computed to several hundred bits, hold it to the bound of R139 (log entry 9). -/

namespace Sys2Proof.Machine

/-! The exact functions in fixed point with 704 fraction bits. -/

def fxP : Nat := 704
def fxOne : Int := 2 ^ fxP
def fxMul (a b : Int) : Int := a * b / fxOne
def fxDiv (a b : Int) : Int := a * fxOne / b

/-- A finite value in fixed point. -/
def fxOf (v : Val) : Int :=
  match v with
  | .fin s m e => sInt s (if 0 ≤ e + fxP then m * 2 ^ (e + fxP).toNat else m / 2 ^ (-(e + fxP)).toNat)
  | _ => 0

def fxVal (x : Int) : Val := .fin (decide (x < 0)) x.natAbs (-(fxP : Int))

/-- Σ termₙ with term₀ = t and termₙ₊₁ = step n termₙ. -/
def fxSeries (step : Nat → Int → Int) : Nat → Nat → Int → Int → Int
  | 0, _, _, acc => acc
  | k + 1, n, t, acc => fxSeries step k (n + 1) (step n t) (acc + t)

/-- atanh z for |z| ≤ 1/3: Σ z^(2n+1)/(2n+1). -/
def fxAtanh (z : Int) : Int :=
  let z2 := fxMul z z
  (List.range 240).foldl (fun (p : Int × Int) (n : Nat) => (fxMul p.1 z2, p.2 + p.1 / (2 * (n : Int) + 1))) (z, 0) |>.2

def fxLn2 : Int := 2 * fxAtanh (fxOne / 3)

/-- arctan of 1/k. -/
def fxArctanInv (k : Int) : Int :=
  (List.range 520).foldl (fun (p : Int × Int) (n : Nat) =>
    (p.1 / (k * k), if n % 2 = 0 then p.2 + p.1 / (2 * (n : Int) + 1) else p.2 - p.1 / (2 * (n : Int) + 1)))
    (fxOne / k, 0) |>.2

def fxPi : Int := 4 * (4 * fxArctanInv 5 - fxArctanInv 239)
def fxSqrt (x : Int) : Int := (isqrt (x.toNat * 2 ^ fxP) : Int)

/-- e^x as a value. -/
def exactExp (x : Int) : Val :=
  let n := x.fdiv fxLn2
  let r := x - n * fxLn2
  vScale (fxVal (fxSeries (fun n t => fxMul t r / ((n : Int) + 1)) 160 0 fxOne 0)) n

/-- ln of a positive value. -/
def exactLn (v : Val) : Int :=
  let e := vLog2 v
  let m := fxOf (vScale v (-e))
  let e' := if 3 * fxOne ≤ 2 * m then e + 1 else e
  let m' := if 3 * fxOne ≤ 2 * m then m / 2 else m
  e' * fxLn2 + 2 * fxAtanh (fxDiv (m' - fxOne) (m' + fxOne))

/-- erf x. -/
def exactErf (x : Int) : Int :=
  let x2 := fxMul x x
  let s := (List.range 900).foldl (fun (p : Int × Int) (n : Nat) =>
    (-(fxMul p.1 x2) / ((n : Int) + 1), p.2 + p.1 / (2 * (n : Int) + 1))) (x, 0) |>.2
  fxDiv (2 * s) (fxSqrt fxPi)

def vOne : Val := .fin false 1 0

/-- 1 / (1 + e^-x). -/
def exactSigmoid (x : Int) : Val := vDiv vOne (vAdd vOne (exactExp (-x)))

/-- The exact function of a built-in code at a finite argument outside the exact rows of Table 5.2. -/
def exactFn (func : Nat) (v : Val) : Val :=
  let x := fxOf v
  match func with
  | 0 => exactExp (fxMul x fxLn2)
  | 1 => fxVal (fxDiv (exactLn v) fxLn2)
  | 2 => vDiv vOne v
  | 3 => vDiv vOne (vSqrt v)
  | 4 => fxVal (exactErf x)
  | 5 => vMul v (fxVal ((fxOne + exactErf (fxDiv x (fxSqrt (2 * fxOne)))) / 2))
  | 6 =>
    let u := fxMul (fxSqrt (fxDiv (2 * fxOne) fxPi)) (x + fxMul (fxMul x x) x * 44715 / 1000000)
    vMul v (exactSigmoid (2 * u))
  | 7 => exactSigmoid x
  | 8 => vMul v (exactSigmoid x)
  | _ =>
    let z := exactExp (-(x.natAbs : Int))
    let l := fxVal (exactLn (vAdd vOne z))
    -- ln(1 + z) loses nothing at the arguments above −104 of Table 5.2
    if x < 0 then l else vAdd v l

/-- sin x for 0 ≤ x ≤ π/2. -/
def fxSin (x : Int) : Int :=
  let x2 := fxMul x x
  ((List.range 90).foldl (fun (p : Int × Int) (n : Nat) =>
    (-(fxMul p.1 x2) / ((2 * (n : Int) + 2) * (2 * (n : Int) + 3)), p.2 + p.1)) (x, 0)).2

/-- y lies within n units of the FP32 spacing at the exact value (R139). -/
def withinUlp (n : Nat) (y ex : Val) : Bool :=
  vIsFinite y && vLe (vAbs (vAdd y (vNeg ex))) (.fin false n (max (vLog2 ex - 23) (-149)))

/-- v ≥ k, for an integer k. -/
def geInt (v : Val) (k : Int) : Bool := vLe (.fin (decide (k < 0)) k.natAbs 0) v
/-- v ≤ k. -/
def leInt (v : Val) (k : Int) : Bool := vLe v (.fin (decide (k < 0)) k.natAbs 0)

def vInf (neg : Bool) : Val := .inf neg
def vNegZero : Val := .fin true 0 0

/-- The value is an integer. -/
def isIntVal (v : Val) : Bool := vIsZero (vAdd v (.fin (decide (0 ≤ vFloor v)) (vFloor v).natAbs 0))

/-- The exact rows of Table 5.2 (R141); none where the bound of Table 5.1 governs.  exp2 of an integer is its power
of two, and log2 of a power of two its exponent, because the segment value at 0 and at 1 is exact (R136). -/
def tableFn (func : Nat) (v : Val) : Option Val :=
  let half : Val := .fin false 1 (-1)
  let x17 : Val := .fin false 35 (-1)
  match func, v with
  | _, .nan => some .nan
  | 0, .inf neg => some (if neg then vZero else vInf false)
  | 0, .fin _ m _ =>
    if m = 0 then some vOne
    else if geInt v 128 then some (vInf false)
    else if leInt v (-150) then some vZero
    else if isIntVal v then some (rnd32 (.fin false 1 (vFloor v)))
    else none
  | 1, .inf neg => some (if neg then .nan else vInf false)
  | 1, .fin s m e =>
    if m = 0 then some (vInf true)
    else if s then some .nan
    else if m = 2 ^ Nat.log2 m then
      let k := (Nat.log2 m : Int) + e
      some (.fin (decide (k < 0)) k.natAbs 0)
    else none
  | 2, .inf neg => some (.fin neg 0 0)
  | 2, .fin s m _ => if m = 0 then some (vInf s) else none
  | 3, .inf neg => some (if neg then .nan else vZero)
  | 3, .fin s m _ => if m = 0 then some (vInf s) else if s then some .nan else none
  | 4, .inf neg => some (.fin neg 1 0)
  | 4, .fin s m _ =>
    if m = 0 then some v else if geInt (vAbs v) 4 then some (.fin s 1 0) else none
  | 5, .inf neg => some (if neg then vNegZero else vInf false)
  | 5, .fin _ m _ =>
    if m = 0 then some v else if geInt v 8 then some v else if leInt v (-16) then some vNegZero else none
  | 6, .inf neg => some (if neg then vNegZero else vInf false)
  | 6, .fin _ m _ =>
    if m = 0 then some v else if geInt v 8 then some v else if leInt v (-11) then some vNegZero else none
  | 7, .inf neg => some (if neg then vZero else vOne)
  | 7, .fin _ m _ =>
    if m = 0 then some half else if vLe x17 v then some vOne else if leInt v (-104) then some vZero else none
  | 8, .inf neg => some (if neg then vNegZero else vInf false)
  | 8, .fin _ m _ =>
    if m = 0 then some v else if vLe x17 v then some v else if leInt v (-109) then some vNegZero else none
  | _, .inf neg => some (if neg then vZero else vInf false)
  | _, .fin _ m _ =>
    if m = 0 then some (decodeFloat f32 0x3F317218) else if geInt v 16 then some v
    else if leInt v (-104) then some vZero else none

/-! Segments (R135, R136, R138).  A table is one row of Table 5.1 as it is laid out in segments: 0 exp2, 1 log2,
2 reciprocal, 3 reciprocal square root, 4 erf, 5 Φ, 6 the factor of x in the tanh form, 7 σ, 9 softplus, and 10 the sine of a
quarter turn (R241). -/

def vInt (i : Int) : Val := .fin (decide (i < 0)) i.natAbs 0

/-- Equality as numbers: both zeros are equal. -/
def vNumEq (a b : Val) : Bool := a != .nan && b != .nan && !vLt a b && !vLt b a

/-- Segments of a table. -/
def segCount (id : Nat) : Nat :=
  match id with
  | 0 => 32 | 1 => 48 | 2 => 32 | 3 => 64 | 4 => 64 | 5 => 96 | 6 => 76 | 7 => 129 | 9 => 128 | _ => 64

/-- Segments that give a base-2 logarithm, which passes through exp2: they stand first. -/
def segLog (id : Nat) : Nat := match id with | 5 => 48 | 6 => 28 | _ => 0

/-- Degree of a table's polynomials. -/
def segDegree (id : Nat) : Nat := if id < 4 then 4 else 5

/-- log2 of the unit in which a table's segments are laid out, and the start of segment 0 in that unit.  Segments are one unit
wide, but for those of table 3, of three, and the last of table 7, of six (log entry 9). -/
def segUnit (id : Nat) : Int × Int :=
  match id with
  | 0 => (-5, 0) | 1 => (-6, 48) | 2 => (-5, 32) | 3 => (-6, 64) | 4 => (-4, 0) | 5 => (-2, -64) | 6 => (-2, -44)
  | 7 => (-2, -64) | 9 => (-2, -64) | _ => (-6, 0)

/-- Where segment k of a table begins. -/
def segStart (id k : Nat) : Val :=
  vScale (vInt ((segUnit id).2 + (if id = 3 then 3 * k else if id = 7 ∧ 128 < k then 134 else k : Nat))) (segUnit id).1

/-- The segment in which an argument within the table's range falls; a seam belongs to the segment that begins there. -/
def segOf (id : Nat) (x : Val) : Nat :=
  let i := vFloor (vScale x (-(segUnit id).1)) - (segUnit id).2
  min (if id = 3 then i / 3 else i).toNat (segCount id - 1)

/-- The fraction t of an argument in segment k. -/
def segFrac (id k : Nat) (x : Val) : Val :=
  let d := vScale (vAdd x (vNeg (segStart id k))) (-(segUnit id).1)
  if id = 3 then rndX (vDiv d (vNat 3)) else if id = 7 ∧ k = 128 then rndX (vDiv d (vNat 6)) else d

/-- The exact function of a table. -/
def segFactor (id : Nat) (x : Val) : Val :=
  let y := fxOf x
  match id with
  | 5 => fxVal ((fxOne + exactErf (fxDiv y (fxSqrt (2 * fxOne)))) / 2)
  | 6 => exactSigmoid (2 * fxMul (fxSqrt (fxDiv (2 * fxOne) fxPi)) (y + fxMul (fxMul y y) y * 44715 / 1000000))
  | 10 => fxVal (fxSin (fxMul y (fxPi / 2)))
  | _ => exactFn id x

/-- What segment k's polynomial stands for: the function, or its base-2 logarithm. -/
def segExact (id k : Nat) (x : Val) : Val := if k < segLog id then exactFn 1 (segFactor id x) else segFactor id x

/-- The seams whose value Table 5.2, R241 or the end of the range gives; none where only the bound governs. -/
def seamExact (id k : Nat) : Option Val :=
  match id, k with
  | 0, 0 => some vOne | 0, 32 => some (vNat 2)
  | 1, 16 => some vZero
  | 2, 0 => some vOne | 2, 32 => some (.fin false 1 (-1))
  | 3, 0 => some vOne | 3, 64 => some (.fin false 1 (-1))
  | 4, 0 => some vZero | 4, 64 => some vOne
  | 5, 96 => some vOne | 6, 76 => some vOne
  | 7, 64 => some (.fin false 1 (-1)) | 7, 129 => some vOne
  | 9, 64 => some (decodeFloat f32 0x3F317218) | 9, 128 => some (vNat 16)
  | 10, 0 => some vZero | 10, 64 => some vOne
  | _, _ => none

/-- The last steps of R135, to the FP32 result: a scaling by 2^n; a product with the argument. -/
def scaled32 (p : Val) (n : Int) : Val := rnd32 (rndX (vScale p n))
def times32 (x p : Val) : Val := rnd32 (rndX (vMul x p))

/-- The value p of a table at x keeps the bound of Table 5.1 (R139) in every function that uses the table, whatever its
remaining steps scale it by; `ex` is the exact value. -/
def segBound (id : Nat) (x p ex : Val) : Bool :=
  match id with
  | 0 => ((0 : Int) :: (List.range 25).map (fun (i : Nat) => -126 - (i : Int))).all (fun n => withinUlp 1 (scaled32 p n) (vScale ex n))
  | 1 => (List.range 278).all (fun i => let e := vInt ((i : Int) - 150); withinUlp 1 (rnd32 (rndX (vAdd e p))) (vAdd e ex))
  | 2 => ([0, -125, -126, -127, -128] : List Int).all (fun n => withinUlp 1 (scaled32 p n) (vScale ex n))
  | 3 => withinUlp 1 (rnd32 p) ex
  | 4 => withinUlp 2 (rnd32 p) ex
  | 5 => withinUlp 3 (times32 x p) (vMul x ex)
  | 6 => withinUlp 3 (times32 x p) (vMul x ex)
  | 7 => withinUlp 2 (rnd32 p) ex && withinUlp 3 (times32 x p) (vMul x ex)
  | 9 => withinUlp 2 (rnd32 p) ex
  | _ => vIsFinite p && vLe (vAbs (vAdd (rnd32 p) (vNeg ex))) (.fin false 1 (-24))

/-- Coefficient j of segment k. -/
def segCoef (id k j : Nat) : Val := decodeFloat f32x (Config.coef id k j % 2 ^ 48)

/-- The value at the start of segment k as that segment has it: c0, or the exact value where c0 would break the bound. -/
def seamVal (id k : Nat) : Val :=
  match seamExact id k with
  | some v => v
  | none =>
    let x := segStart id k
    let c := segCoef id k 0
    let ex := segExact id k x
    if (if k < segLog id then withinUlp 1 (rnd32 c) ex else segBound id x c ex) then c else rndX ex

/-- The other end of segment k's clamp interval (R136): c0 of the next segment, in the terms of segment k.  The end of the last
logarithmic segment is a coefficient of its own. -/
def seamNext (id k : Nat) : Val :=
  if id = 1 ∧ k = 47 then vAdd vOne (seamVal 1 0)
  else if k + 1 = segLog id then
    let c := segCoef id k 6
    let ex := segExact id k (segStart id (k + 1))
    if withinUlp 1 (rnd32 c) ex then c else rndX ex
  else seamVal id (k + 1)

/-- Clamps a value to the interval between two seam values (R136). -/
def clampTo (a b p : Val) : Val :=
  let lo := if vLt b a then b else a
  let hi := if vLt b a then a else b
  if vLt p lo then lo else if vLt hi p then hi else p

/-- Segment k at fraction t: Horner's rule and the clamp (R135). -/
def segPoly (id k : Nat) (t : Val) : Val :=
  let n := segDegree id
  let c := fun j => if j = 0 then seamVal id k else segCoef id k j
  clampTo (seamVal id k) (seamNext id k)
    ((List.range n).foldl (fun p j => rndX (vAdd (c (n - 1 - j)) (vMul t p))) (c n))

/-- A table at x where its segment gives the function itself: the part's own value where it keeps the bound, else the exact
one, clamped all the same. -/
def segDirect (id : Nat) (x : Val) : Val :=
  let k := segOf id x
  let p := segPoly id k (segFrac id k x)
  let ex := segFactor id x
  if segBound id x p ex then p else clampTo (seamVal id k) (seamNext id k) (rndX ex)

/-- exp2 as a step within an evaluation: the reduction of code 0x00, in FP32x. -/
def exp2Step (x : Val) : Val :=
  let n := vFloor x
  rndX (vScale (segDirect 0 (vAdd x (vInt (-n)))) n)

/-- A table at x, through exp2 in its logarithmic segments, whose results do not pass the first direct seam. -/
def segAt (id : Nat) (x : Val) : Val :=
  let k := segOf id x
  if k < segLog id then
    let y := vMin (exp2Step (segPoly id k (segFrac id k x))) (seamVal id (segLog id))
    let ex := segFactor id x
    if segBound id x y ex then y else rndX ex
  else segDirect id x

/-! Monotone ranges (R140).  A result is the largest (or least) of the results at the FP32 arguments of its range up to its
own: of a part that keeps R140 it is that part's own result. -/

/-- The place of an FP32 value among all of them in order, and the value at a place. -/
def f32Ord (v : Val) : Int := let w := encodeFloat f32 v; if w < 2 ^ 31 then (w : Int) else 2 ^ 31 - (w : Int)
def f32At (i : Int) : Val := if i < 0 then vNeg (decodeFloat f32 i.natAbs) else decodeFloat f32 i.natAbs

/-- The FP32 values from a to b. -/
def f32Between (a b : Val) : List Val := (List.range (f32Ord b - f32Ord a + 1).toNat).map (fun (i : Nat) => f32At (f32Ord a + (i : Int)))

def rising (g : Val → Val) (l : List Val) (x : Val) : Val := l.foldl (fun m v => vMax m (g v)) (g x)
def falling (g : Val → Val) (l : List Val) (x : Val) : Val := l.foldl (fun m v => vMin m (g v)) (g x)

/-- The tables 1 to 3 at a reduced argument. -/
def segMono (id : Nat) (x : Val) : Val :=
  let l := f32Between (segStart id (segOf id x)) x
  if id = 1 then rising (segDirect id) l x else falling (segDirect id) l x

/-- 2^f for f in [0, 1): the fractions of FP32 arguments are the FP32 values and their differences from 1. -/
def exp2Frac (f : Val) : Val :=
  let one := fun v => vAdd vOne (vNeg v)
  if vNumEq f (rnd32 f) || vNumEq (one f) (rnd32 (one f)) then
    let a := segStart 0 (segOf 0 f)
    rising (segDirect 0) ((f32Between a f ++ (f32Between (one f) (one a)).map one).filter (fun v => !vLt v a && !vLt f v)) f
  else segDirect 0 f

/-- exp2 of a finite argument outside Table 5.2, to FP32. -/
def exp2Fn (v : Val) : Val := let n := vFloor v; scaled32 (exp2Frac (vAdd v (vInt (-n)))) n

/-- log2(e) in FP32x. -/
def vLog2E : Val := rndX (fxVal (fxDiv fxOne fxLn2))

/-- σ (table 7) or softplus (table 9) before its last rounding; below −16 as e^x (1 − e^x), e^x (1 − e^x / 2) via exp2. -/
def sigmoidAt (id : Nat) (v : Val) : Val :=
  if vLt v (vInt (-16)) then
    let e := exp2Step (rndX (vMul v vLog2E))
    let y := vMin (rndX (vMul e (rndX (vAdd vOne (vNeg (if id = 7 then e else vScale e (-1))))))) (seamVal id 0)
    let ex := segFactor id v
    if segBound id v y ex then y else rndX ex
  else segAt id v

/-- A function that falls down to the argument a and rises from the argument b on; `lo` is where its range begins. -/
def fallRise (g : Val → Val) (lo a b v : Val) : Val :=
  if !vLt a v then falling g (f32Between lo v) v else if !vLt v b then rising g (f32Between b v) v else g v

/-- A built-in function of a finite FP32 argument outside Table 5.2 (R135, R138 to R140). -/
def segFn (func : Nat) (v : Val) : Val :=
  let k := vLog2 v
  match func with
  | 0 => exp2Fn v
  | 1 =>
    let m := vScale v (-k)
    let up := !vLt m (.fin false 3 (-1))
    rnd32 (rndX (vAdd (vInt (if up then k + 1 else k)) (segMono 1 (if up then vScale m (-1) else m))))
  | 2 =>
    let y := scaled32 (segMono 2 (vScale (vAbs v) (-k))) (-k)
    if vLt v vZero then vNeg y else y
  | 3 => scaled32 (segMono 3 (vScale v (-2 * (k / 2)))) (-(k / 2))
  | 4 =>
    let y := rising (fun x => rnd32 (segAt 4 x)) (f32Between vZero (vAbs v)) (vAbs v)
    if vLt v vZero then vNeg y else y
  | 5 => fallRise (fun x => times32 x (segAt 5 x)) (vInt (-16)) (vInt (-1)) (.fin true 1 (-1)) v
  | 6 => fallRise (fun x => times32 x (segAt 6 x)) (vInt (-11)) (vInt (-1)) (.fin true 1 (-1)) v
  | 8 => fallRise (fun x => times32 x (sigmoidAt 7 x)) (vInt (-109)) (.fin true 3 (-1)) (vInt (-1)) v
  | id => rising (fun x => rnd32 (sigmoidAt id x)) (f32Between (vInt (-104)) v) v

/-- A built-in function of an FP32 argument, as an FP32 value (R135, R139, R141). -/
def builtinFn (func : Nat) (v : Val) : Val := (tableFn func v).getD (segFn func v)

/-- exp2 of an AE, on an argument in FP32x (R230). -/
def aeExp2 (v : Val) : Val := (tableFn 0 v).getD (exp2Fn v)

/-! Micro-programs (R145 to R147). -/

/-- FP32 field of a micro-program entry at bit position lo. -/
def mpF (p lo : Nat) : Val := decodeFloat f32 (bits p (lo + 31) lo)

def mpStages (p : Nat) : Nat := bits p 47 40
/-- Stage descriptor i (Table 5.4). -/
def mpStage (p i : Nat) : Nat := bits p (8 * (0x40 + 16 * i) + 127) (8 * (0x40 + 16 * i))
/-- Segment record j (Table 5.5). -/
def mpSeg (p j : Nat) : Nat := bits p (8 * (0x80 + 32 * j) + 255) (8 * (0x80 + 32 * j))

/-- One segment at fraction t: Horner's rule and the clamp (R135). -/
def evalSeg (seg : Nat) (t : Val) : Val :=
  let c := fun j => mpF seg (32 * j)
  let p := [4, 3, 2, 1, 0].foldl (fun p j => rndX (vAdd (c j) (vMul t p))) (c 5)
  let lo := mpF seg 192
  let hi := mpF seg 224
  if vLt p lo then lo else if vLt hi p then hi else p

/-- One stage (R147): `arg` is the argument, `prev` the previous stage's result. -/
def evalStage (p i : Nat) (arg prev : Val) : Val :=
  let d := mpStage p i
  let v := if bits d 39 36 = 1 then prev else arg
  let u := vMul (rndX (vAdd v (vNeg (mpF d 64)))) (mpF d 96)
  let n := bits d 55 48
  let u := if vLt u vZero then vZero else if vLt (vNat n) u then vNat n else u
  let k := min (vFloor u).toNat (n - 1)
  let q := evalSeg (mpSeg p (bits d 47 40 + k)) (vAdd u (.fin true k 0))
  match bits d 35 32 with
  | 0 => q
  | 1 => rndX (vMul arg q)
  | 2 => rndX (vMul prev q)
  | _ => rndX (vAdd prev q)

/-- A micro-program of an FP32 argument (R147). -/
def microFn (p : Nat) (v : Val) : Val :=
  if v = .nan then .nan
  else
    let v := if vIsZero v then vZero else v
    if vLt v (mpF p 64) then mpF p 128
    else if !vLt v (mpF p 96) then mpF p 160
    else rnd32 ((List.range (mpStages p)).foldl (fun prev i => evalStage p i v prev) v)

/-- An infinite result into FP8 or INT8 (R137). -/
def sfuInf (fmtD : Nat) (v : Val) : Val :=
  match v with
  | .inf neg =>
    match fmtD with
    | 4 => .fin neg 448 0
    | 5 => .fin neg 57344 0
    | 7 => if neg then .fin true 128 0 else .fin false 127 0
    | _ => v
  | v => v

/-! Row statistics (R142, R143). -/

def isInf : Val → Bool
  | .inf _ => true
  | _ => false

/-- Beyond the range of FP32 (R143). -/
def beyond32 (v : Val) : Bool := vLt (decodeFloat f32 0x7F7FFFFF) (vAbs v) || v == .nan

/-- The chunk sums of a row and their running sums. -/
def chunkParts (l : List Val) : List Val :=
  let cs := (pieces 32 l).map (fun g => rndX (vSum g))
  cs ++ (cs.foldl (fun (p : Val × List Val) c => let s := rndX (vAdd p.1 c); (s, p.2 ++ [s])) (vZero, [])).2

/-- The statistic of a row of elements in FP32 or FP32x. -/
def rowStat (func : Nat) (a : List Val) : Val :=
  let n := a.length
  if n = 0 then
    match func with
    | 0 => vInf true | 1 => vInf false | 2 => vZero | 5 => vZero | 6 => vZero | _ => .nan
  else if a.any (· == .nan) then .nan
  else
    let maxmag := a.foldl (fun m v => vMax m (vAbs v)) vZero
    let infs := a.any isInf
    let c := a.headD vZero
    let d := a.map (fun v => rndX (vAdd v (vNeg c)))
    let q := rndX (vDiv (chunkSum d) (vNat n))
    match func with
    | 0 => rnd32 (a.foldl vMax (vInf true))
    | 1 => rnd32 (a.foldl vMin (vInf false))
    | 2 => if infs then vSum a else rnd32 (chunkSum a)
    | 3 => if infs then vSum a else rnd32 (vAdd c q)
    | 4 =>
      if infs then .nan else
        let e := d.map (fun v => rndX (vAdd v (vNeg q)))
        let sq := e.map (fun v => vMul v v)
        let t := chunkSum sq
        if (d ++ e ++ chunkParts d ++ chunkParts sq ++ [q, t]).any beyond32 then vInf false
        else vMax (rnd32 (vDiv t (vNat n))) vZero
    | 5 =>
      if infs then vInf false else
        let k := vLog2 maxmag
        let b := a.map (fun v => rndX (vScale v (-k)))
        rnd32 (vScale (rndX (vSqrt (chunkSum (b.map (fun v => vMul v v))))) k)
    | _ => rnd32 maxmag

end Sys2Proof.Machine
end

