-- ==== Sys2Proof/Machine/Tab.lean ====
section
/-! DEFINITION. Sparse tables: a list of (index, entry) pairs in one canonical form, indices strictly rising and no
entry equal to what an unlisted index holds.  Memories are the tables of bytes. -/

namespace Sys2Proof.Machine

/-- A sparse table. -/
abbrev Tab (α : Type) := List (Nat × α)

/-- The entry at index i; `d` where none is listed. -/
def tabGet {α : Type} (d : α) : Tab α → Nat → α
  | [], _ => d
  | (k, v) :: t, i => if k = i then v else tabGet d t i

/-- Inserts an entry before the first larger index. -/
def tabIns {α : Type} (i : Nat) (v : α) : Tab α → Tab α
  | [] => [(i, v)]
  | (k, w) :: t => if i < k then (i, v) :: (k, w) :: t else (k, w) :: tabIns i v t

/-- Removes the entry at index i. -/
def tabDel {α : Type} (i : Nat) (t : Tab α) : Tab α := t.filter (fun e => e.1 != i)

/-- Writes the entry at index i; writing the value of an unlisted index removes it. -/
def tabPut {α : Type} [DecidableEq α] (d : α) (t : Tab α) (i : Nat) (v : α) : Tab α :=
  if v = d then tabDel i t else tabIns i v (tabDel i t)

/-- The canonical form: indices strictly rising, no entry equal to the unlisted value. -/
def tabWf {α : Type} [DecidableEq α] (d : α) : Tab α → Bool
  | [] => true
  | (k, v) :: t => decide (v ≠ d) && t.all (fun e => decide (k < e.1)) && tabWf d t

/-- Replaces every listed entry by f of it, dropping those that become the unlisted value. -/
def tabMap {α : Type} [DecidableEq α] (d : α) (f : Nat → α → α) (t : Tab α) : Tab α :=
  (t.map (fun e => (e.1, f e.1 e.2))).filter (fun e => decide (e.2 ≠ d))

/-- The byte memories: an unlisted byte reads 0 (R191, Table 17.9; log entry 6 for host memory). -/
abbrev Mem := Tab Byte

/-- One byte. -/
def memGet (m : Mem) (a : Nat) : Byte := tabGet 0#8 m a

/-- n bytes from address a up. -/
def memRead (m : Mem) : Nat → Nat → List Byte
  | _, 0 => []
  | a, n + 1 => memGet m a :: memRead m (a + 1) n

/-- Writes bytes from address a up. -/
def memWrite (m : Mem) : Nat → List Byte → Mem
  | _, [] => m
  | a, b :: t => memWrite (tabPut 0#8 m a b) (a + 1) t

/-- Zeroes every byte of [a, a + n). -/
def memZero (m : Mem) (a n : Nat) : Mem := m.filter (fun e => !(decide (a ≤ e.1) && decide (e.1 < a + n)))

/-- The canonical form of a memory. -/
def memWf (m : Mem) : Bool := tabWf 0#8 m

end Sys2Proof.Machine
end

