-- ==== Sys2Proof/Machine/State.lean ====
section
/-! DEFINITION. The state of the module as plain data: every register, table, queue and flag the manual names, the
memories, the queue of waiting commands, and what the module has sent out.  A table is sparse: an index that is not
listed holds its reset value.  Reset values are those of a cold reset (Table 17.7); the ones the manual does not
give are named in the assumption log. -/

namespace Sys2Proof.Machine

/-- How a step can stop.  No command of this module has a stop: the manual gives each of them an effect, and a
condition the manual calls a fault is a next state here (a context FAULTED, a transfer ended, an event written). -/
inductive Fault where
  /-- Raised by no command.  It stands for a stop that the manual does not have; safe. -/
  | none
  deriving DecidableEq, Repr

/-- Why a command has no meaning. -/
inductive Refusal where
  /-- Raised by a command whose meaning is not written yet, with its name in the table; safe. -/
  | notModelled (mnemonic : String)
  deriving DecidableEq, Repr

/-! Synchronisation (ch. 12). -/

/-- Who takes a credit (R159, R214, R308). -/
inductive CreditSrc where
  /-- The transfer of queue q with the given place in the order of issues. -/
  | stream (q : Fin 256) (issued : Nat)
  /-- The descriptor of AE context (e, c) with the given place in the order of issues. -/
  | ae (e : Fin 32) (c : Fin 4) (issued : Nat)
  | coll (group seq : Nat)
  deriving DecidableEq, Repr

/-- A wait that a home holds (R330, R331). -/
inductive HomeWait where
  | waitc (t : Fin 192) (c : Fin 4) (threshold : Word32)
  | take (t : Fin 192) (c : Fin 4)
  | put (t : Fin 192) (c : Fin 4) (v : Word64)
  deriving DecidableEq, Repr

/-- A sync object: the record of Table 12.2 with the waits and credit takes its home holds, each in arrival order. -/
structure SyncObj where
  value : Word64 := 0
  /-- 0 LIVE, 1 SAVED, 2 ABANDONED, 3 UNUSED. -/
  st : Fin 4 := 3
  full : Bool := false
  kind : Fin 4 := 0
  hostVisible : Bool := false
  tileLocal : Bool := false
  tile : BitVec 8 := 0
  ctx : BitVec 2 := 0
  slot : Fin 16 := 0
  index : BitVec 16 := 0
  waits : List HomeWait := []
  takers : List CreditSrc := []
  deriving DecidableEq, Repr

/-- What a request asks of an object's home (R326). -/
inductive SyncAct where
  | waitc (t : Fin 192) (c : Fin 4) (threshold : Word32)
  | take (t : Fin 192) (c : Fin 4)
  | put (t : Fin 192) (c : Fin 4) (v : Word64)
  | faa (t : Fin 192) (c : Fin 4) (inc : Word32)
  | sigc (t : Fin 192) (c : Fin 4) (add : Word32)
  | credit (src : CreditSrc)
  | withdraw (src : CreditSrc)
  /-- The release signal of a stream, AE or collective engine of a die: adds 1. -/
  | release (src : CreditSrc)
  deriving DecidableEq, Repr

/-- A request on its way to an object's home. -/
structure SyncReq where
  obj : Nat
  act : SyncAct
  /-- Program counter of the instruction that issued it. -/
  pc : Word32 := 0
  /-- Earlier SMTs of its context that are not complete (R333). -/
  after : Nat := 0
  deriving DecidableEq, Repr

/-- An armed notification (R344, R345). -/
structure Notif where
  obj : Nat
  threshold : Word32
  queue : Fin 4
  deriving DecidableEq, Repr

/-- A String channel (R337): the launch that claims it, its plan, latches, generation, and the arrivals held behind a
latch already set or behind SMTs that are not complete (tile, context, SMTs to wait for; R333). -/
structure StrChan where
  slot : Option (Fin 16) := none
  tileMap : Nat := 0
  aeMap : Nat := 0
  latches : Nat := 0
  gen : Word32 := 0
  abandoned : Bool := false
  heldBehind : List (Fin 192 × Fin 4 × Nat) := []
  deriving DecidableEq, Repr

/-- The sync homes and the String combiner. -/
structure SyncUnit where
  objs : Tab SyncObj := []
  reqs : List SyncReq := []
  notifs : List Notif := []
  chans : Tab StrChan := []
  deriving DecidableEq, Repr

/-! Compute tiles (ch. 3, 4). -/

/-- States of a tile context (Table 3.5). -/
inductive CtxSt where
  | empty | ready | running | spinning | parked | faulted | halted
  deriving DecidableEq, Repr

/-- What a waiting context waits for (R67 wait state, R329 to R337). -/
inductive WaitKind where
  | waitc (threshold : Word32)
  | take (sd : Fin 32)
  | put (value : Word64)
  | faa (sd : Fin 32)
  | string (channel : Fin 16) (gen : Word32)
  deriving DecidableEq, Repr

/-- The home's reply on its way to a waiting context (R334): met, with the value read. -/
inductive SyncReply where
  | met (value : Word64)
  deriving DecidableEq, Repr

/-- The wait state of a context (Table 3.4): object or channel, what it waits for, the reply once the home sent it. -/
structure Wait where
  /-- Device address of the object; 0 for a String channel. -/
  obj : Nat
  kind : WaitKind
  reply : Option SyncReply := none
  deriving DecidableEq, Repr

/-- A loop whose body is being executed (R125). -/
structure LoopRec where
  level : Fin 8
  first : Nat
  last : Nat
  count : Nat
  deriving DecidableEq, Repr

/-- Phases of a pre-emption or restoration (R73, R346). -/
inductive PreSt where
  | none | drain | cancel | save | restore
  deriving DecidableEq, Repr

/-- The architectural state of one tile context (Table 3.4). -/
structure Ctx where
  st : CtxSt := .empty
  pc : Word32 := 0
  sregs : Tab Word64 := []
  aregs : Tab Word64 := []
  loops : Tab Word32 := []
  preds : BitVec 8 := 0
  shapes : Tab Word32 := []
  wait : Option Wait := none
  prio : BitVec 2 := 0
  /-- The active loops, innermost first (R125). -/
  nest : List LoopRec := []
  /-- The load slot of the launch the context is bound to (R131). -/
  slot : Option (Fin 16) := none
  /-- An END has been issued (R126). -/
  ending : Bool := false
  pre : PreSt := .none
  /-- Order in which it became PARKED (R177). -/
  parked : Nat := 0
  /-- The spin limit has been reached, or a deadline missed, while no other context was READY (R70). -/
  spunOut : Bool := false
  deriving DecidableEq, Repr

/-- Which vector-class instruction a unit holds. -/
inductive VecKind where
  | vop | sfn | rowstat
  deriving DecidableEq, Repr

/-- An instruction issued to a unit and not complete (R61), with its place in the
order of issues and the operands it captured at issue (`prog` is the micro-program of an SFN that names a slot; `fwd`
says that an MMA takes its staging copy from the MMA issued immediately ahead of it, R76). -/
inductive UnitOp where
  | mma (c : Fin 4) (pc : Word32) (ord : Nat) (f : MmaFields) (aOff bOff : Nat) (mLive nLive kLive : Nat)
      (fwd : Bool)
  | vec (c : Fin 4) (pc : Word32) (ord : Nat) (kind : VecKind) (f : VecFields) (dOff aOff bOff : Nat)
      (rows mLive nLive len : Nat) (scalar : Word32) (prog : Nat)
  deriving DecidableEq, Repr

/-- One tile: the unit queues (R61), the MXU's execution count of the block at the head and its first mismatch (R84,
R85), the result that the MXU holds for the instruction behind (R76), the sequencer's selection (R69, R71), and whether the MXU has failed (R86). -/
structure Tile where
  mxu : List UnitOp := []
  vxu : List UnitOp := []
  sfu : List UnitOp := []
  mxuRuns : Nat := 0
  mxuFirst : Option (Nat × Nat) := none
  mxuOut : List (Nat × List Byte) := []
  lastSel : Fin 4 := 3
  loaded : Option (Fin 4) := none
  switching : Option (Fin 4) := none
  failed : Bool := false
  /-- The debug grant that holds the tile for single steps (R451), and whether a grant waits for it. -/
  stepGrant : Option Word32 := none
  /-- Bytes of the instructions that the grant loaded. -/
  stepLen : Option Nat := none
  deriving DecidableEq, Repr

/-! Schedules (ch. 4, 15). -/

/-- A launch of a load slot (R131, R416). -/
structure Launch where
  number : Word32
  domain : BitVec 10
  spinLimit : Nat
  creditWatch : Nat
  shapes : List Word32
  /-- HALTED by pre-emption (R418). -/
  halted : Bool := false
  /-- 1 while it is being pre-empted, 2 while it is being restored. -/
  phase : Fin 3 := 0
  deriving DecidableEq, Repr

/-- One of the 16 load slots (R100, R415): the image copy as one little-endian number, and its launch. -/
structure Slot where
  loaded : Bool := false
  generation : BitVec 12 := 0
  image : Nat := 0
  length : Nat := 0
  /-- The domain it was loaded under (R415). -/
  domain : BitVec 10 := 0x3FF
  launch : Option Launch := none
  deriving DecidableEq, Repr

/-! Streams (ch. 6). -/

/-- Progress of a credit take (R159, R508). -/
inductive CreditSt where
  | notTaken | waiting | granted | abandoned
  deriving DecidableEq, Repr

/-- A request issued and not complete (R161): its first element in visit order, how many elements it carries, where its
bytes go, and the bytes, read and converted when it was issued; its place in the order of issues and the fabric time of
its issue (R12, R16), and the request slots it holds (R149). -/
structure StreamReq where
  pos : Nat
  count : Nat
  dst : Nat
  bytes : List Byte
  /-- FP4 destination: where each scale byte goes (R154, R155). -/
  scales : List (Nat × Byte) := []
  /-- Tun lines whose fills it waits for (R180). -/
  fills : List (BitVec 38) := []
  /-- Remote destination: indices of its packets in the transfer that are not acknowledged (R355). -/
  packets : List Nat := []
  /-- Device ranges that it reads from memory, past the Tun: address and length. -/
  reads : List (Nat × Nat) := []
  ord : Nat := 0
  since : Word64 := 0
  slots : Nat := 1
  deriving DecidableEq, Repr

/-- A transfer in a stream queue (R158, R163). -/
structure Xfer where
  desc : BitVec 16
  slot : Fin 16
  tile : Fin 192
  ctx : Fin 4
  pc : Word32
  aSrc : Word64
  aDst : Word64
  zero : Bool
  /-- Order of its SQIS among all SQIS and SMT of the module (R176, R178). -/
  issued : Nat
  credit : CreditSt := .notTaken
  /-- It sends requests (TRANSFER_START). -/
  started : Bool := false
  /-- Next element in visit order to request. -/
  pos : Nat := 0
  inflight : List StreamReq := []
  /-- Destination bytes visible, and the completed requests at or past the oldest one under way, by first element. -/
  moved : Nat := 0
  doneAt : List Nat := []
  /-- First element of the oldest request that met a held grain as it landed: it is issued again (R168). -/
  back : Option Nat := none
  missed : Bool := false
  /-- Remote transfer number and packets so far (R355). -/
  remote : Option (BitVec 16) := none
  packets : Nat := 0
  /-- Device address whose grain halted it, and whether the access was a write (R168). -/
  haltAt : Option (Nat × Bool) := none
  /-- Order in which it entered state 1 (R176). -/
  entered : Nat := 0
  deriving DecidableEq, Repr

/-- One stream queue: its registers (Tables 6.6 to 6.8) and its two slots. -/
structure StQueue where
  limit : BitVec 16 := 1
  ownerTile : BitVec 16 := 0
  ownerCtx : BitVec 2 := 0
  fillMark : Bool := false
  deadlineMode : Bool := false
  enable : Bool := false
  rearmRefused : Bool := false
  deadlineMissed : Bool := false
  halted : Bool := false
  /-- 0 IDLE, 1 WAIT_CREDIT, 2 MOVING, 3 HALTED, 4 WAIT_DRAIN, 5 ENDED_ERROR. -/
  state : Fin 8 := 0
  posLo : Word64 := 0
  posHi : BitVec 16 := 0
  deadlineAt : Word64 := 0
  bytes : Word64 := 0
  active : Option Xfer := none
  shadow : Option Xfer := none
  /-- Load slot of the launch that holds the queue (R131). -/
  owner : Option (Fin 16) := none
  deriving DecidableEq, Repr

/-- A small transfer issued and not complete (R166). -/
structure Smt where
  /-- Tun lines whose fills it waits for, and those that have served it (R180). -/
  fills : List (BitVec 38) := []
  filled : List (BitVec 38) := []
  tile : Fin 192
  ctx : Fin 4
  slot : Fin 16
  pc : Word32
  toDevice : Bool
  sram : Nat
  dev : Nat
  len : Nat
  issued : Nat
  /-- Fabric time of its issue (R16). -/
  since : Word64 := 0
  deriving DecidableEq, Repr

/-- A Tun line (R179, R181): its number (device address / 1024) and domain tag. -/
structure TunLine where
  line : BitVec 38
  domain : BitVec 10
  deriving DecidableEq, Repr

/-- A Tun fill in flight (R180), with its place in the order of issues and the fabric time of its miss (R16). -/
structure TunFill where
  die : Fin 4
  line : BitVec 38
  domain : BitVec 10
  waiters : Nat
  /-- Invalidated while in flight (R182). -/
  stale : Bool := false
  ord : Nat := 0
  since : Word64 := 0
  deriving DecidableEq, Repr

/-- The stream engines: queues, small transfers in issue order, Tuns (each set most recently used first), the
order of fill marks, the count of issues, and each die's local queue that round robin served last (R173). -/
structure StreamUnit where
  queues : Tab StQueue := []
  smts : List Smt := []
  tun : Tab (List TunLine) := []
  fills : List TunFill := []
  marks : List (Fin 256) := []
  issues : Nat := 0
  turn : Tab Nat := []
  deriving DecidableEq, Repr

/-! Memory tiers (ch. 7). -/

/-- A directory entry (Table 7.3), with what Table 7.3 leaves implicit: whether far frames are held, the frame a copy
in flight goes to, the state a move returns to, a release that waits for a copy, and the means of a rebuild. -/
structure Grain where
  /-- Table 7.4: 0 UNBACKED to 9 POISONED. -/
  st : Fin 16 := 0
  degraded : Bool := false
  pending : Bool := false
  cacheable : Bool := false
  restorable : Bool := false
  mirrored : Bool := false
  preferNear : Bool := false
  preferFar : Bool := false
  pins : BitVec 8 := 0
  domain : BitVec 10 := 0
  stack : Fin 32 := 0
  nearFrame : BitVec 20 := 0
  farPort : Fin 2 := 0
  farFrame : BitVec 26 := 0
  mirrorFrame : BitVec 26 := 0
  lastUse : BitVec 21 := 0
  farHeld : Bool := false
  mirrorHeld : Bool := false
  /-- The recorded source (R201, R202). -/
  source : BitVec 48 := 0
  /-- Stack and frame that a copy in flight goes to. -/
  target : Option (Fin 32 × BitVec 20) := none
  before : Fin 16 := 0
  /-- The frame that a move leaves is to be retired (R482). -/
  retire : Bool := false
  releasing : Bool := false
  /-- Means of the rebuild under way (Table 7.10); 0 none. -/
  means : Fin 8 := 0
  /-- Die whose unit asked for the backing or promotion; 4 for none (R195). -/
  die : Fin 5 := 4
  deriving DecidableEq, Repr

/-- A pending promotion: its class of R197 (0 pins, 1 window and prefetch, 2 bubble fill, 3 Maltster's own), its grain,
and for class 1 when it is needed: fabric time, layer, place in the page table (R205).  The list of them is in the
order in which they were marked. -/
structure Pend where
  cls : Fin 4
  grain : Nat
  need : Nat := 0
  layer : Nat := 0
  place : Nat := 0
  deriving DecidableEq, Repr

/-- One CXL port (R187, R211). -/
structure CxlPort where
  inService : Bool := false
  /-- 1 ×4, 2 ×8, 3 ×16. -/
  width : Fin 4 := 0
  frames : Nat := 0
  /-- Consecutive request timeouts (R486). -/
  timeouts : Nat := 0
  deriving DecidableEq, Repr

/-- A write of the hub or of an engine's end that waits for a held grain (R189): address and bytes; for a result word the
domain it is checked under, and the source that a mismatch at a sync object reports (Table 12.6a; none: no event, R260);
and the objects that get an addition once it is visible. -/
structure HubWrite where
  addr : Nat
  bytes : List Byte
  domain : Option (BitVec 10) := none
  report : Option (Nat × Nat × Nat) := none
  adds : List (Nat × Word32) := []
  deriving DecidableEq, Repr

/-- Maltster: the directory, frames in use or retired, pending promotions, the agents' observations and the layer
windows. -/
structure Tiers where
  dir : Tab Grain := []
  /-- Near frames in use or retired, index stack × 2^20 + frame. -/
  nearUsed : Tab Bool := []
  /-- Far frames in use or retired, index port × 2^26 + frame. -/
  farUsed : Tab Bool := []
  /-- Stacks in service, one bit each. -/
  stacksUp : BitVec 24 := 0xFFFFFF
  cxl : Tab CxlPort := []
  pend : List Pend := []
  evicting : Bool := false
  /-- Accesses observed in this 1 ms window, index grain × 8 + die. -/
  seen : Tab Nat := []
  /-- Die that led a grain's accesses, and for how many windows in a row (R200): index grain, value die + 8 × count. -/
  lead : Tab Nat := []
  /-- Drain transfers completed, index slot × 1024 + tile × 4 + context (R203). -/
  drains : Tab Nat := []
  /-- Ranks retired and not marked pending again (R203). -/
  retired : List (Fin 16 × Nat) := []
  horizonNs : Nat := 16000000
  /-- KV page slots that a ring step within the horizon will read, each with the fabric time of that step: one entry for
  every read to come (R205). -/
  near : List (Nat × Nat) := []
  /-- Writes of the hub's logic held by a grain, in order (R189). -/
  hub : List HubWrite := []
  /-- Fabric time of the last `EV_MEM_EXHAUSTED` (R190). -/
  exhausted : Option Nat := none
  /-- Frames that have held a grain tagged with a domain since it opened (Table 16.11): index domain × 2^28 + frame,
  where a near frame is stack × 2^20 + frame and a far one 2^27 + port × 2^26 + frame. -/
  held : Tab Bool := []
  /-- Corrections of each stack not yet reported, and the fabric time of its last report (R482). -/
  corrections : Tab Nat := []
  correctedAt : Tab Nat := []
  deriving DecidableEq, Repr

/-! A sequence (ch. 9). -/

/-- A sequence table entry (Table 9.1). -/
structure SeqEntry where
  versionAddr : BitVec 48 := 0
  version : Word32 := 0
  length : Nat := 0
  base : Nat := 0
  capacity : Nat := 0
  freedEpoch : Word32 := 0
  layerFirst : BitVec 8 := 0
  layerCount : BitVec 8 := 0
  kvHeads : BitVec 6 := 0
  fmtK : BitVec 4 := 0
  fmtV : BitVec 4 := 0
  pageGrains : BitVec 6 := 0
  homeDie : Fin 4 := 0
  domain : BitVec 10 := 0
  ring : BitVec 12 := 0xFFF
  /-- 0 FREE, 1 OPEN, 2 RETIRING. -/
  st : Fin 8 := 0
  deriving DecidableEq, Repr

/-! Attention engines (ch. 8). -/

/-- A descriptor in an AE context's queue (R213). -/
structure AeIssue where
  desc : BitVec 16
  slot : Fin 16
  tile : Fin 192
  ctx : Fin 4
  pc : Word32
  /-- Place in the order of issues. -/
  issued : Nat
  mLive : Nat
  zero : Bool
  deriving DecidableEq, Repr

/-- The state of one query row (R228): anchor, Keg, numerator (FP32x words), nan flag. -/
structure RowState where
  anchor : Option Int := none
  keg : Nat := 0
  num : List Nat := []
  nan : Bool := false
  deriving DecidableEq, Repr

/-- One group of the walk: segment, the 32 entries' page base and first in-page index, its first position, and whether
it is a group of candidates. -/
structure AeGroup where
  seg : Nat
  page : Nat
  index : Nat
  first : Nat
  cand : Bool
  deriving DecidableEq, Repr

/-- A descriptor that has started (R214): the versions its walker slot recorded (sequence handle and version record
address per segment, R266), the groups left, the rows' states, and the results of the group that awaits its check. -/
structure AeRun where
  versions : List (Nat × Nat) := []
  /-- The tables and query rows as they were read at the start: segment entries, row entries, tree records, rows. -/
  segs : List Nat := []
  rowTab : List Nat := []
  trees : List (List Byte) := []
  queries : List (List Byte) := []
  groups : List AeGroup := []
  rows : List RowState := []
  awaiting : Option (List RowState × Nat) := none
  /-- The score product, or the value product, of that group has an infinity or a NaN among its operands and is not
  compared (R83). -/
  badScores : Bool := false
  badValues : Bool := false
  deriving DecidableEq, Repr

/-- One AE context: its queue of 16 (the head may be under way), the credit take of the head, its run, and its
pre-emption. -/
structure AeCtx where
  queue : List AeIssue := []
  credit : CreditSt := .notTaken
  run : Option AeRun := none
  /-- Device address of the held grain at which its engine waits (R189). -/
  heldAt : Option Nat := none
  /-- The open sequences as they stood when the head entered (R266). -/
  entered : Tab SeqEntry := []
  stopping : Bool := false
  saved : Bool := false
  /-- The save area of a pre-empted context (R216): its rows' partial records, and the groups left of its walk. -/
  area : List Byte := []
  left : Nat := 0
  /-- Load slot of the launch that holds the context (R131). -/
  owner : Option (Fin 16) := none
  deriving DecidableEq, Repr

/-- One AE: the context last served (R215), the group under check and its executions (R244), failure (R245). -/
structure AeEngine where
  last : Fin 4 := 3
  group : Option (Fin 4) := none
  runs : Nat := 0
  failed : Bool := false
  deriving DecidableEq, Repr

/-! Sequences (ch. 9). -/

/-- A page record (R251); st 0 FREE, 1 LIVE, 2 LIMBO.  `home` is the home die of its sequences (R195). -/
structure PageRec where
  refs : Nat := 0
  domain : BitVec 10 := 0
  grains : Nat := 0
  st : Fin 4 := 0
  epoch : Word32 := 0
  home : Fin 4 := 0
  deriving DecidableEq, Repr

/-- An item of the list arena, by its first grain: how many grains, its high mark if it is a page list, the sequence
it belongs to, its stamp once it is in LIMBO, and whether it is the record of a freed sequence. -/
structure ListItem where
  grains : Nat := 0
  high : Nat := 0
  handle : Nat := 0
  limbo : Option Word32 := none
  last : Bool := false
  deriving DecidableEq, Repr

/-- A walker slot (R266, R270): the epoch recorded at entry, and whether its stall has been reported. -/
structure Walker where
  epoch : Option Word32 := none
  stalled : Bool := false
  deriving DecidableEq, Repr

/-- A record that the hub has accepted from a tile context and not applied (R260, R278): 32 bytes to the sequence
window or to the pass window. -/
structure WindowRec where
  tile : Fin 192
  ctx : Fin 4
  pass : Bool
  slot : Fin 16
  domain : BitVec 10
  data : BitVec 1024
  /-- Place in the order in which operations on sequences reach the hub (R247). -/
  ord : Nat := 0
  deriving DecidableEq, Repr

/-- An EXTEND that copies shared pages (R265): the sequence, the layers with their old and new page slots, the fresh
pages, the new length, and where its result goes. -/
structure SeqCopy where
  handle : Nat
  copies : List (Nat × Nat × Nat)
  fresh : List (Nat × Nat × Nat)
  length : Nat
  record : WindowRec
  /-- Items of the list arena that it has taken: page lists, and the version record. -/
  lists : List Nat
  version : Nat
  deriving DecidableEq, Repr

/-- A fork under way (R256). -/
structure SeqFork where
  mbx : Fin 8
  source : Nat
  handle : Nat
  deriving DecidableEq, Repr

/-- The hub's sequence logic. -/
structure SeqUnit where
  table : Tab SeqEntry := []
  pages : Tab PageRec := []
  /-- Page slots never given out start here; slots given back follow them, first in, first out (R251). -/
  fresh : Nat := 0
  freed : List Nat := []
  /-- Page slots that a refused operation had taken: they stand at the head of the free list again. -/
  returned : List Nat := []
  lists : Tab ListItem := []
  /-- Walker slots: tile contexts 0–767, AE contexts 768–895, movers 896 + die × 256 + slot. -/
  walkers : Tab Walker := []
  epoch : Word32 := 0
  published : Bool := false
  records : List WindowRec := []
  copies : List SeqCopy := []
  forks : List SeqFork := []
  deriving DecidableEq, Repr

/-! Carousel (ch. 10). -/

/-- A ring table entry (Table 10.1): the member list stands for count, successor and predecessor; the count of bound
sequences is that of the bindings. -/
structure RingEntry where
  /-- 0 FREE, 1 FORMED, 2 BROKEN. -/
  st : Fin 4 := 0
  id : BitVec 12 := 0
  check : BitVec 64 := 0
  breakUs : Nat := 0
  maxShard : Nat := 0
  lastG : BitVec 48 := 0
  members : List (BitVec 12) := []
  index : Nat := 0
  cls : Bool := false
  deriving DecidableEq, Repr

/-- A chunk sent to a member and not acknowledged (R298): the plane on which a packet of it left last, and all planes on
which one has left. -/
structure RingSent where
  dst : BitVec 12
  data : RingData
  plane : Fin 8 := 0
  planes : BitVec 8 := 0
  deriving DecidableEq, Repr

/-- A pass in progress (R278 to R291): its record and issuer, the version it entered under, a0 and d0, its base time
once it has begun, and how far it has come. -/
structure Pass where
  data : BitVec 1024
  tile : Fin 192
  ctx : Fin 4
  slot : Fin 16
  domain : BitVec 10
  /-- Walker slot of the mover (R266), and the version entered. -/
  walker : Nat
  version : Nat
  a0 : Word32
  d0 : Word32
  begun : Option Nat := none
  /-- Fabric time of acceptance. -/
  acceptedAt : Nat := 0
  /-- Times the arrival counter has been advanced. -/
  reached : Nat := 0
  /-- Chunks received. -/
  got : List RingData := []
  /-- Step, base and length of the shards announced to this member (R285). -/
  shards : List (Nat × Nat × Nat) := []
  /-- Chunks sent, and those not acknowledged. -/
  sent : List (BitVec 12 × RingData) := []
  unacked : List RingSent := []
  /-- Slot-free messages received: source and visitor; and the steps whose visitor this member has freed (R286). -/
  frees : List (BitVec 12 × Fin 3) := []
  freed : List Nat := []
  /-- Due times missed, whether the first has been reported, and the next step to fall due (R295, R296). -/
  late : Nat := 0
  reported : Bool := false
  due : Nat := 0
  /-- Since the last due time: a context of the launch was HALTED, the issue rate was below full, a plane was lost. -/
  preempted : Bool := false
  throttled : Bool := false
  rerouted : Bool := false
  /-- Neighbours whose HOLD stands, and whether this member holds (R297). -/
  heldBy : List (BitVec 12) := []
  holding : Bool := false
  /-- Device address of the held grain at which its mover waits (R189). -/
  heldAt : Option Nat := none
  deriving DecidableEq, Repr

/-- A binding (Table 10.3) with its active pass. -/
structure Binding where
  used : Bool := false
  ring : BitVec 12 := 0
  tag : BitVec 16 := 0
  handle : Nat := 0
  visitor0 : Nat := 0
  visitor1 : Nat := 0
  visitor2 : Nat := 0
  pass : Option Pass := none
  deriving DecidableEq, Repr

/-- A slot-free message for a pass that this member has not accepted yet (R281). -/
structure EarlyFree where
  src : BitVec 12
  header : RingHdr
  visitor : Fin 3
  deriving DecidableEq, Repr

/-- The ring table, the bindings and the messages that came early. -/
structure RingUnit where
  table : Tab RingEntry := []
  binds : Tab Binding := []
  early : List EarlyFree := []
  /-- HOLDs that stand for a pass which this member has not accepted yet (R297). -/
  earlyHolds : List (BitVec 12 × RingHdr) := []
  deriving DecidableEq, Repr

/-! Collectives (ch. 11). -/

/-- A group table entry (Table 11.1), by group ID. -/
structure GroupEntry where
  set : Bool := false
  check : BitVec 64 := 0
  nextSeq : Word32 := 0
  stallUs : Nat := 0
  members : List (BitVec 12) := []
  self : Nat := 0
  outcome : BitVec 64 := 0
  /-- Device address of the member list: a free value. -/
  listAddr : BitVec 48 := 0
  deriving DecidableEq, Repr

/-- A chunk of an instance as it goes between two members: the other member's index, stage, piece and chunk. -/
structure CollPart where
  peer : Nat
  stage : Nat
  piece : Nat
  chunk : Nat
  deriving DecidableEq, Repr

/-- A running sum of a reduction (R310): terms folded so far and the sum in the wire format. -/
structure CollAcc where
  stage : Nat
  piece : Nat
  chunk : Nat
  terms : Nat
  bytes : List Byte
  deriving DecidableEq, Repr

/-- A chunk sent and not acknowledged (R317): as for a ring's chunk, the plane used last and all planes used. -/
structure CollSent where
  part : CollPart
  plane : Fin 8 := 0
  planes : BitVec 8 := 0
  deriving DecidableEq, Repr

/-- An active instance (R307): its plan and issuer, the addresses with a[a_src] and a[a_dst] added, its objects, and how
far it has come. -/
structure Coll where
  group : Nat
  seq : Word32
  plan : BitVec 512
  slot : Fin 16
  tile : Fin 192
  ctx : Fin 4
  domain : BitVec 10
  src : Nat
  dst : Nat
  release : Option Nat := none
  consume : Option Nat := none
  pieces : Option Nat := none
  credit : CreditSt := .notTaken
  /-- It has its credit, and its order array is written. -/
  begun : Bool := false
  /-- Own piece in place (all-gather). -/
  copied : Bool := false
  /-- Chunks granted by this member and not received; received in all; held and not folded; failed CRCs in a row. -/
  granted : List CollPart := []
  got : List CollPart := []
  held : List (CollPart × List Byte) := []
  crcFails : List (CollPart × Nat) := []
  /-- Running sums and results. -/
  accs : List CollAcc := []
  /-- Chunks of the own piece written (reduce-scatter). -/
  written : List Nat := []
  /-- Grants received; chunks sent; those not acknowledged. -/
  grants : List CollPart := []
  sent : List CollPart := []
  unacked : List CollSent := []
  /-- Chunks to send again once their source can be read (R317, R318). -/
  owed : List CollPart := []
  resent : Nat := 0
  /-- Members that had this one's first GRANT. -/
  greeted : List Nat := []
  delivered : Nat := 0
  stalled : Bool := false
  /-- Device address of the held grain at which it waits (R189). -/
  heldAt : Option Nat := none
  deriving DecidableEq, Repr

/-- A GRANT for an instance that has not started here (R319). -/
structure EarlyGrant where
  src : BitVec 12
  msg : CollMsg
  first : Nat
  count : Nat
  plan : Option CollPlanItems
  deriving DecidableEq, Repr

/-- The group table, the active instances, oldest first, and early grants. -/
structure CollUnit where
  groups : Tab GroupEntry := []
  active : List Coll := []
  early : List EarlyGrant := []
  deriving DecidableEq, Repr

/-! The fabric and fabric time (ch. 13). -/

/-- A routing table in force (Tables 13.4, 13.5). -/
structure Route where
  configId : Word64
  version : Word32
  slice : BitVec 12
  master : BitVec 12
  backup : BitVec 12
  stepLog2 : Nat
  sealAll : Bool
  entries : Tab (BitVec 16)
  deriving DecidableEq, Repr

/-- A fabric port (R351, R362, R377): state 0 up, 1 retraining, 2 down; width in Table 14.6's coding (1, 2 or 4 lanes);
lanes that have failed; free send credits in 64-byte units. -/
structure Port where
  st : Fin 4 := 2
  width : Fin 4 := 0
  failed : BitVec 4 := 0
  ctl : Nat := 128
  data0 : Nat := 128
  data1 : Nat := 128
  shared : Nat := 1152
  /-- Data classes whose stall has been reported and has not ended (R364). -/
  stalled : BitVec 2 := 0
  /-- Class of the data packet sent last (R361). -/
  lastCls : Fin 4 := 1
  /-- Fabric time of the last `EV_FABRIC_SLICE_REFUSED` (R360). -/
  refusedAt : Option Nat := none
  deriving DecidableEq, Repr

/-- A packet handed to a fabric port (R353, Table 13.2): the fields of its header, and its payload as items, low bits first,
followed by bytes.  Source, slice, plane and sealing are filled in when it leaves (R358, R373). -/
structure Packet where
  kind : Nat
  dst : BitVec 12
  src : BitVec 12 := 0
  slice : BitVec 12 := 0
  plane : Fin 8 := 0
  cls : Fin 4
  domain : BitVec 10
  xfer : BitVec 16 := 0
  index : Nat := 0
  address : Nat := 0
  aux : Nat := 0
  sealed : Bool := false
  /-- Key generation and counter of a sealed packet (R375). -/
  gen : Word32 := 0
  ctr : Word64 := 0
  /-- Tag of a sealed packet, whose payload is the ciphertext. -/
  tag : List Byte := []
  items : List (Nat × Nat) := []
  payload : List Byte := []
  /-- The ring or collective chunk that the packet is part of. -/
  chunk : Option ChunkId := none
  /-- It must leave on the first plane of the effective set from this one on: a resend (R355), an exchange (R366). -/
  turn : Option (Fin 8) := none
  deriving DecidableEq, Repr

/-- A WRITE or SIGNAL sent and not acknowledged (R355): the queue whose transfer it serves, and the planes tried. -/
structure Sent where
  queue : Fin 256
  packet : Packet
  tried : BitVec 8 := 0
  deriving DecidableEq, Repr

/-- What the module keeps of a transfer it receives (R355): packet indices written, and its SIGNAL if it has come:
address, domain and packets counted. -/
structure InXfer where
  src : BitVec 12
  xfer : BitVec 16
  got : List Nat := []
  signal : Option (Nat × BitVec 10 × Nat) := none
  deriving DecidableEq, Repr

/-- An acknowledgement held back: source, class-independent transfer, first index, how many, SIGNAL (R355). -/
structure AckHeld where
  src : BitVec 12
  xfer : BitVec 16
  first : Nat
  count : Nat
  signal : Bool
  deriving DecidableEq, Repr

/-- A sealing session with one peer (R374 to R376). -/
structure Session where
  /-- 0 none, 1 handshake under way, 2 open. -/
  st : Fin 4 := 0
  timeOnly : Bool := false
  gen : Word32 := 0
  sendCtr : Word64 := 0
  /-- Highest counter seen and those seen within the window. -/
  high : Nat := 0
  seen : List Nat := []
  /-- The previous generation is still accepted, with its own window. -/
  oldOk : Bool := false
  oldHigh : Nat := 0
  oldSeen : List Nat := []
  /-- A packet under the new keys has arrived. -/
  newSeen : Bool := false
  rekey : Bool := false
  /-- The ephemeral key of the handshake, and the keys of the two directions. -/
  eph : Nat := 0
  keyOut : BitVec 256 := 0
  keyIn : BitVec 256 := 0
  /-- Fabric times of recent tag failures, and of the last `EV_SEAL_FAIL` for them. -/
  fails : List Nat := []
  failedAt : Option Nat := none
  deriving DecidableEq, Repr

/-- A packet, or the packets of a chunk, that stay in a port's receive buffer because the grain they write is held (R189,
R362). -/
inductive HeldIn where
  | write (p : PktHdr) (payload : List Byte)
  | ring (p : PktHdr) (h : RingHdr) (d : RingData) (first : Option RingFirst) (bytes : List Byte)
  | coll (p : PktHdr) (header : BitVec 512) (payload : List Byte)
  deriving DecidableEq, Repr

/-- The fabric. -/
structure Fabric where
  route : Option Route := none
  ports : Tab Port := []
  /-- Packets that wait for credit, a plane or a session, in order. -/
  waiting : List Packet := []
  sent : List Sent := []
  /-- What the ports' receive buffers hold, in order of arrival. -/
  heldIn : List HeldIn := []
  /-- Next transfer number per destination. -/
  xferNo : Tab (BitVec 16) := []
  inbound : List InXfer := []
  /-- Numbers of the last 256 completed transfers of each source, latest first. -/
  complete : Tab (List (BitVec 16)) := []
  acks : List AckHeld := []
  /-- Planes that each module has reported down. -/
  reported : Tab (BitVec 8) := []
  unreachable : List (BitVec 12) := []
  sessions : Tab Session := []
  /-- Halt numbers acted on (R363). -/
  halts : List Word32 := []
  /-- Replays in succession of a die-to-die link's flit that failed their CRC (R13), links as in Table 18.5. -/
  flitFails : Tab Nat := []
  deriving DecidableEq, Repr

/-- States of fabric time (Table 13.7). -/
inductive TimeSt where
  | free | acquiring | locked | holdover
  deriving DecidableEq, Repr

/-- The fabric time unit (R365 to R372). -/
structure TimeUnit where
  now : Word64 := 0
  frac : Word32 := 0
  /-- The rate word: ns × 2^32 added at each TCLK cycle; 10 ns nominal. -/
  rate : Nat := 10 * 2 ^ 32
  st : TimeSt := .free
  /-- Offsets of the last 8 exchanges and path delays of the last 64, latest first. -/
  thetas : List Int := []
  delays : List Int := []
  /-- Consecutive exchanges with an offset of at most 10 ns (Table 13.7). -/
  good : Nat := 0
  lastTheta : Int := 0
  /-- A large negative offset has been met (R368). -/
  stuck : Bool := false
  everLocked : Bool := false
  /-- This module serves as source; it follows the backup; the master still looks for the backup after its reset. -/
  serving : Bool := false
  followBackup : Bool := false
  startup : Bool := true
  /-- The step period in use, as n of 2^n ns (R372). -/
  step : Option Nat := none
  /-- The period of the first table installed since reset. -/
  firstStep : Option Nat := none
  nextPlane : Fin 8 := 0
  deriving DecidableEq, Repr

/-! Host link (ch. 14). -/

/-- A descriptor taken and not completed (R392): its 512 bits, its extended arguments, and whether the command has
been accepted and is still working. -/
structure Taken where
  desc : BitVec 512
  args : List Byte
  working : Bool := false
  /-- Place in the order of taking among all mailboxes (R409). -/
  order : Nat := 0
  /-- A link reset came after it was taken: it writes no response and no event (R466). -/
  silent : Bool := false
  /-- Launches that it waits for (R413, R417, R418), each with the launch state waited for. -/
  waits : List (Fin 16) := []
  deriving DecidableEq, Repr

/-- A mailbox (Tables 14.8 to 14.10). -/
structure Mailbox where
  ringBase : Nat := 0
  enable : Bool := false
  stopped : Bool := false
  log2 : Nat := 6
  tail : Nat := 0
  head : Nat := 0
  tag : BitVec 16 := 0
  index : Nat := 0
  error : Nat := 0
  status : BitVec 8 := 0
  taken : Option Taken := none
  deriving DecidableEq, Repr

/-- An event queue (Tables 14.14, 14.15; R398 to R406). -/
structure EvQueue where
  base : Nat := 0
  log2 : Nat := 6
  prod : Word32 := 0
  cons : Word32 := 0
  lost : Word32 := 0
  enable : Bool := false
  modTime : Nat := 0
  modCount : Nat := 1
  vector : Fin 16 := 0
  armed : Bool := true
  irqMask : Bool := false
  lossFlag : Bool := false
  /-- Events dropped since the loss flag was set (R402). -/
  dropped : Word32 := 0
  seq : Word32 := 0
  /-- The moderation timer runs (R406). -/
  timing : Bool := false
  deriving DecidableEq, Repr

/-- An entry of the MSI-X table and its pending bit (Table 14.3). -/
structure MsixEntry where
  addr : Word64 := 0
  data : Word32 := 0
  /-- The vector control word; bit 0 masks the vector (log entry 5). -/
  control : Word32 := 1
  pending : Bool := false
  deriving DecidableEq, Repr

/-- A BAR2 access that waits for a held grain (Table 14.2). -/
inductive Bar2Access where
  | read (dev len : Nat)
  | write (dev : Nat) (bytes : List Byte)
  deriving DecidableEq, Repr

/-- What waits at the host port in order of arrival: BAR2 accesses to held grains, and doorbells and pokes behind BAR2
writes that are not visible (R386). -/
inductive HostItem where
  | access (x : Bar2Access)
  | tail (m : Fin 8) (v : BitVec 12)
  | poke (v : Word64)
  deriving DecidableEq, Repr

/-- What the host receives for a non-posted access. -/
inductive Completion where
  | data (bytes : List Byte)
  | abort
  | unsupported
  /-- A completion with poisoned data (EP). -/
  | poisoned
  deriving DecidableEq, Repr

/-- The host side: BAR0 registers, mailboxes, event queues, interrupts (Table 14.3). -/
structure HostPort where
  bar2Base : BitVec 48 := 0
  bar2Domain : BitVec 10 := 0x3FF
  aperture : Word64 := 0
  error : BitVec 6 := 0
  mbx : Tab Mailbox := []
  evq : Tab EvQueue := []
  route : BitVec 16 := 0
  pokeOp : BitVec 2 := 0
  pokeAddr : BitVec 48 := 0
  msix : Tab MsixEntry := []
  /-- log2 of BAR2's size, 36 (64 GiB) to 41 (R381). -/
  bar2Log2 : Nat := 36
  held : List HostItem := []
  /-- Rate (GT/s) and width of the host link, and what they were at the end of bring-up (R382). -/
  linkRate : BitVec 8 := 64
  linkWidth : BitVec 8 := 16
  trainedRate : BitVec 8 := 64
  trainedWidth : BitVec 8 := 16
  /-- Descriptors taken and window records accepted so far: the order of arrival of R247 and R409. -/
  takes : Nat := 0
  deriving DecidableEq, Repr

/-- A message-signalled interrupt sent (R406). -/
structure Irq where
  vector : Fin 16
  addr : Word64
  data : Word32
  deriving DecidableEq, Repr

/-! Counters (R491). -/

/-- A module counter of Table 18.7 with its overflow flag. -/
structure Counter where
  value : Nat := 0
  overflow : Bool := false
  deriving DecidableEq, Repr

/-! Commands (ch. 15) and maintenance (ch. 17). -/

/-- A maintenance instance (Table 15.6); state 0 RUNNING, 1 DONE, 2 FAILED. -/
structure Maint where
  inst : Word32
  activity : Fin 8
  target : Nat
  started : Word64
  st : Fin 4 := 0
  deriving DecidableEq, Repr

/-- What the control firmware keeps of the module's life in a slice and of its maintenance. -/
structure CmdUnit where
  /-- `ID_STATE`.module_state (Table 17.8): 0 BRINGUP, 1 READY, 2 SERVICE, 3 FAILED. -/
  module : Fin 8 := 0
  bound : Bool := false
  slice : BitVec 12 := 0
  /-- Open domains, and those of them that a DOMAIN_CLOSE is closing (R414). -/
  domains : List (BitVec 10) := []
  closing : List (BitVec 10) := []
  /-- Active maintenance instances in ascending order of number, the last 8 that ended, latest first, and the number
  given last (R423). -/
  maint : List Maint := []
  ended : List Maint := []
  maintNo : Word32 := 0
  /-- SRAM ranges used by launches under each open domain: domain, index of the first byte, length (Table 16.11). -/
  ranges : List (BitVec 10 × Nat × Nat) := []
  /-- Tolerable wake latency in ns (R461). -/
  tolerance : Nat := 30000000
  deriving DecidableEq, Repr

/-! Protection (ch. 16). -/

/-- TDISP states (Table 16.5). -/
inductive Tdisp where
  | unlocked | locked | run | error
  deriving DecidableEq, Repr

/-- A protection log entry (Table 16.3). -/
structure LogEntry where
  kind : BitVec 16
  nonceNo : Word32 := 0
  time : Word64
  digest : BitVec 384 := 0
  deriving DecidableEq, Repr

/-- The protection log in flash (R435): the measurement-6 value of the compaction record, 0 where nothing has been
compacted, and the entries after it. -/
structure ProtLog where
  base : BitVec 384 := 0
  compacted : Bool := false
  entries : List LogEntry := []
  deriving DecidableEq, Repr

/-- The firmware acceptance policy (Table 16.7). -/
structure FwPolicy where
  minVersion : Word32
  keys : List (BitVec 384)
  deriving DecidableEq, Repr

/-- A firmware image in a flash bank (R447): its interface version, its security version and its digest. -/
structure FwImage where
  major : BitVec 16
  minor : BitVec 16
  version : Word32
  digest : BitVec 384
  deriving DecidableEq, Repr

/-- A debug grant that has been applied (R451): its number, body, when it was applied, whether a STEP holds its tile, and
the bytes written to the host buffer. -/
structure DebugGrant where
  number : Word32
  body : BitVec 512
  since : Word64
  holds : Bool := false
  /-- Its work is done and only its end is to come. -/
  ready : Bool := false
  written : Nat := 0
  deriving DecidableEq, Repr

/-- A scrub under way (R453): kind 1 domain close, 2 slice unbind, 3 service entry; the maintenance instance and the
mailbox that started it, and items of its certificate. -/
structure Scrub where
  kind : Nat
  inst : Word32
  mbx : Fin 8
  domain : BitVec 10
  slice : BitVec 12
  nonceNo : Word32
  start : Word64
  /-- Sequences freed (DOMAIN_CLOSE). -/
  freed : Nat := 0
  deriving DecidableEq, Repr

/-- What the module answers over DOE (R432). -/
inductive SpdmAnswer where
  | version (versions : List Nat)
  | capabilities
  | algorithms
  | digests (slot0 : List Byte)
  | certificate (chain : List Byte)
  | challengeAuth (nonce : BitVec 256) (signature : List Byte)
  | measurements (blocks : List (Nat × BitVec 384)) (nonce : BitVec 256) (signature : List Byte)
  | keyExchange (signature : List Byte)
  | finish
  | keyUpdate
  | heartbeat
  | endSession
  | unsupported
  | error
  deriving DecidableEq, Repr

/-- The security engine and the protection state. -/
structure Prot where
  tdisp : Tdisp := .unlocked
  /-- The selective IDE stream is keyed (R436). -/
  keyed : Bool := false
  /-- The SPDM secured session: 0 none, 1 KEY_EXCHANGE answered, 2 open; and how often its keys were updated. -/
  session : Fin 4 := 0
  sessionKeys : Nat := 0
  /-- Flash: the enrolled Operator and Custodian keys, the firmware acceptance policy, the protection log, the two
  banks (none: the image of the factory) and the active one. -/
  enrolled : Option (BitVec 768 × BitVec 768) := none
  fwPolicy : Option FwPolicy := none
  log : ProtLog := {}
  banks : Tab (Option FwImage) := []
  bank : Fin 2 := 0
  /-- The service state (Table 16.8); a cold reset has left it and the next boot logs that. -/
  service : Bool := false
  serviceLeft : Bool := false
  /-- The domain policy: words other than 0x0000_0003 (R440). -/
  policy : Tab Word32 := []
  /-- The current nonce with its number and the fabric time of its issue; the number given last (R444). -/
  nonce : Option (BitVec 256 × Word32 × Word64) := none
  nonceNo : Word32 := 0
  /-- Measurements 1 to 6 (R431). -/
  meas : Tab (BitVec 384) := []
  grants : List DebugGrant := []
  grantNo : Word32 := 0
  scrub : Option Scrub := none
  /-- `FW_STAGE`: bytes staged so far, total length, and the accepted image (R426). -/
  staged : List Byte := []
  stagedTotal : Nat := 0
  accepted : Option FwImage := none
  /-- The version that the firmware reset replaces, until READY (R467). -/
  replaced : Option (BitVec 16 × BitVec 16) := none
  /-- Identities of the expanders, and as recorded at the last slice unbind (R454). -/
  cxlIds : Tab (BitVec 64) := []
  cxlRecorded : Tab (BitVec 64) := []
  /-- The hub's trace buffer: the last 65,536 records of every event queue, latest first (Table 16.9). -/
  trace : Tab (List (BitVec 512)) := []
  deriving DecidableEq, Repr

/-! Power, clocks, pins and idle levels (ch. 1, 17, 19). -/

/-- The power controller (R21 to R27, R505): rates in sixteenths of full rate. -/
structure Power where
  /-- Last input power measured, in W. -/
  watts : Nat := 0
  /-- Last power measured on each die's own rail, in W (R24). -/
  rails : Tab Nat := []
  moduleRate : Fin 32 := 16
  /-- R22 set the module rate last. -/
  peak : Bool := false
  dieRate : Tab (Fin 32) := []
  thermRate : Tab (Fin 32) := []
  /-- Dies whose thermal recalibration runs. -/
  recal : BitVec 4 := 0
  deriving DecidableEq, Repr

/-- Pins and the bring-up sequence (ch. 19): inputs as sampled, outputs as driven (true: high). -/
structure Pins where
  /-- 54 V is applied and in range. -/
  input : Bool := true
  stbyOk : Bool := true
  pwrGood : Bool := false
  perst : Bool := false
  coldRst : Bool := true
  flashSel : Bool := true
  leak : Bool := true
  cxlPerst : Bool := false
  /-- The flash pass-through is connected to the header (R497). -/
  flashPass : Bool := false
  /-- Phase of Table 17.9 at which bring-up began; 0 before phase 1 and while powered down, 7 once it has ended. -/
  phase : Fin 8 := 0
  /-- A warm bring-up, whose count starts at the release of PERST# (R469). -/
  warm : Bool := false
  deriving DecidableEq, Repr

/-- The SMBus target (R498): the refreshed values by command, and whether SMB_ALERT# has been released for the
conditions that stand. -/
structure Smbus where
  values : Tab (BitVec 16) := []
  /-- A refresh has taken the values. -/
  refreshed : Bool := false
  alertSeen : BitVec 3 := 0
  deriving DecidableEq, Repr

/-- Idle levels (R460): tiles and AEs by unit (tile 0 to 191, AE 192 to 223), dies at I3, the module at I4. -/
structure Idle where
  levels : Tab (Fin 4) := []
  /-- Units whose wake has been triggered: 1 waits for its wave slot, 2 ramps (R462, R463). -/
  waking : Tab (Fin 4) := []
  dies : BitVec 4 := 0
  module : Bool := false
  deriving DecidableEq, Repr

/-! What the module has sent out. -/

/-- What the module has sent: packets, interrupts, completions, SPDM answers, SMBus and JTAG answers, Sanitize
commands. -/
structure Out where
  packets : List Packet := []
  /-- Credits returned to the switches: port, class, 64-byte units (R362). -/
  credits : List (Fin 8 × Nat × Nat) := []
  irqs : List Irq := []
  completions : List Completion := []
  spdm : List SpdmAnswer := []
  smbus : List (Option (BitVec 16)) := []
  jtag : List Word64 := []
  /-- CXL Sanitize commands sent, by port (R454). -/
  sanitized : List (Fin 2) := []
  deriving DecidableEq, Repr

/-! The whole state. -/

/-- The module (R8, Table 1.1): one field for every unit that holds state. -/
structure State where
  /-- Tile contexts, index tile × 4 + context. -/
  ctxs : Tab Ctx := []
  tiles : Tab Tile := []
  /-- Tile SRAM (R62), index tile × 2^23 + offset. -/
  sram : Mem := []
  /-- Bytes of grain space, by device address. -/
  dev : Mem := []
  /-- Host memory as the module has written it and as the host has filled it. -/
  hostMem : Mem := []
  /-- Save areas of HALTED contexts: SRAM offsets and bytes (R73). -/
  saves : Tab (List (Nat × List Byte)) := []
  slots : Tab Slot := []
  /-- Executed blocks, index slot × 256 + operation (R93, R111). -/
  blocks : Tab Nat := []
  launchNo : Word32 := 0
  /-- Parkings so far (R177). -/
  parks : Nat := 0
  sync : SyncUnit := {}
  streams : StreamUnit := {}
  tiers : Tiers := {}
  seqs : SeqUnit := {}
  rings : RingUnit := {}
  aeCtxs : Tab AeCtx := []
  aes : Tab AeEngine := []
  colls : CollUnit := {}
  host : HostPort := {}
  fabric : Fabric := {}
  time : TimeUnit := {}
  cmd : CmdUnit := {}
  prot : Prot := {}
  power : Power := {}
  pins : Pins := {}
  smbus : Smbus := {}
  idle : Idle := {}
  /-- Geographic address as sampled at the last release of reset (R19): tray and slot. -/
  geo : BitVec 6 := 0
  counters : Tab Counter := []
  out : Out := {}
  /-- Commands waiting, first in, first out. -/
  pending : List Instr := []
  /-- Selects the next free value (log entry 2). -/
  free : Nat := 0
  deriving DecidableEq, Repr

/-- The module right after a cold reset (Table 17.7): every table lists nothing, no command waits. -/
def State.reset : State := {}

end Sys2Proof.Machine
end

