-- ==== Sys2Proof/Machine/AeMath.lean ====
section
/-! DEFINITION. The arithmetic of the attention engines (ch. 8): anchored softmax, partial records and their merge,
rotary angles. -/

namespace Sys2Proof.Machine

/-- ⌈v⌉ of a finite value. -/
def vCeil (v : Val) : Int := -vFloor (vNeg v)

/-! Scores (R227). -/

/-- The scaled score, and whether it was clamped to ±2^30.  Widening is exact (R42), so the raw score is that of R44 in every
common format (R48). -/
def scaledScore (scale : Val) (q k : List Val) : Val × Bool :=
  let raw := dotGroups vZero q k
  let s := rndX (vMul raw scale)
  match s with
  | .fin neg _ _ =>
    if vLt (vNat (2 ^ 30)) (vAbs s) then (.fin neg 1 30, true) else (s, false)
  | _ => (s, false)

/-- round_p (R224, R230). -/
def roundP (fmtV : Nat) (v : Val) : Val := if fmtV = 3 ∨ fmtV = 0 then rnd32 v else roundTo fbf16 v

/-! Row states (R228). -/

/-- The 128 numerator elements of a row state. -/
def RowState.elems (r : RowState) : List Val := padTo 128 vZero (r.num.map (decodeElem 1))

def numWords (l : List Val) : List Nat := l.map (encodeElem 1)

/-- The anchor rises by d (R54, R57); beyond 300 nothing is left. -/
def raise' (k : Nat) (num : List Val) (d : Nat) : Nat × List Val :=
  (kegShift k (min d 300), num.map (fun v => numRescale v (min d 300)))

/-- A row state as a number. -/
def rowKey (r : RowState) : Nat :=
  packBits ([(1, b2n r.nan), (1, b2n r.anchor.isSome), (32, ((r.anchor.getD 0) % 2 ^ 32).toNat), (96, r.keg)] ++ (padTo 128 0 r.num).map (fun w => (64, w)))

/-- A row whose nan flag is set: R228 gives its other fields no value, and R58 makes them a function of what the row has met
(log entry 39).  The reserved bits of its elements are 0 (R7). -/
def nanRow (key : Nat) : RowState :=
  let v := Config.nanRow key
  { anchor := some (if bits v 31 0 < 2 ^ 31 then (bits v 31 0 : Int) else (bits v 31 0 : Int) - 2 ^ 32), keg := bits v 127 32,
    num := (List.range 128).map (fun e => bits v (48 * e + 175) (48 * e + 128) * 65536), nan := true }

/-- One group of a row: the visible positions' scores and value rows (R228 to R231). -/
def groupStep (fmtV : Nat) (r : RowState) (vis : List (Val × List Val)) : RowState :=
  if r.nan || vis.any (fun p => p.1 == .nan || p.1 == .inf false) then
    nanRow (packBits ((vis.flatMap (fun p => p.1 :: p.2)).map (fun v => (48, encodeFloat f32x v))) * 2 ^ 8322 + rowKey r)
  else
    let v := vis.filter (fun p => p.1 != .inf true)
    match v with
    | [] => r
    | p :: _ =>
      let m := v.foldl (fun a q => vMax a q.1) p.1
      let a := match r.anchor with
        | none => vCeil m
        | some a => max a (vCeil m)
      let k := match r.anchor with
        | none => (r.keg, r.elems)
        | some b => raise' r.keg r.elems (a - b).toNat
      let ps := v.map (fun q => (roundP fmtV (aeExp2 (rndX (vAdd q.1 (vNeg (vInt a))))), q.2))
      let keg := ps.foldl (fun t q => kegAdd t (kegTerm q.1)) k.1
      let live := ps.filter (fun q => !vIsZero q.1)
      let num := k.2.zipIdx.map (fun e =>
        rndX (vAdd e.1 (rndX (vSum (live.map (fun q => vMul q.1 (q.2.getD e.2 vZero)))))))
      { anchor := some a, keg := keg, num := numWords num, nan := false }

/-- Normalised output of a row (R232). -/
def rowOut (fmtO : Nat) (r : RowState) : List Byte :=
  let e := if r.nan then List.replicate 128 Val.nan
    else match r.anchor with
      | none => List.replicate 128 vZero
      | some _ => r.elems.map (fun v => rnd32 (vDiv v (kegTo32 r.keg)))
  elemsBytes fmtO e

/-! Partial records (R233, R234). -/

/-- The 1,056 bytes of a row's state (Table 8.9). -/
def partialBytes (r : RowState) : List Byte :=
  leBytes 1056 (packBits ([(128, r.keg), (32, ((r.anchor.getD 0) % 2 ^ 32).toNat), (1, b2n (r.anchor.isNone)), (1, b2n r.nan), (94, 0)] ++ (padTo 128 0 r.num).map (fun w => (64, w))))

/-- A row state read from a record; reserved bits of the number formats are ignored (R7, Tables 2.3, 2.8). -/
def partialOf (l : List Byte) : RowState :=
  let w := leNat l
  let an := bits w 159 128
  if bitAt w 160 && !bitAt w 161 then {}
  else
    { anchor := some (if an < 2 ^ 31 then an else (an : Int) - 2 ^ 32), keg := bits w 95 0, nan := bitAt w 161,
      num := (List.range 128).map (fun e => bits w (64 * e + 319) (64 * e + 272) * 65536) }

/-- merge(a, b) (R234). -/
def mergeRows (a b : RowState) : RowState :=
  if a.nan || b.nan then nanRow (rowKey a * 2 ^ 8322 + rowKey b)
  else match a.anchor, b.anchor with
    | none, _ => b
    | _, none => a
    | some x, some y =>
      let m := max x y
      let p := raise' a.keg a.elems (m - x).toNat
      let q := raise' b.keg b.elems (m - y).toNat
      { anchor := some m, keg := kegAdd p.1 q.1, num := numWords ((p.2.zip q.2).map (fun e => rndX (vAdd e.1 e.2))) }

/-! Rotary angles (R240, R241). -/

/-- sin of u quarter-turns × 2^62, 0 ≤ u ≤ 2^62: exact at the ends, else by the segments of table 10 (log entry 9). -/
def quarterSin (u : Nat) : Val :=
  if u = 0 then vZero else if u = 2 ^ 62 then vNat 1 else rnd32 (segDirect 10 (.fin false u (-62)))

/-- sin(2πt / 2^64) by quarter-turn symmetry; zero is +0. -/
def turnSin (t : Nat) : Val :=
  let t := t % 2 ^ 64
  let u := t % 2 ^ 62
  let v := match t / 2 ^ 62 with
    | 0 => quarterSin u
    | 1 => quarterSin (2 ^ 62 - u)
    | 2 => vNeg (quarterSin u)
    | _ => vNeg (quarterSin (2 ^ 62 - u))
  if vIsZero v then vZero else v

def turnCos (t : Nat) : Val := turnSin (t + 2 ^ 62)

/-- The angle of position p under frequency f (R240). -/
def angle (p f : Nat) : Nat := p * f % 2 ^ 64

/-- Rotates a query row (R242): `split` pairs (i, i + 64), else (2i, 2i + 1). -/
def rotateRow (fmt : Nat) (split : Bool) (freqs : List Nat) (p : Nat) (row : List Val) : List Val :=
  freqs.zipIdx.foldl (fun l f =>
    let i := f.2
    let a := if split then i else 2 * i
    let b := if split then i + 64 else 2 * i + 1
    let t := angle p f.1
    let x := l.getD a vZero
    let y := l.getD b vZero
    let c := turnCos t
    let s := turnSin t
    let r := fun v => decodeElem fmt (encodeElem fmt v)
    (l.set a (r (vAdd (vMul x c) (vNeg (vMul y s))))).set b (r (vAdd (vMul x s) (vMul y c)))) row

/-! Candidate trees (R239). -/

/-- Every parent of the first n nodes is 0xFF or below its node. -/
def treeOk (tree : List Byte) (n : Nat) : Bool :=
  (List.range n).all (fun i => let p := (tree.getD i 0).toNat; p == 0xFF || decide (p < i))

/-- anc(n) as a list of nodes. -/
def ancestors (tree : List Byte) : Nat → Nat → List Nat
  | 0, n => [n]
  | f + 1, n =>
    let p := (tree.getD n 0xFF).toNat
    if p = 0xFF then [n] else n :: ancestors tree f p

end Sys2Proof.Machine
end

