-- ==== Sys2Proof/Machine/Ops.lean ====
section
/-! DEFINITION. The named operations over the state that every family shares: registers, memories, counters, event
records and interrupts. -/

namespace Sys2Proof.Machine

/-- The outcome of every command of this module. -/
abbrev Outcome := Host.Outcome State Fault Refusal

/-! Access to the indexed families. -/

def ctxIx (t : Fin 192) (c : Fin 4) : Nat := t.val * 4 + c.val

def State.ctx (s : State) (t : Fin 192) (c : Fin 4) : Ctx := tabGet {} s.ctxs (ctxIx t c)
def State.setCtx (s : State) (t : Fin 192) (c : Fin 4) (x : Ctx) : State :=
  { s with ctxs := tabPut {} s.ctxs (ctxIx t c) x }
def State.modCtx (s : State) (t : Fin 192) (c : Fin 4) (f : Ctx → Ctx) : State := s.setCtx t c (f (s.ctx t c))

def State.tile (s : State) (t : Fin 192) : Tile := tabGet {} s.tiles t.val
def State.setTile (s : State) (t : Fin 192) (x : Tile) : State := { s with tiles := tabPut {} s.tiles t.val x }
def State.modTile (s : State) (t : Fin 192) (f : Tile → Tile) : State := s.setTile t (f (s.tile t))

def State.slot (s : State) (n : Fin 16) : Slot := tabGet {} s.slots n.val
def State.setSlot (s : State) (n : Fin 16) (x : Slot) : State := { s with slots := tabPut {} s.slots n.val x }

def State.queue (s : State) (q : Fin 256) : StQueue := tabGet {} s.streams.queues q.val
def State.setQueue (s : State) (q : Fin 256) (x : StQueue) : State :=
  { s with streams := { s.streams with queues := tabPut {} s.streams.queues q.val x } }
def State.modQueue (s : State) (q : Fin 256) (f : StQueue → StQueue) : State := s.setQueue q (f (s.queue q))

def State.grain (s : State) (g : Nat) : Grain := tabGet {} s.tiers.dir g

/-- Notes the frames that a grain of an open domain holds (R453, Table 16.11). -/
def noteHeld (doms : List (BitVec 10)) (x : Grain) (h : Tab Bool) : Tab Bool :=
  if doms.contains x.domain then
    let base := x.domain.toNat * 2 ^ 28
    let h := if x.st = 2 ∨ x.st = 3 ∨ x.st = 6 ∨ x.st = 7 then tabPut false h (base + x.stack.val * 2 ^ 20 + x.nearFrame.toNat) true else h
    let h := if x.farHeld then tabPut false h (base + 2 ^ 27 + x.farPort.val * 2 ^ 26 + x.farFrame.toNat) true else h
    if x.mirrorHeld then tabPut false h (base + 2 ^ 27 + (1 - x.farPort.val) * 2 ^ 26 + x.mirrorFrame.toNat) true else h
  else h

def State.setGrain (s : State) (g : Nat) (x : Grain) : State :=
  { s with tiers := { s.tiers with dir := tabPut {} s.tiers.dir g x, held := noteHeld s.cmd.domains x s.tiers.held } }

def aeIx (e : Fin 32) (c : Fin 4) : Nat := e.val * 4 + c.val
def State.aeCtx (s : State) (e : Fin 32) (c : Fin 4) : AeCtx := tabGet {} s.aeCtxs (aeIx e c)
def State.setAeCtx (s : State) (e : Fin 32) (c : Fin 4) (x : AeCtx) : State :=
  { s with aeCtxs := tabPut {} s.aeCtxs (aeIx e c) x }
def State.ae (s : State) (e : Fin 32) : AeEngine := tabGet {} s.aes e.val
def State.setAe (s : State) (e : Fin 32) (x : AeEngine) : State := { s with aes := tabPut {} s.aes e.val x }

def State.obj (s : State) (a : Nat) : SyncObj := tabGet {} s.sync.objs a
def State.setObj (s : State) (a : Nat) (x : SyncObj) : State :=
  { s with sync := { s.sync with objs := tabPut {} s.sync.objs a x } }
def State.chan (s : State) (k : Nat) : StrChan := tabGet {} s.sync.chans k
def State.setChan (s : State) (k : Nat) (x : StrChan) : State :=
  { s with sync := { s.sync with chans := tabPut {} s.sync.chans k x } }

def State.mbx (s : State) (m : Fin 8) : Mailbox := tabGet {} s.host.mbx m.val
def State.setMbx (s : State) (m : Fin 8) (x : Mailbox) : State :=
  { s with host := { s.host with mbx := tabPut {} s.host.mbx m.val x } }
def State.evq (s : State) (q : Nat) : EvQueue := tabGet {} s.host.evq q
def State.setEvq (s : State) (q : Nat) (x : EvQueue) : State :=
  { s with host := { s.host with evq := tabPut {} s.host.evq q x } }

/-- The die of a tile (Table 1.2). -/
def tileDie (t : Fin 192) : Fin 4 := ⟨t.val / 48, by omega⟩
/-- The die of an AE. -/
def aeDie (e : Fin 32) : Fin 4 := ⟨e.val / 8, by omega⟩
/-- The die of a stream queue. -/
def queueDie (q : Fin 256) : Fin 4 := ⟨q.val / 64, by omega⟩

/-- All tiles, contexts, and so on, in ascending order. -/
def allTiles : List (Fin 192) := List.finRange 192
def allCtx : List (Fin 4) := List.finRange 4
def allQueues : List (Fin 256) := List.finRange 256
def allAes : List (Fin 32) := List.finRange 32
def allSlots : List (Fin 16) := List.finRange 16

/-- Folds a state transformer over a list. -/
def State.forAll {α : Type} (s : State) (l : List α) (f : State → α → State) : State := l.foldl f s

/-- A free value: an opaque constant at the counter's value (log entry 2). -/
def State.freeVal (s : State) : Nat := Config.free s.free
def State.bump (s : State) : State := { s with free := s.free + 1 }

/-! Memories. -/

def sramIx (t : Fin 192) (off : Nat) : Nat := t.val * 2 ^ 23 + off
def State.sramRead (s : State) (t : Fin 192) (off n : Nat) : List Byte := memRead s.sram (sramIx t off) n
def State.sramWrite (s : State) (t : Fin 192) (off : Nat) (l : List Byte) : State :=
  { s with sram := memWrite s.sram (sramIx t off) l }
def State.devRead (s : State) (a n : Nat) : List Byte := memRead s.dev a n
def State.devPoke (s : State) (a : Nat) (l : List Byte) : State := { s with dev := memWrite s.dev a l }
def State.hostRead (s : State) (a n : Nat) : List Byte := memRead s.hostMem a n
def State.hostWrite (s : State) (a : Nat) (l : List Byte) : State := { s with hostMem := memWrite s.hostMem a l }

/-! Idle levels (R460 to R463): units are tiles 0 to 191, then AEs. -/

def aeUnit (e : Fin 32) : Nat := 192 + e.val
def State.level (s : State) (u : Nat) : Fin 4 := tabGet 0 s.idle.levels u
def State.setLevel (s : State) (u : Nat) (l : Fin 4) : State := { s with idle := { s.idle with levels := tabPut 0 s.idle.levels u l } }
def State.wakePhase (s : State) (u : Nat) : Fin 4 := tabGet 0 s.idle.waking u
def State.setWake (s : State) (u : Nat) (l : Fin 4) : State := { s with idle := { s.idle with waking := tabPut 0 s.idle.waking u l } }

/-- The deepest level whose exit time does not exceed a latency in ns (Table 17.3). -/
def deepest (ns : Nat) : Nat := if ns < 500 then 0 else if ns < 20000 then 1 else if ns < 400000 then 2 else if ns < 30000000 then 3 else 4
def permitted (s : State) : Nat := deepest s.cmd.tolerance

/-- A unit that has nothing to issue enters I1 if that is permitted; one that has work again leaves its level: its wake
is triggered (R460 to R462). -/
def idleUnit (s : State) (u : Nat) (idle work : Bool) : State :=
  if idle then
    if s.level u = 0 ∧ s.wakePhase u = 0 ∧ 1 ≤ permitted s then s.setLevel u 1 else s
  else if work && s.level u != 0 && s.wakePhase u == 0 then s.setWake u 1
  else s

/-- A die leaves I3. -/
def wakeDie (s : State) (d : Nat) : State := { s with idle := { s.idle with dies := s.idle.dies &&& ~~~(1#4 <<< d) } }

/-- The module leaves I4, and with it its dies leave I3. -/
def wakeModule (s : State) : State :=
  if s.idle.module then { s with idle := { s.idle with module := false, dies := 0 } } else s

/-! Interrupts (R406, Table 14.3). -/

def State.msix (s : State) (v : Fin 16) : MsixEntry := tabGet {} s.host.msix v.val
def State.setMsix (s : State) (v : Fin 16) (x : MsixEntry) : State :=
  { s with host := { s.host with msix := tabPut {} s.host.msix v.val x } }

/-- Sends a vector's message, or records it in the pending bit array while the vector is masked. -/
def raiseVector (s : State) (v : Fin 16) : State :=
  let e := s.msix v
  if e.control.getLsbD 0 then s.setMsix v { e with pending := true }
  else { s with out := { s.out with irqs := s.out.irqs ++ [⟨v, e.addr, e.data⟩] } }

/-- The records that wait in a queue. -/
def EvQueue.waiting (q : EvQueue) : Nat := (q.prod - q.cons).toNat

/-- The conditions of R406 other than the count and the timer. -/
def EvQueue.mayRaise (q : EvQueue) : Bool := q.enable && q.armed && !q.irqMask

/-- Raises the queue's vector and clears armed. -/
def raiseQueue (s : State) (i : Nat) : State :=
  let q := s.evq i
  raiseVector (s.setEvq i { q with armed := false, timing := false }) q.vector

/-- The count condition of R406; a moderation time of 0 µs has passed at once. -/
def testQueue (s : State) (i : Nat) : State :=
  let q := s.evq i
  if q.mayRaise && q.waiting != 0 && (decide (max 1 q.modCount ≤ q.waiting) || q.modTime == 0) then raiseQueue s i else s

/-! Event records (Table 14.18, R399 to R404). -/

/-- An event to write: its type, status, severity and scope (Table 18.3), and its payload items as (width, value). -/
structure Ev where
  type : Nat
  status : Nat := 0
  severity : Nat := 0
  scope : Nat := 0
  items : List (Nat × Nat) := []
  deriving DecidableEq, Repr

/-- Packs payload items: each at the next multiple of its own width (R404); answers value and end. -/
def packItems : List (Nat × Nat) → Nat × Nat → Nat × Nat
  | [], acc => acc
  | (w, v) :: t, (pos, acc) =>
    let p := alignUp pos w
    packItems t (p + w, acc + (v % 2 ^ w) * 2 ^ p)

/-- The payload of an event: its value and its length in bytes. -/
def Ev.payload (e : Ev) : Nat × Nat :=
  let r := packItems e.items (0, 0)
  (r.2, cdiv r.1 8)

/-- Records an event takes: 44 payload bytes each, at least one (R403). -/
def Ev.records (e : Ev) : Nat := max 1 (cdiv e.payload.2 44)

/-- The record j of an event, as 512 bits (Table 14.18). -/
def Ev.record (e : Ev) (j : Nat) (phase seq time : Nat) : Nat :=
  packBits [(352, bits e.payload.1 (352 * (j + 1) - 1) (352 * j)), (64, time), (32, seq), (25, 0),
    (1, if j + 1 < e.records then 1 else 0), (3, e.scope), (3, e.severity), (8, e.status),
    (16, if j = 0 then e.type else 0x0FFF), (7, 0), (1, phase)]

/-- Writes one record into the next slot of a queue: bytes 0 to 55, then 56 to 63 (R399). -/
def putRecord (s : State) (i : Nat) (r : Nat → Nat) : State :=
  let q := s.evq i
  let n := 2 ^ q.log2
  let k := q.prod.toNat
  let phase := 1 - k / n % 2
  let l := leBytes 64 (r phase)
  let a := q.base + 64 * (k % n)
  let w := BitVec.ofNat 512 (r phase)
  let s := { s with prot := { s.prot with trace := tabPut [] s.prot.trace i ((w :: tabGet [] s.prot.trace i).take 65536) } }
  ((s.hostWrite a (l.take 56)).hostWrite (a + 56) (l.drop 56)).setEvq i
    { q with prod := q.prod + 1, timing := q.timing || q.armed }

/-- Writes all records of an event with the queue's next sequence number (R403). -/
def putEvent (s : State) (i : Nat) (e : Ev) : State :=
  let q := s.evq i
  let time := s.time.now.toNat
  let s := s.setEvq i { q with seq := q.seq + 1 }
  s.forAll (List.range e.records) (fun s j => putRecord s i (fun phase => e.record j phase q.seq.toNat time))

/-- 32-bit counters that stick (Table 18.8). -/
def stick32 (v : Word32) (n : Nat) : Word32 := BitVec.ofNat 32 (min (v.toNat + n) (2 ^ 32 - 1))

/-- Hands an event to an enabled queue: written, or dropped with the loss recorded (R402). -/
def queueEvent (s : State) (i : Nat) (e : Ev) : State :=
  let q := s.evq i
  let free := 2 ^ q.log2 - q.waiting
  if q.lossFlag then
    if e.records + 1 ≤ free then
      let lost : Ev := { type := 0x0003, severity := 3, scope := 1, items := [(32, q.dropped.toNat)] }
      let s := putEvent (s.setEvq i { q with lossFlag := false, dropped := 0 }) i lost
      testQueue (putEvent s i e) i
    else s.setEvq i { q with lost := stick32 q.lost e.records, dropped := stick32 q.dropped 1, seq := q.seq + 1 }
  else if e.records ≤ free then testQueue (putEvent s i e) i
  else s.setEvq i { q with lost := stick32 q.lost e.records, lossFlag := true, dropped := 1, seq := q.seq + 1 }

/-- The queue an event's class goes to (R401, Table 14.16). -/
def routeOf (s : State) (type : Nat) : Nat := bits s.host.route.toNat (2 * (type / 4096) + 1) (2 * (type / 4096))

/-! Counters (R491, Table 18.7). -/

/-- Width of a counter, 0 for an unassigned number. -/
def counterWidth (n : Nat) : Nat :=
  let k := n / 256
  let i := n % 256
  let some' := fun (last w : Nat) => if i ≤ last then w else 0
  if k = 0 then 0
  else if k ≤ 0x1D then
    some' 0 (if k = 2 ∨ k = 3 ∨ k = 4 ∨ k = 7 ∨ k = 9 then 48 else 32)
  else match k with
    | 0x20 => some' 191 32
    | 0x21 => some' 191 48
    | 0x22 => some' 31 32
    | 0x23 => some' 31 48
    | 0x24 => 32
    | 0x25 => 32
    | 0x26 => 32
    | 0x28 => some' 3 48
    | 0x29 => some' 3 48
    | 0x2A => some' 3 48
    | 0x2B => some' 9 32
    | 0x2C => some' 7 32
    | 0x30 => some' 23 48
    | 0x31 => some' 23 32
    | 0x32 => some' 23 48
    | 0x33 => some' 23 32
    | 0x34 => some' 1 32
    | _ => 0

def State.counter (s : State) (n : Nat) : Counter := tabGet {} s.counters n
def State.setCounter (s : State) (n : Nat) (x : Counter) : State := { s with counters := tabPut {} s.counters n x }

/-- A counter advanced by k, sticking at its largest value; says whether the overflow flag was newly set. -/
def bumpCounter (s : State) (n k : Nat) : State × Bool :=
  let c := s.counter n
  let lim := 2 ^ counterWidth n - 1
  let v := min lim (c.value + k)
  let o := decide (v = lim) && decide (counterWidth n ≠ 0)
  (s.setCounter n { value := v, overflow := c.overflow || o }, o && !c.overflow)

def overflowEv (n : Nat) : Ev := { type := 0x6006, items := [(32, n)] }

/-- Hands an event to queue i, or to queue 0 when i is disabled, or discards it (R398). -/
def emitTo (s : State) (i : Nat) (e : Ev) : State :=
  if (s.evq i).enable then queueEvent s i e
  else if (s.evq 0).enable then queueEvent s 0 e
  else
    let r := bumpCounter s 0x1B00 1
    if r.2 then
      let j := routeOf r.1 0x6006
      if (r.1.evq j).enable then queueEvent r.1 j (overflowEv 0x1B00) else r.1
    else r.1

/-- Writes an event to the queue of its class. -/
def emit (s : State) (e : Ev) : State := emitTo s (routeOf s e.type) e

/-- Advances a module counter by k; a counter that reaches its largest value reports it once (R491). -/
def countN (s : State) (n k : Nat) : State :=
  let r := bumpCounter s n k
  if r.2 then emit r.1 (overflowEv n) else r.1

def count (s : State) (n : Nat) : State := countN s n 1

/-- `ID_STATE`.trusted (R436). -/
def State.trusted (s : State) : Bool := s.prot.tdisp == .run && s.prot.keyed

/-- A domain is open; 0x3FF always is (R440). -/
def domainOpen (s : State) (d : BitVec 10) : Bool := d == 0x3FF || s.cmd.domains.contains d

/-! Host errors (R389, Table 14.7). -/

/-- A host error condition: counted; sets its bit and reports it unless the bit is 1 already. -/
def hostError (s : State) (bit : Nat) (addr : Nat) : State :=
  let s := count s 0x1A00
  if s.host.error.getLsbD bit then s
  else
    emit { s with host := { s.host with error := s.host.error ||| (1#6 <<< bit) } }
      { type := 0x0004, severity := 3, scope := 1, items := [(8, bit), (64, addr)] }

/-! Faults of a tile context (R72). -/

/-- The syndrome of Table 18.4. -/
def syndrome (unit cause status detail : Nat) : Nat := packBits [(32, detail), (8, 0), (8, status), (8, cause), (8, unit)]

/-- `EV_TILE_FAULT` (R72, R489). -/
def tileFaultEv (t : Fin 192) (c : Fin 4) (pc cause status : Nat) : Ev :=
  { type := 0x1001, severity := 3, scope := 2,
    items := [(16, t.val), (8, c.val), (32, pc), (64, syndrome 0 cause status t.val)] }

end Sys2Proof.Machine
end

