-- ==== Sys2Proof/Machine/Image.lean ====
section
/-! DEFINITION. Reading a schedule image (ch. 4): header, section directory, records, descriptors.  An image is held as
one little-endian number (R101). -/

namespace Sys2Proof.Machine

/-- n bytes of an image at a byte offset, as a number. -/
def imgAt (img off n : Nat) : Nat := (img >>> (8 * off)) % 2 ^ (8 * n)

/-- Section types and entry sizes (Table 4.4). -/
def secSize (type : Nat) : Nat :=
  match type with
  | 1 => 16 | 2 => 8 | 3 => 16 | 4 => 64 | 5 => 8 | 6 => 16 | 7 => 8 | 8 => 32 | 9 => 32 | 10 => 32 | 11 => 32
  | 12 => 64 | 13 => 64 | 14 => 4096 | _ => 0

/-- Header fields (Table 4.2). -/
def hdrTileMap (img : Nat) : Nat := bits img 703 512
def hdrAeMap (img : Nat) : Nat := bits img 767 736
def hdrOpCount (img : Nat) : Nat := bits img 735 720
def hdrDirOffset (img : Nat) : Nat := bits img 255 192
def hdrSections (img : Nat) : Nat := bits img 127 96
def hdrPlan (img : Nat) (j : Nat) : Nat := bits img (256 + 32 * j + 31) (256 + 32 * j)
def hdrPipelined (img : Nat) : Bool := bitAt img 64

/-- Section directory entry i (Table 4.3). -/
def dirEntry (img i : Nat) : Nat := imgAt img (hdrDirOffset img + 32 * i) 32

/-- Offset and entry count of the first section of a type, over the first n directory entries. -/
def findSec (img type : Nat) : Nat → Nat → Option (Nat × Nat)
  | _, 0 => none
  | i, n + 1 =>
    let e := dirEntry img i
    if bits e 15 0 = type then some (bits e 127 64, bits e 223 192) else findSec img type (i + 1) n

/-- Offset and count of a section; (0, 0) where the image has none.  An image has at most 14 sections (R104). -/
def secDir (img type : Nat) : Nat × Nat := (findSec img type 0 (min 14 (hdrSections img))).getD (0, 0)

/-- Number of entries of a section. -/
def secCount (img type : Nat) : Nat := (secDir img type).2

/-- Entry k of a section as a number; 0 beyond its count. -/
def secEntry (img type k : Nat) : Nat :=
  let p := secDir img type
  if k < p.2 then imgAt img (p.1 + k * secSize type) (secSize type) else 0

/-- All entries of a section with their indices. -/
def secAll (img type : Nat) : List (Nat × Nat) := (List.range (secCount img type)).map (fun k => (k, secEntry img type k))

/-- Length of CODE in bytes. -/
def codeBytes (img : Nat) : Nat := 16 * secCount img 1

/-- The unit code of a binding: a tile, or an AE (R109). -/
def bindUnitTile (t : Fin 192) : Nat := t.val
def bindUnitAe (e : Fin 32) : Nat := 0x8000 + e.val

/-- The object index that a vid of a unit's context is bound to (R328, Table 4.9). -/
def bindingOf (img unit ctx vid : Nat) : Option Nat :=
  ((secAll img 7).find? (fun e =>
    bits e.2 15 0 == unit && bits e.2 25 24 == ctx && bits e.2 47 32 == vid)).map (fun e => bits e.2 63 48)

/-- Home die of object k (Table 4.8). -/
def objHome (img k : Nat) : Nat := bits (secEntry img 6 k) 15 8

/-- Device address of object k of the image in slot n (R323). -/
def objAddr (img : Nat) (n : Fin 16) (k : Nat) : Nat :=
  0xFF0000000000 + objHome img k % 4 * 0x100000000 + n.val * 0x1000000 + k * 16

/-- Device address of the object that a vid names; none for 0xFFFF in a descriptor or an unbound vid. -/
def vidAddr (s : State) (n : Fin 16) (unit ctx vid : Nat) : Option Nat :=
  let img := (s.slot n).image
  (bindingOf img unit ctx vid).map (objAddr img n)

/-- The launch of a slot. -/
def State.launch (s : State) (n : Fin 16) : Option Launch := (s.slot n).launch

/-- The domain that a slot's launch runs under; 0x3FF where none runs. -/
def slotDomain (s : State) (n : Fin 16) : Nat :=
  match s.launch n with
  | some l => l.domain.toNat
  | none => 0x3FF

/-- The schedule handle of a slot: generation and slot number (R415). -/
def slotHandle (s : State) (n : Fin 16) : Nat := (s.slot n).generation.toNat * 16 + n.val

/-- The image of a tile context's launch. -/
def ctxImage (s : State) (x : Ctx) : Nat :=
  match x.slot with
  | some n => (s.slot n).image
  | none => 0

/-- The object a tile context's vid names. -/
def ctxVid (s : State) (t : Fin 192) (c : Fin 4) (vid : Nat) : Option Nat :=
  match (s.ctx t c).slot with
  | some n => vidAddr s n (bindUnitTile t) c.val vid
  | none => none

/-! Stream descriptors (Table 6.1). -/

def sdKindSrc (d : Nat) : Nat := bits d 5 4
def sdKindDst (d : Nat) : Nat := bits d 7 6
def sdFmtSrc (d : Nat) : Nat := bits d 11 8
def sdFmtDst (d : Nat) : Nat := bits d 15 12
def sdConsume (d : Nat) : Nat := bits d 31 16
def sdRelease (d : Nat) : Nat := bits d 47 32
def sdDrain (d : Nat) : Bool := bitAt d 3
def sdClass (d : Nat) : Nat := bits d 2 2
def sdDeadline (d : Nat) : Nat := bits d 399 384
def sdSrc (d : Nat) : Nat := bits d 511 464
def sdDst (d : Nat) : Nat := bits d 463 416
def sdCount (d j : Nat) : Nat := bits d (63 + 16 * j) (48 + 16 * j)
/-- Signed 32-bit field. -/
def sInt32 (v : Nat) : Int := if v < 2 ^ 31 then v else (v : Int) - 2 ^ 32
def sdSrcStride (d j : Nat) : Int := sInt32 (bits d (255 + 32 * j) (224 + 32 * j))
def sdDstStride (d j : Nat) : Int := sInt32 (bits d (127 + 32 * j) (96 + 32 * j))
def sdScaleOff (d : Nat) : Int :=
  let v := bits d 415 400
  (if v < 2 ^ 15 then (v : Int) else (v : Int) - 2 ^ 16) * 65536
def sdModule (d : Nat) : Nat := bits d 251 240
def sdSignal (d : Nat) : Nat := bits d 239 192

/-- Stream descriptor k of a slot's image. -/
def streamDesc (s : State) (n : Fin 16) (k : Nat) : Nat := secEntry (s.slot n).image 4 k

/-- The fabric time at which the deadline of a transfer falls that counts from now; 0 where it has none (R172). -/
def deadlineFrom (s : State) (x : Xfer) : Word64 :=
  let k := sdDeadline (streamDesc s x.slot x.desc.toNat)
  if k = 0 then 0 else s.time.now + BitVec.ofNat 64 (k * 64)

/-- The object a transfer's release or consume field names, by the bindings of the issuing tile context (R328). -/
def xferRelease (s : State) (x : Xfer) : Option Nat :=
  let v := sdRelease (streamDesc s x.slot x.desc.toNat)
  if v = 0xFFFF then none else vidAddr s x.slot (bindUnitTile x.tile) x.ctx.val v
def xferConsume (s : State) (x : Xfer) : Option Nat :=
  let v := sdConsume (streamDesc s x.slot x.desc.toNat)
  if v = 0xFFFF then none else vidAddr s x.slot (bindUnitTile x.tile) x.ctx.val v

end Sys2Proof.Machine
end

