-- ==== Sys2Proof/Machine/Code.lean ====
section
/-! DEFINITION. Instruction words of an image and which of them a context reaches (Table 4.14, Table 4.18, R128). -/

namespace Sys2Proof.Machine

/-- Word i of CODE. -/
def codeWord (img i : Nat) : Nat := secEntry img 1 i

def wOp (w : Nat) : Nat := bits w 127 120
def wPred (w : Nat) : Bool := bitAt w 119

/-- Signed 32-bit offset of a BR, in instructions. -/
def wBranch (w : Nat) : Int := sInt32 (bits w 31 0)
def wLoopBody (w : Nat) : Nat := bits w 102 87
def wSqisDesc (w : Nat) : Nat := bits w 111 96
def wSqisQueue (w : Nat) : Nat := bits w 95 88

/-- Indices of the words that can follow word i: fall-through, the target of a BR, the end of a LOOP's body. -/
def wordNext (w i : Nat) : List Int :=
  let next : Int := i + 1
  match wOp w with
  | 0x0E => if wPred w then [next, i + wBranch w] else [i + wBranch w]
  | 0x0F => [next, i + 1 + wLoopBody w]
  | 0x10 => if wPred w then [next] else []
  | _ => [next]

/-- Adds the words reachable from a work list to those already seen. -/
def reachFrom (img n : Nat) : Nat → List Nat → List Nat → List Nat
  | 0, _, seen => seen
  | _ + 1, [], seen => seen
  | f + 1, i :: work, seen =>
    if seen.contains i then reachFrom img n f work seen
    else
      let next := (wordNext (codeWord img i) i).filterMap (fun (j : Int) => if 0 ≤ j ∧ j < (n : Int) then some (Int.toNat j) else none)
      reachFrom img n f (next ++ work) (i :: seen)

/-- The words reachable from a byte offset of CODE. -/
def reach (img entry : Nat) : List Nat :=
  let n := secCount img 1
  if entry / 16 < n then reachFrom img n (2 * n + 2) [entry / 16] [] else []

/-- Context entries (Table 4.5): tile, context, priority, entry offset. -/
structure CtxEntry where
  tile : Nat
  ctx : Nat
  prio : Nat
  entry : Nat
  deriving DecidableEq, Repr

def ctxEntryOf (e : Nat) : CtxEntry := ⟨bits e 15 0, bits e 17 16, bits e 25 24, bits e 63 32⟩

def ctxEntries (img : Nat) : List CtxEntry := (secAll img 2).map (fun e => ctxEntryOf e.2)

/-- Queue entries (Table 4.7): tile, context, queue, limit. -/
structure QueueEntry where
  tile : Nat
  ctx : Nat
  queue : Nat
  limit : Nat
  deriving DecidableEq, Repr

def queueEntries (img : Nat) : List QueueEntry :=
  (secAll img 5).map (fun e => ⟨bits e.2 15 0, bits e.2 17 16, bits e.2 31 24, bits e.2 63 48⟩)

/-- The contexts of an image that issue a transfer with drain = 1 (R203). -/
def drainContexts (img : Nat) : List (Nat × Nat) :=
  (ctxEntries img).filterMap (fun c =>
    if (reach img c.entry).any (fun i =>
        let w := codeWord img i
        wOp w == 0x40 && sdDrain (secEntry img 4 (wSqisDesc w))) then some (c.tile, c.ctx) else none)

end Sys2Proof.Machine
end

