-- ==== Sys2Proof/Machine/Fabric.lean ====
section
/-! DEFINITION. Sending into the fabric (ch. 13): the routing table, effective sets, classes and credits, sealing. -/

namespace Sys2Proof.Machine

def State.port (s : State) (p : Nat) : Port := tabGet {} s.fabric.ports p
def State.setPort (s : State) (p : Nat) (x : Port) : State :=
  { s with fabric := { s.fabric with ports := tabPut {} s.fabric.ports p x } }
def State.sess (s : State) (d : Nat) : Session := tabGet {} s.fabric.sessions d
def State.setSess (s : State) (d : Nat) (x : Session) : State :=
  { s with fabric := { s.fabric with sessions := tabPut {} s.fabric.sessions d x } }

/-! The routing table (Tables 13.4, 13.5). -/

def entryOf (s : State) (d : Nat) : BitVec 16 :=
  match s.fabric.route with
  | some r => tabGet 0 r.entries d
  | none => 0

def isMember (s : State) (d : Nat) : Bool := (entryOf s d).getLsbD 15

/-- Index of the self entry of a table. -/
def selfEntry (r : Route) : Option Nat := (r.entries.find? (fun e => e.2.getLsbD 14)).map (·.1)

/-- The module ID (R19): the rack comes from the table in force, tray and slot from the pins. -/
def moduleId (s : State) : Nat :=
  match s.fabric.route.bind selfEntry with
  | some i => i / 64 * 64 + s.geo.toNat
  | none => s.geo.toNat

def isMaster (s : State) (d : Nat) : Bool := s.fabric.route.any (fun r => r.master.toNat == d)
def isBackup (s : State) (d : Nat) : Bool := s.fabric.route.any (fun r => r.backup.toNat == d)

/-- Every other member of the slice, ascending. -/
def otherMembers (s : State) : List Nat :=
  match s.fabric.route with
  | some r => (r.entries.filter (fun e => e.2.getLsbD 15 && !e.2.getLsbD 14)).map (·.1)
  | none => []

/-- The effective set of a destination (R358); at I4 the ports are down (Table 17.2). -/
def effSet (s : State) (d : Nat) : List Nat :=
  (List.range 8).filter (fun p => !s.idle.module && (entryOf s d).getLsbD p && (s.port p).st == 0 &&
    !(tabGet (0 : BitVec 8) s.fabric.reported d).getLsbD p)

/-- The planes of a destination but for those that only wait for a retraining of the module's own port. -/
def possibleSet (s : State) (d : Nat) : List Nat :=
  (List.range 8).filter (fun p => !s.idle.module && (entryOf s d).getLsbD p && (s.port p).st != 2 &&
    !(tabGet (0 : BitVec 8) s.fabric.reported d).getLsbD p)

/-- A packet to d is sealed (R373). -/
def sealsTo (s : State) (d : Nat) : Bool :=
  s.fabric.route.any (fun r => r.sealAll) || d / 64 != moduleId s / 64

/-! Credits (R361, R362): 64-byte units. -/

/-- Items, low bits first, as whole bytes. -/
def itemBytes (l : List (Nat × Nat)) : List Byte := leBytes (cdiv (l.map (·.1)).sum 8) (packBits l)

/-- The payload: at least one byte (R353). -/
def Packet.body (k : Packet) : List Byte :=
  let l := itemBytes k.items ++ k.payload
  if l.isEmpty then [0] else l

/-- The header (Table 13.2). -/
def Packet.header (k : Packet) : Nat :=
  packBits [(32, 0), (48, k.aux), (48, k.address), (24, 0), (24, k.index), (16, k.xfer.toNat), (3, k.plane.val), (8, k.body.length - 1), (1, b2n k.sealed), (4, k.kind), (2, k.cls.val), (10, k.domain.toNat), (12, k.slice.toNat), (12, k.src.toNat), (12, k.dst.toNat)]

/-- 64-byte units of a packet of n payload bytes. -/
def packetUnits (n : Nat) (sealed : Bool) : Nat := cdiv (32 + n + (if sealed then 24 else 0)) 64
def Packet.units (k : Packet) : Nat := packetUnits k.body.length k.sealed

/-- The packets of a message longer than 256 bytes: its bytes, 256 in each packet, in order. -/
def splitPacket (k : Packet) (l : List Byte) : List Packet :=
  (pieces 256 l).zipIdx.map (fun p => { k with payload := p.1, index := p.2 })

/-- Free credits of a class: its own and, for data, the shared ones. -/
def Port.free (p : Port) (cls : Nat) : Nat :=
  if cls = 0 then p.data0 + p.shared else if cls = 1 then p.data1 + p.shared else p.ctl

/-- Uses n credits of a class, its own before the shared ones. -/
def Port.use (p : Port) (cls n : Nat) : Port :=
  if cls = 0 then { p with data0 := p.data0 - n, shared := p.shared - (n - p.data0) }
  else if cls = 1 then { p with data1 := p.data1 - n, shared := p.shared - (n - p.data1) }
  else { p with ctl := p.ctl - n }

/-- The plane with the most free credits of the class, the lowest of equals (R358). -/
def bestPlane (s : State) (d cls : Nat) : Option Nat :=
  (effSet s d).foldl (fun b p =>
    match b with
    | none => some p
    | some q => if (s.port q).free cls < (s.port p).free cls then some p else some q) none

/-! Sending. -/

/-- Records on which plane a packet of a ring or collective chunk left. -/
def noteChunk (s : State) (k : Packet) : State :=
  match k.chunk with
  | some (.ring b dst d) =>
    let x : Binding := tabGet {} s.rings.binds b.val
    let f := fun (p : Pass) => { p with unacked := p.unacked.map (fun u => if u.dst = dst ∧ u.data = d then { u with plane := k.plane, planes := u.planes ||| (1#8 <<< k.plane.val) } else u) }
    { s with rings := { s.rings with binds := tabPut {} s.rings.binds b.val { x with pass := x.pass.map f } } }
  | some (.coll g q dst st pc ch) =>
    let ix := fun (i : Coll) => (tabGet ({} : GroupEntry) s.colls.groups i.group).members.getD
    let f := fun (i : Coll) => { i with unacked := i.unacked.map (fun u => if ix i u.part.peer 0 = dst ∧ u.part.stage = st ∧ u.part.piece = pc ∧ u.part.chunk = ch then { u with plane := k.plane, planes := u.planes ||| (1#8 <<< k.plane.val) } else u) }
    { s with colls := { s.colls with active := s.colls.active.map (fun i => if i.group = g.toNat ∧ i.seq = q then f i else i) } }
  | none => s

/-- Records on which plane a WRITE or SIGNAL left. -/
def noteSent (s : State) (k : Packet) : State :=
  if k.chunk.isSome then noteChunk s k
  else if k.kind = 0 ∨ k.kind = 1 then
    { s with fabric := { s.fabric with sent := s.fabric.sent.map (fun e =>
        if e.packet.kind = k.kind ∧ e.packet.dst = k.dst ∧ e.packet.xfer = k.xfer ∧ e.packet.index = k.index then
          { e with packet := k, tried := e.tried ||| (1#8 <<< k.plane.val) } else e) } }
  else s

/-- A packet of this kind to this destination is sealed as the table now stands (R373); SESSION packets are not. -/
def Packet.seals (s : State) (k : Packet) : Bool := k.kind != 9 && sealsTo s k.dst.toNat

/-- A TIME packet takes its time as it leaves (R367): t1 of a request, t3 of a reply. -/
def Packet.stamp (s : State) (k : Packet) : Packet :=
  let now := s.time.now.toNat
  if k.kind ≠ 6 then k
  else if k.aux = 0 then { k with items := [(64, now)] }
  else { k with items := k.items.take 2 ++ [(64, now)] ++ k.items.drop 3 }

/-- The sealed form of a packet (R375): the header is authenticated, the payload encrypted; the nonce is the key generation
followed by the counter. -/
def Packet.seal (x : Session) (k : Packet) : Packet :=
  let plain := k.body
  let f := Config.aesGcm x.keyOut (k.gen ++ k.ctr) (leBytes 32 k.header) plain
  { k with items := [], payload := (List.range plain.length).map f, tag := (List.range 16).map (fun i => f (plain.length + i)) }

/-- Puts a packet on plane p. -/
def launchOn (s : State) (k : Packet) (p : Nat) : State :=
  let d := k.dst.toNat
  let sealed := k.seals s
  let x := s.sess d
  let k : Packet := { k.stamp s with plane := Fin.ofNat 8 p, src := BitVec.ofNat 12 (moduleId s), slice := (s.fabric.route.map (·.slice)).getD 0, sealed := sealed, gen := if sealed then x.gen else 0, ctr := if sealed then x.sendCtr else 0 }
  let s := if sealed then s.setSess d { x with sendCtr := x.sendCtr + 1 } else s
  let q := (s.port p).use k.cls.val k.units
  let s := s.setPort p (if k.cls.val < 2 then { q with lastCls := k.cls } else q)
  noteSent { s with out := { s.out with packets := s.out.packets ++ [if sealed then k.seal x else k] } } k

/-- The plane that a packet is to leave on: the one in turn where it has one, else the best (R355, R358, R366). -/
def planeFor (s : State) (k : Packet) : Option Nat :=
  match k.turn with
  | some p =>
    let set := effSet s k.dst.toNat
    (set.filter (fun q => decide (p.val ≤ q)) ++ set).head?
  | none => bestPlane s k.dst.toNat k.cls.val

/-- The plane a packet can leave on now: its session open if it is sealed, and credit for it. -/
def canSend (s : State) (k : Packet) : Option Nat :=
  let sealed := k.seals s
  if sealed && (s.sess k.dst.toNat).st != 2 then none
  else (planeFor s k).filter (fun p => decide (packetUnits k.body.length sealed ≤ (s.port p).free k.cls.val))

/-- A SESSION packet (R374): step 0 opens a handshake, step 1 answers; it carries the configuration, the key generation it
sets up and the ephemeral public key. -/
def sessionPacket (s : State) (d : Nat) (step : Nat) (gen : Word32) (eph : Nat) : Packet :=
  { kind := 9, dst := BitVec.ofNat 12 d, cls := 2, domain := 0x3FF, aux := step,
    items := [(64, (s.fabric.route.map (·.configId.toNat)).getD 0), (32, gen.toNat), (768, (Config.ephemeral eph).toNat)] }

/-- Hands a packet to the fabric: behind waiting packets of its class and destination, or out at once. -/
def queuePacket (s : State) (k : Packet) : State :=
  let wait := { s with fabric := { s.fabric with waiting := s.fabric.waiting ++ [k] } }
  if s.fabric.waiting.any (fun w => w.cls = k.cls ∧ w.dst = k.dst ∧ w.turn.isNone) then wait
  else match canSend s k with
    | some p => launchOn s k p
    | none => wait

/-- Starts a handshake with a peer that has no session (R374), under a fresh ephemeral key. -/
def openSession (s : State) (d : Nat) (timeOnly : Bool) : State :=
  let x := s.sess d
  if x.st = 0 then
    queuePacket (s.bump.setSess d { x with st := 1, timeOnly := timeOnly, eph := s.free }) (sessionPacket s d 0 (x.gen + 1) s.free)
  else s

/-- Sends a packet: sealed where R373 says so, after a handshake if there is no session. -/
def sendPacket (s : State) (k : Packet) : State :=
  queuePacket (if k.seals s then openSession s k.dst.toNat (k.kind = 6) else s) k

/-- The next waiting packet that can leave: control first; data classes alternate on a port (R361). -/
def nextWaiting (s : State) : Option (Packet × Nat) :=
  let can := s.fabric.waiting.filterMap (fun k => (canSend s k).map (fun p => (k, p)))
  match can.find? (fun e => e.1.cls.val = 2) with
  | some e => some e
  | none =>
    match can with
    | [] => none
    | e :: _ =>
      if e.1.cls = (s.port e.2).lastCls then some ((can.find? (fun f => f.2 = e.2 ∧ f.1.cls ≠ e.1.cls)).getD e) else some e

/-- Sends waiting packets while one can leave. -/
def flushWaiting : Nat → State → State
  | 0, s => s
  | n + 1, s =>
    match nextWaiting s with
    | none => s
    | some (k, p) => flushWaiting n (launchOn { s with fabric := { s.fabric with waiting := s.fabric.waiting.erase k } } k p)

/-- Handshakes start for waiting packets that are sealed as the table now stands (R373, R374), and what can leave does. -/
def flush (s : State) : State :=
  let s := s.forAll (s.fabric.waiting.filter (fun k => k.seals s)) (fun s k => openSession s k.dst.toNat (k.kind = 6))
  flushWaiting s.fabric.waiting.length s

/-- A control packet to d. -/
def sendControl (s : State) (kind d : Nat) (domain : Nat) (xfer : BitVec 16) (index address aux : Nat) (items : List (Nat × Nat)) : State :=
  sendPacket s { kind := kind, dst := BitVec.ofNat 12 d, cls := 2, domain := BitVec.ofNat 10 domain, xfer := xfer, index := index, address := address, aux := aux, items := items }

/-! Remote transfers (R355). -/

/-- Transfers to a destination that are not acknowledged in full. -/
def openXfers (s : State) (d : Nat) : Nat :=
  ((s.fabric.sent.filter (fun e => e.packet.dst.toNat = d)).map (·.packet.xfer)).eraseDups.length

/-- The next transfer number to a destination. -/
def takeXferNo (s : State) (d : Nat) : State × BitVec 16 :=
  let n := tabGet (0 : BitVec 16) s.fabric.xferNo d
  ({ s with fabric := { s.fabric with xferNo := tabPut 0 s.fabric.xferNo d (n + 1) } }, n)

/-- Sends a WRITE or SIGNAL and keeps it until it is acknowledged. -/
def sendKept (s : State) (q : Fin 256) (k : Packet) : State :=
  sendPacket { s with fabric := { s.fabric with sent := s.fabric.sent ++ [⟨q, k, 0⟩] } } k

/-- Sends a packet again, on the next plane of the effective set after the one it went on (R355); one that still waits to
leave is not sent twice. -/
def relaunch (s : State) (k : Packet) : State :=
  let same := fun (w : Packet) => w.kind == k.kind && w.dst == k.dst && w.xfer == k.xfer && w.index == k.index && w.chunk == k.chunk
  if (possibleSet s k.dst.toNat).isEmpty || s.fabric.waiting.any same then s
  else sendPacket s { k with turn := some (k.plane + 1) }

def resend (s : State) (e : Sent) : State := relaunch s e.packet

/-- Drops what the module still keeps of a transfer it sends. -/
def dropXfer (s : State) (d : Nat) (xfer : BitVec 16) : State :=
  let mine := fun (k : Packet) => (k.kind = 0 ∨ k.kind = 1) ∧ k.dst.toNat = d ∧ k.xfer = xfer
  { s with fabric := { s.fabric with
      sent := s.fabric.sent.filter (fun e => !decide (mine e.packet))
      waiting := s.fabric.waiting.filter (fun k => !decide (mine k)) } }

end Sys2Proof.Machine
end

