-- ==== Sys2Proof/Machine/Tiers.lean ====
section
/-! DEFINITION. Memory tiers (ch. 7): the grain directory, frames, what an access meets, release, and the choices of
Maltster. -/

namespace Sys2Proof.Machine

/-! The device range (Table 7.1) and the sequence arenas (Table 9.3). -/

def inGrains (a : Nat) : Bool := decide (a < 0x100000000000)
def inAperture (a : Nat) : Bool := decide (0x100000000000 ≤ a) && decide (a < 0x200000000000)
def inControl (a : Nat) : Bool := decide (0xFF0000000000 ≤ a) && decide (a < 0x1000000000000)
def grainOf (a : Nat) : Nat := a / 65536
def inKvArena (g : Nat) : Bool := decide (0x08000000 ≤ g) && decide (g < 0x0F000000)
def inListArena (g : Nat) : Bool := decide (0x0F000000 ≤ g) && decide (g < 0x10000000)

/-- Page slot of a KV-arena grain (2 MiB slots). -/
def pageOf (g : Nat) : Nat := (g - 0x08000000) / 32
def pageGrain (p : Nat) : Nat := 0x08000000 + p * 32
def pageAddr (p : Nat) : Nat := pageGrain p * 65536

def State.page (s : State) (p : Nat) : PageRec := tabGet {} s.seqs.pages p
def State.setPage (s : State) (p : Nat) (x : PageRec) : State :=
  { s with seqs := { s.seqs with pages := tabPut {} s.seqs.pages p x } }

/-- A KV-arena grain lies in a live page: LIVE or in LIMBO (R250). -/
def inLivePage (s : State) (g : Nat) : Bool :=
  let r := s.page (pageOf g)
  r.st != 0 && decide ((g - 0x08000000) % 32 < r.grains)

/-- The list-arena item that holds a grain. -/
def listItemOf (s : State) (g : Nat) : Option ListItem :=
  (s.seqs.lists.find? (fun e => decide (e.1 ≤ g) && decide (g < e.1 + e.2.grains))).map (·.2)

/-- Domain of a grain when it is backed for an access under domain d (R191). -/
def backingDomain (s : State) (g d : Nat) : Nat :=
  if inKvArena g then (s.page (pageOf g)).domain.toNat
  else if inListArena g then
    match listItemOf s g with
    | some i => (tabGet {} s.seqs.table i.handle).domain.toNat
    | none => d
  else d

/-! Frames (R185, R186, R195, R196). -/

/-- The channel of a stack that holds byte offset o of its memory (R185). -/
def channelOf (o : Nat) : Nat := o / 256 % 4

def nearFirst : Nat := 16384
def nearLast : Nat := 1048576
def stackUp (s : State) (k : Nat) : Bool := decide (k < 24) && s.tiers.stacksUp.getLsbD k

/-- Entries of a table with indices in [lo, hi). -/
def usedIn {α : Type} (t : Tab α) (lo hi : Nat) : Nat :=
  (t.filter (fun e => decide (lo ≤ e.1) && decide (e.1 < hi))).length

/-- The lowest index from c up, below hi, that a table does not list. -/
def firstUnused {α : Type} (c hi : Nat) : Tab α → Option Nat
  | [] => if c < hi then some c else none
  | (k, _) :: t =>
    if k < c then firstUnused c hi t
    else if k = c then firstUnused (c + 1) hi t
    else if c < hi then some c else none

/-- The near-memory channel that holds a byte of the device range, as stack × 4 + channel; none for a byte that no near
frame serves. -/
def nearChannel (s : State) (a : Nat) : Option Nat :=
  let x := s.grain (grainOf a)
  if x.st = 2 ∨ x.st = 3 ∨ x.st = 6 then some (x.stack.val * 4 + channelOf (a % 65536)) else none

/-- The channels that n bytes from address a touch (R16, R185). -/
def rangeChannels (s : State) (a n : Nat) : List Nat :=
  ((List.range ((a + n - 1) / 256 + 1 - a / 256)).filterMap (fun i => nearChannel s ((a / 256 + i) * 256))).eraseDups

/-- Free near frames of a stack. -/
def nearFree (s : State) (k : Nat) : Nat :=
  if stackUp s k then nearLast - nearFirst - usedIn s.tiers.nearUsed (k * nearLast + nearFirst) ((k + 1) * nearLast)
  else 0

/-- Free placement frames of the module (R198). -/
def nearFreeAll (s : State) : Nat := ((List.range 24).map (nearFree s)).sum

/-- Among a die's six stacks, the one with the most free frames, the lowest of equals (R195). -/
def dieStack (s : State) (d : Nat) : Nat :=
  (List.range 6).foldl (fun b i => if nearFree s b < nearFree s (6 * d + i) then 6 * d + i else b) (6 * d)

/-- The stack that R195 prefers for a grain. -/
def preferredStack (s : State) (g : Nat) : Nat :=
  let x := s.grain g
  if x.cacheable then g % 24
  else if inKvArena g then dieStack s (s.page (pageOf g)).home.val
  else if x.die.val < 4 then dieStack s x.die.val
  else g % 24

/-- The first stack from k upward, wrapping from 23 to 0, that has a free frame. -/
def stackFrom (s : State) (k : Nat) : Option Nat :=
  ((List.range 24).map (fun i => (k + i) % 24)).find? (fun i => decide (0 < nearFree s i))

/-- A free frame of the stack found from k on: its lowest (log entry 8). -/
def nearAllocFrom (s : State) (k : Nat) : Option (Nat × Nat) :=
  match stackFrom s k with
  | none => none
  | some k =>
    (firstUnused (k * nearLast + nearFirst) ((k + 1) * nearLast) s.tiers.nearUsed).map (fun i => (k, i - k * nearLast))

def nearAlloc (s : State) (g : Nat) : Option (Nat × Nat) := nearAllocFrom s (preferredStack s g)

def takeNear (s : State) (f : Nat × Nat) : State :=
  { s with tiers := { s.tiers with nearUsed := tabPut false s.tiers.nearUsed (f.1 * nearLast + f.2) true } }
def freeNear (s : State) (f : Nat × Nat) : State :=
  { s with tiers := { s.tiers with nearUsed := tabPut false s.tiers.nearUsed (f.1 * nearLast + f.2) false } }

def farStride : Nat := 2 ^ 26
def State.cxl (s : State) (p : Nat) : CxlPort := tabGet {} s.tiers.cxl p
def State.setCxl (s : State) (p : Nat) (x : CxlPort) : State :=
  { s with tiers := { s.tiers with cxl := tabPut {} s.tiers.cxl p x } }

/-- Far frames that a port offers: at most 4 TiB (R186). -/
def farFrames (s : State) (p : Nat) : Nat := if (s.cxl p).inService then min (s.cxl p).frames farStride else 0
def farAlloc (s : State) (p : Nat) : Option Nat :=
  (firstUnused (p * farStride) (p * farStride + farFrames s p) s.tiers.farUsed).map (fun i => i - p * farStride)
def farFree (s : State) (p : Nat) : Nat :=
  farFrames s p - usedIn s.tiers.farUsed (p * farStride) (p * farStride + farFrames s p)
def takeFar (s : State) (p f : Nat) : State :=
  { s with tiers := { s.tiers with farUsed := tabPut false s.tiers.farUsed (p * farStride + f) true } }
def freeFar (s : State) (p f : Nat) : State :=
  { s with tiers := { s.tiers with farUsed := tabPut false s.tiers.farUsed (p * farStride + f) false } }

def otherPort (p : Fin 2) : Fin 2 := if p.val = 0 then 1 else 0

/-- Gives a grain its primary far frame, on port (grain mod 2) or else on the other (R196). -/
def giveFar (s : State) (g : Nat) : State × Bool :=
  let x := s.grain g
  if x.farHeld then (s, true)
  else
    let p : Fin 2 := if g % 2 = 0 then 0 else 1
    let on := fun (q : Fin 2) => (farAlloc s q.val).map (fun f => (q, f))
    match (on p).orElse (fun _ => on (otherPort p)) with
    | none => (s, false)
    | some (q, f) =>
      ((takeFar s q.val f).setGrain g { x with farPort := q, farFrame := BitVec.ofNat 26 f, farHeld := true }, true)

/-- Gives a mirrored grain its frame on the port that does not hold its primary frame. -/
def giveMirror (s : State) (g : Nat) : State × Bool :=
  let x := s.grain g
  if x.mirrorHeld then (s, true)
  else
    let q := otherPort x.farPort
    match farAlloc s q.val with
    | none => (s, false)
    | some f =>
      ((takeFar s q.val f).setGrain g { x with mirrorFrame := BitVec.ofNat 26 f, mirrorHeld := true, degraded := false }, true)

/-- Every far frame that a grain needs to become FAR: one, or one on each port in service if it is mirrored. -/
def giveFarAll (s : State) (g : Nat) : State × Bool :=
  let r := giveFar s g
  if !r.2 then (s, false)
  else if (r.1.grain g).mirrored then
    let m := giveMirror r.1 g
    if m.2 then m
    else if (s.cxl (otherPort (r.1.grain g).farPort).val).inService then (s, false)
    else (r.1.setGrain g { (r.1.grain g) with degraded := true }, true)
  else r

/-! Tun lines (R179 to R182). -/

def tunIx (die : Fin 4) (line : Nat) : Nat := die.val * 4096 + line % 4096

/-- Drops the lines that p selects in all four Tuns; fills in flight for them are dropped once served. -/
def dropTun (s : State) (p : TunLine → Bool) : State :=
  let u := s.streams
  { s with streams := { u with
      tun := tabMap [] (fun _ l => l.filter (fun e => !p e)) u.tun
      fills := u.fills.map (fun f => if p ⟨f.line, f.domain⟩ then { f with stale := true } else f) } }

/-- A write to [a, a + n) invalidates the lines it touches (R182). -/
def dropTunRange (s : State) (a n : Nat) : State := dropTun s (fun e => overlaps (e.line.toNat * 1024) 1024 a n)

def dropTunGrain (s : State) (g : Nat) : State := dropTunRange s (g * 65536) 65536

/-! Backing and release (R190 to R192). -/

/-- Backing starts: the grain takes the domain of R191.  A KV-arena grain outside a live page is never backed (R250). -/
def startBacking (s : State) (g d : Nat) (die : Fin 5) : State :=
  let x := s.grain g
  if x.st = 0 && !(inKvArena g && !inLivePage s g) then
    count (s.setGrain g { x with st := 1, domain := BitVec.ofNat 10 (backingDomain s g d), die := die }) 0x0200
  else s

/-- Removes a grain's pending promotion. -/
def unpend (s : State) (g : Nat) : State :=
  { s with tiers := { s.tiers with pend := s.tiers.pend.filter (fun p => p.grain != g) } }

/-- Gives back the near frame of a grain that holds one, and the frame a copy goes to. -/
def freeNearOf (s : State) (x : Grain) : State :=
  let s := if x.st = 2 ∨ x.st = 3 ∨ x.st = 6 ∨ x.st = 7 then freeNear s (x.stack.val, x.nearFrame.toNat) else s
  match x.target with
  | some (k, f) => freeNear s (k.val, f.toNat)
  | none => s

def freeFarOf (s : State) (x : Grain) : State :=
  let s := if x.farHeld then freeFar s x.farPort.val x.farFrame.toNat else s
  if x.mirrorHeld then freeFar s (otherPort x.farPort).val x.mirrorFrame.toNat else s

/-- Returns a grain to UNBACKED: frames to the free pools, bytes zeroed, its entry to the reset state (R192). -/
def releaseNow (s : State) (g : Nat) : State :=
  let x := s.grain g
  let s := dropTunGrain (unpend (freeFarOf (freeNearOf s x) x) g) g
  let s := { s with dev := memZero s.dev (g * 65536) 65536 }
  let t := s.tiers
  { s with tiers := { t with
      dir := tabPut {} t.dir g {}
      seen := t.seen.filter (fun e => e.1 / 8 != g)
      lead := t.lead.filter (fun e => e.1 != g) } }

/-- Release of a grain; one that meets a copy in flight takes effect when the copy ends (R192). -/
def releaseGrain (s : State) (g : Nat) : State :=
  let x := s.grain g
  if x.st = 5 ∨ x.st = 6 ∨ x.st = 7 ∨ x.st = 8 then s.setGrain g { x with releasing := true } else releaseNow s g

/-- After a copy ends: a release that waited takes effect. -/
def afterCopy (s : State) (g : Nat) : State := if (s.grain g).releasing then releaseNow s g else s

/-! Pending promotions (R197, R204). -/

/-- The grains that are promoted and evicted with a grain: those of its KV page, or itself. -/
def grainGroup (s : State) (g : Nat) : List Nat :=
  if inKvArena g then (List.range (s.page (pageOf g)).grains).map (fun i => pageGrain (pageOf g) + i) else [g]

/-- A pending promotion starts before another (R197, R205): lower class; within class 1 the earlier need, then layer,
then place in the page table. -/
def Pend.before (p q : Pend) : Bool :=
  decide (p.cls < q.cls) || (p.cls == q.cls && p.cls == 1 && (decide (p.need < q.need) || (p.need == q.need &&
    (decide (p.layer < q.layer) || (p.layer == q.layer && decide (p.place < q.place))))))

/-- Puts a promotion on the pending list; of two for one grain, the one that starts first stays. -/
def pushPend (s : State) (p : Pend) : State :=
  if s.tiers.pend.any (fun q => q.grain == p.grain && !p.before q) then s
  else { s with tiers := { s.tiers with pend := s.tiers.pend.filter (fun q => q.grain != p.grain) ++ [p] } }

/-- Marks a FAR grain pending. -/
def markPend (s : State) (p : Pend) : State :=
  let x := s.grain p.grain
  if x.st = 4 then pushPend (s.setGrain p.grain { x with pending := true }) p else s

/-- The request for a promotion of a class: a window promotion is needed from the time at which it is marked (log
entry 107). -/
def pendOf (s : State) (cls : Fin 4) (g : Nat) : Pend := { cls := cls, grain := g, need := if cls = 1 then s.time.now.toNat else 0 }

def markPending (s : State) (g : Nat) (cls : Fin 4) : State := markPend s (pendOf s cls g)

/-- An eviction in flight is abandoned: the grain stays NEAR and keeps its far frame (Table 7.8). -/
def cancelEviction (s : State) (g : Nat) : State :=
  let x := s.grain g
  if x.st = 6 then
    let s := count (s.setGrain g { x with st := 2 }) 0x0500
    afterCopy s g
  else s

/-- A promotion or pin request at the directory: UNBACKED is backed, EVICTING goes back to NEAR, FAR becomes pending
with the grains that are promoted with it. -/
def requestPend (s : State) (p : Pend) (d : Nat) (die : Fin 5) : State :=
  let g := p.grain
  let x := s.grain g
  if x.st = 0 then startBacking s g d die
  else if x.st = 6 then cancelEviction s g
  else if x.st = 4 then
    (grainGroup s g).foldl (fun s h => markPend s { p with grain := h }) (s.setGrain g { x with die := die })
  else s

def requestPromotion (s : State) (g d : Nat) (cls : Fin 4) (die : Fin 5) : State := requestPend s (pendOf s cls g) d die

/-! What an access meets (Table 7.4, Table 6.9, R250, R439). -/

inductive Access where
  | served | held
  /-- Refused by a domain tag, with `ST_DENIED`. -/
  | domain
  | refused (status : Nat)
  deriving DecidableEq, Repr

/-- The domain check (Table 16.6a). -/
def domainOk (d t : Nat) (write : Bool) : Bool := d == t || (!write && t == 0x3FF)

/-- An access of domain d to a grain of grain space; kv is the AE KV read, which requires equal domains. -/
def grainAccess (s : State) (g d : Nat) (write kv : Bool) : Access :=
  let x := s.grain g
  let tag := if x.st = 0 then backingDomain s g d else x.domain.toNat
  if inKvArena g && !inLivePage s g then .refused stBadArg
  else if inListArena g && write then .refused stDenied
  else if !(if kv then d == tag else domainOk d tag write) then .domain
  else if x.st = 9 then .refused stPoisoned
  else if x.st = 2 ∨ x.st = 3 ∨ x.st = 4 ∨ x.st = 6 then .served
  else .held

/-- Agents observe an access of a unit of a die (R188 last_use, R197, R200). -/
def observe (s : State) (g : Nat) (die : Fin 5) : State :=
  let x := s.grain g
  let s := if x.st = 4 then s else wakeDie s (x.stack.val / 6)
  let s := s.setGrain g { x with lastUse := BitVec.ofNat 21 (s.time.now.toNat / 2 ^ 20) }
  if die.val < 4 then
    let i := g * 8 + die.val
    let n := tabGet 0 s.tiers.seen i + 1
    let s := { s with tiers := { s.tiers with seen := tabPut 0 s.tiers.seen i n } }
    if x.st = 4 && !x.preferFar && decide (16 ≤ n) then
      (grainGroup s g).foldl (fun s h => markPending s h 3) (s.setGrain g { (s.grain g) with die := die })
    else s
  else s

/-- An access meets a grain: a held access to an UNBACKED grain starts its backing. -/
def meetGrain (s : State) (g d : Nat) (write kv : Bool) (die : Fin 5) : State × Access :=
  let r := grainAccess s g d write kv
  match r with
  | .held => (startBacking s g d die, r)
  | .served => (observe s g die, r)
  | _ => (s, r)

/-- A served write reaches a grain: NEAR_CLEAN becomes NEAR, an eviction is cancelled, Tun lines are invalidated. -/
def grainWritten (s : State) (g : Nat) : State :=
  let x := s.grain g
  if x.st = 3 then s.setGrain g { x with st := 2 }
  else if x.st = 6 then cancelEviction s g
  else s

/-- Writes bytes that lie in one grain, once the access is served; a release that the write brings about by ending an
eviction discards them with the grain. -/
def devStore (s : State) (a : Nat) (l : List Byte) : State :=
  grainWritten ((dropTunRange s a l.length).devPoke a l) (grainOf a)

/-- The grains of a range. -/
def rangeGrains (a n : Nat) : List Nat := (List.range (grainOf (a + n - 1) + 1 - grainOf a)).map (fun i => grainOf a + i)

/-- The part of the bytes l at address a that lies in grain g: its address and bytes. -/
def grainPart (a : Nat) (l : List Byte) (g : Nat) : Nat × List Byte :=
  let lo := max a (g * 65536)
  (lo, (l.drop (lo - a)).take (min (a + l.length) ((g + 1) * 65536) - lo))

/-- Writes that may cross grains, each part to its own grain. -/
def storeAcross (s : State) (a : Nat) (l : List Byte) : State :=
  (rangeGrains a l.length).foldl (fun s g => devStore s (grainPart a l g).1 (grainPart a l g).2) s

/-- A write of the hub waits for its grain. -/
def holdHub (s : State) (w : HubWrite) : State := { s with tiers := { s.tiers with hub := s.tiers.hub ++ [w] } }

/-- A grain that holds accesses (Table 7.4). -/
def grainHolds (s : State) (g : Nat) : Bool :=
  let st := (s.grain g).st
  st == 0 || st == 1 || st == 5 || st == 7 || st == 8

/-- One write of the hub's own logic (list arena, copied pages), which needs no domain check: held while its grain holds
accesses, and without effect on a POISONED grain (R189). -/
def hubPart (s : State) (a : Nat) (l : List Byte) : State :=
  let g := grainOf a
  if grainHolds s g then holdHub (startBacking s g 0x3FF 4) { addr := a, bytes := l }
  else if (s.grain g).st = 9 then s
  else devStore s a l

def hubStore (s : State) (a : Nat) (l : List Byte) : State :=
  (rangeGrains a l.length).foldl (fun s g => hubPart s (grainPart a l g).1 (grainPart a l g).2) s

/-- What the hub's own logic reads: memory with its writes that are still held. -/
def State.hubRead (s : State) (a n : Nat) : List Byte :=
  memRead ((s.tiers.hub.filter (fun w => w.domain.isNone)).foldl (fun m w => memWrite m w.addr w.bytes) s.dev) a n

/-! Completions (Table 7.5). -/

/-- The record `EV_MEM_EXHAUSTED`, at most once per 1 ms. -/
def memExhausted (s : State) : State :=
  let now := s.time.now.toNat
  if s.tiers.exhausted.all (fun t => decide (t + 1000000 ≤ now)) then
    emit { s with tiers := { s.tiers with exhausted := some now } } { type := 0x2001, severity := 2, scope := 6 }
  else s

/-! Victims (R198, R204). -/

/-- Age of a grain's last use, compared modulo 2^21. -/
def age (s : State) (x : Grain) : Nat := (BitVec.ofNat 21 (s.time.now.toNat / 2 ^ 20) - x.lastUse).toNat

/-! Weight plan (R202). -/

/-- Bits per element, for the size of a tensor. -/
def fmtBits (f : Nat) : Nat :=
  match f with
  | 0 => 32 | 1 => 64 | 2 => 16 | 3 => 16 | 6 => 4 | 8 => 128 | _ => 8

def wpSource (e : Nat) : Nat := bits e 255 192
def wpAddress (e : Nat) : Nat := bits e 191 128
def wpWindow (e : Nat) : Nat := bits e 111 96
def wpPinned (e : Nat) : Bool := bitAt e 82
def wpMirrored (e : Nat) : Bool := bitAt e 81
def wpRestorable (e : Nat) : Bool := bitAt e 80
def wpLayer (e : Nat) : Nat := bits e 79 64
def wpCols (e : Nat) : Nat := bits e 63 48
def wpRows (e : Nat) : Nat := bits e 47 32
def wpFormat (e : Nat) : Nat := bits e 31 24
def wpLevel (e : Nat) : Nat := bits e 23 16
def wpTensor (e : Nat) : Nat := bits e 15 0

/-- Entries of an image's weight plan. -/
def wpEntries (img : Nat) : List Nat := (secAll img 0xB).map (·.2)

/-- Grains that an entry covers: from its address, its elements rounded up to whole grains. -/
def wpGrains (e : Nat) : List Nat :=
  let n := cdiv (cdiv (wpRows e * wpCols e * fmtBits (wpFormat e)) 8) 65536
  (List.range n).map (fun i => grainOf (wpAddress e) + i)

/-- The level-1 entries, and the level-0 entries of tensors without one. -/
def wpPlaced (img : Nat) : List Nat :=
  let es := wpEntries img
  let l1 := es.filter (fun e => wpLevel e = 1)
  l1 ++ es.filter (fun e => wpLevel e = 0 && !l1.any (fun f => wpTensor f == wpTensor e))

/-- The distinct layers of the level-1 entries, ascending: rank r is the r-th (R202). -/
def wpLayers (img : Nat) : List Nat :=
  sortBy (fun a b => decide (a ≤ b)) ((wpEntries img).filterMap (fun e => if wpLevel e = 1 then some (wpLayer e) else none)).eraseDups

/-- The grains of a rank. -/
def rankGrains (img r : Nat) : List Nat :=
  match (wpLayers img)[r]? with
  | none => []
  | some l =>
    sortBy (fun a b => decide (a ≤ b))
      (((wpEntries img).filter (fun e => wpLevel e = 1 && wpLayer e == l)).flatMap wpGrains)

/-- The window: the largest window field; 0, or L_c or more, holds every layer. -/
def wpWindowOf (img : Nat) : Nat :=
  let w := ((wpEntries img).filter (fun e => wpLevel e = 1)).foldl (fun m e => max m (wpWindow e)) 0
  let n := (wpLayers img).length
  if w = 0 ∨ n ≤ w then n else w

/-- A grain belongs to a retired layer (Table 7.6). -/
def inRetired (s : State) (g : Nat) : Bool :=
  s.tiers.retired.any (fun p => (rankGrains (s.slot p.1).image p.2).contains g)

/-- Victim class of a grain (Table 7.6). -/
def victimClass (s : State) (g : Nat) (x : Grain) : Nat :=
  let clean := x.st == 3
  if clean && x.preferFar then 1
  else if clean && x.cacheable && inRetired s g then 2
  else if clean && !x.preferNear then 3
  else if !clean && x.preferFar then 4
  else if !clean && !x.preferNear then 5
  else if clean then 6 else 7

/-- A KV page will be read within the horizon (R205). -/
def pageNear (s : State) (p : Nat) : Bool := s.tiers.near.any (fun e => e.1 == p)

/-- A grain qualifies as a victim (R198), but for the far frame that it needs. -/
def mayEvict (s : State) (g : Nat) : Bool :=
  let x := s.grain g
  x.pins == 0 && !x.pending && (x.st == 2 || x.st == 3) && !(inKvArena g && pageNear s (pageOf g))

/-- Every NEAR grain of the list obtains its far frames, one after the other. -/
def farForAll : State → List Nat → Bool
  | _, [] => true
  | s, g :: t =>
    if (s.grain g).st = 2 then
      let r := giveFarAll s g
      r.2 && farForAll r.1 t
    else farForAll s t

/-- A group of grains that would be evicted together. -/
structure Victim where
  cls : Nat
  age : Nat
  first : Nat
  grains : List Nat
  deriving DecidableEq, Repr

/-- The victims in their order: class, then oldest last use, then lowest grain number. -/
def victims (s : State) : List Victim :=
  let one := fun (e : Nat × Grain) =>
    let g := e.1
    let l := grainGroup s g
    if l.head? = some g && l.all (mayEvict s) && farForAll s l then
      some ⟨l.foldl (fun m h => max m (victimClass s h (s.grain h))) 0,
        l.foldl (fun m h => max m (age s (s.grain h))) 0, g, l⟩
    else none
  sortBy (fun a b => decide (a.cls < b.cls) || (a.cls == b.cls && (decide (b.age < a.age) ||
    (b.age == a.age && decide (a.first ≤ b.first))))) (s.tiers.dir.filterMap one)

/-- A near frame is obtainable: one is free or a victim exists (R199). -/
def nearObtainable (s : State) : Bool := decide (0 < nearFreeAll s) || !(victims s).isEmpty

/-- An eviction at the directory takes effect. -/
def evictOne (s : State) (g : Nat) : State :=
  let x := s.grain g
  if x.st = 3 then
    let s := freeNear s (x.stack.val, x.nearFrame.toNat)
    let s := count (s.setGrain g { x with st := 4 }) 0x0400
    if x.mirrored && !x.mirrorHeld then
      let m := giveMirror s g
      if m.2 then m.1 else s.setGrain g { (s.grain g) with degraded := true }
    else s
  else if x.st = 2 then
    let r := giveFarAll s g
    if r.2 then r.1.setGrain g { (r.1.grain g) with st := 6 } else s
  else s

/-- Frames that evictions under way will free. -/
def evictingFrames (s : State) : Nat := (s.tiers.dir.filter (fun e => e.2.st = 6)).length

/-- Applies the eviction of a group at the directory (R204, R206): refused, and counted, when a grain of it is pinned or
pending by then, and without effect when far frames have run out. -/
def evictGroup (s : State) (l : List Nat) : State :=
  let bad := l.filter (fun g => (s.grain g).pins != 0 || (s.grain g).pending)
  if !bad.isEmpty then countN s 0x0600 bad.length
  else if farForAll s l then l.foldl evictOne s else s

def evictAll : List Victim → State → State
  | [], s => s
  | v :: t, s =>
    if 262144 ≤ nearFreeAll s + evictingFrames s then s
    else evictAll t (evictGroup s v.grains)

/-- A promotion request that reaches the directory after the scan has chosen its victims (Table 7.8, first row): the
chosen grain is pending when its eviction is applied. -/
def lateRequest (chosen : List Nat) (s : State) (g : Nat) : State :=
  let x := s.grain g
  if chosen.contains g && !x.pending then pushPend (s.setGrain g { x with pending := true }) (pendOf s 3 g) else s

end Sys2Proof.Machine
end

