-- ==== Sys2Proof/Machine/Bar2.lean ====
section
/-! DEFINITION. BAR2 accesses (R384, R385, Table 14.2): what each meets, and those that wait for a held grain. -/

namespace Sys2Proof.Machine

/-- The outcome of a BAR2 access by the rows of Table 14.2. -/
inductive Bar2Meet where
  | untrusted | refused | poisoned | held | served
  deriving DecidableEq, Repr

/-- A grain as a BAR2 access under domain d meets it; the domain policy may refuse its tag (R440). -/
def bar2Grain (s : State) (g d : Nat) (write : Bool) : Bar2Meet :=
  let x := s.grain g
  let tag := if x.st = 0 then backingDomain s g d else x.domain.toNat
  match grainAccess s g d write false with
  | .domain => .refused
  | .refused st => if st = stPoisoned ∧ (tag = 0x3FF ∨ (tabGet 3 s.prot.policy tag).getLsbD 1) then .poisoned else .refused
  | .held => if tag = 0x3FF ∨ (tabGet 3 s.prot.policy tag).getLsbD 1 then .held else .refused
  | .served => if tag = 0x3FF ∨ (tabGet 3 s.prot.policy tag).getLsbD 1 then .served else .refused

/-- What n bytes at device address a meet; the first row of the table that any of their grains meets applies. -/
def bar2Meet (s : State) (a n : Nat) (write : Bool) : Bar2Meet :=
  let d := s.host.bar2Domain
  if !s.trusted then .untrusted
  else if !domainOpen s d || !inGrains a || !inGrains (a + n - 1) then .refused
  else
    let l := (rangeGrains a n).map (fun g => bar2Grain s g d.toNat write)
    if l.contains .refused then .refused
    else if l.contains .poisoned then .poisoned
    else if l.contains .held then .held else .served

/-- A completion for the host. -/
def answerHost (s : State) (c : Completion) : State := { s with out := { s.out with completions := s.out.completions ++ [c] } }

/-- Ends a BAR2 access by what it meets; a held one is left to its caller. -/
def bar2End (s : State) (x : Bar2Access) (m : Bar2Meet) : State :=
  match x, m with
  | .read a _, .untrusted => answerHost (hostError s 1 a) .unsupported
  | .write a _, .untrusted => hostError s 1 a
  | .read a _, .refused => answerHost (hostError s 2 a) .abort
  | .write a _, .refused => hostError s 2 a
  | .read a _, .poisoned => answerHost (hostError s 3 a) .poisoned
  | .write a _, .poisoned => hostError s 3 a
  | .read a n, .served =>
    answerHost ((rangeGrains a n).foldl (fun s g => observe s g 4) s) (.data (s.devRead a n))
  | .write a l, .served => storeAcross ((rangeGrains a l.length).foldl (fun s g => observe s g 4) s) a l
  | _, .held => s

def Bar2Access.addr : Bar2Access → Nat
  | .read a _ => a
  | .write a _ => a
def Bar2Access.len : Bar2Access → Nat
  | .read _ n => n
  | .write _ l => l.length
def Bar2Access.writes : Bar2Access → Bool
  | .read _ _ => false
  | .write _ _ => true

def Bar2Access.meet (s : State) (x : Bar2Access) : Bar2Meet := bar2Meet s x.addr x.len x.writes

/-- BAR2 accesses that wait. -/
def HostItem.access? : HostItem → Option Bar2Access
  | .access x => some x
  | _ => none

end Sys2Proof.Machine
end

