-- ==== Sys2Proof/Machine/Sector.lean ====
section
/-! DEFINITION. The Reed–Solomon code of a near-memory sector (R481): RS(67, 64) over GF(2^8) with field polynomial
x^8 + x^4 + x^3 + x^2 + 1 and generator roots α^0, α^1, α^2. -/

namespace Sys2Proof.Machine

/-- Multiplication by α. -/
def gfAlpha (a : Byte) : Byte := if a.getLsbD 7 then (a <<< 1) ^^^ 0x1D else a <<< 1

/-- Multiplication by α^n. -/
def gfAlphas (n : Nat) (a : Byte) : Byte := (List.range n).foldl (fun a _ => gfAlpha a) a

/-- The product of two field elements. -/
def gfMul (a b : Byte) : Byte := (List.range 8).foldl (fun p i => if b.getLsbD i then p ^^^ gfAlphas i a else p) 0

/-- The check symbols of a sector's bytes: the remainder by (x + 1)(x + α)(x + α²) = x³ + 7x² + 14x + 8. -/
def rsCheck (data : List Byte) : Byte × Byte × Byte :=
  data.foldl (fun r b =>
    let f := b ^^^ r.1
    (r.2.1 ^^^ gfMul f 7, r.2.2 ^^^ gfMul f 14, gfMul f 8)) (0, 0, 0)

/-- The 67 symbols of a sector: its bytes in address order, then the check symbols. -/
def rsWord (data : List Byte) : List Byte :=
  let r := rsCheck data
  data ++ [r.1, r.2.1, r.2.2]

/-- The word's value at α^j; symbol i stands at power 66 − i (DESIGN CHOICE, log entry 115). -/
def rsSyndrome (word : List Byte) (j : Nat) : Byte := word.foldl (fun a b => gfAlphas j a ^^^ b) 0

/-- What a read of a sector delivers. -/
inductive SectorRead where
  | clean
  /-- The symbol at a position is corrected. -/
  | corrected (pos : Nat) (data : List Byte)
  | uncorrectable
  deriving DecidableEq, Repr

/-- Decodes the 67 symbols read: a word one symbol away from a code word is corrected to it. -/
def rsDecode (word : List Byte) : SectorRead :=
  let s0 := rsSyndrome word 0
  let s1 := rsSyndrome word 1
  let s2 := rsSyndrome word 2
  if s0 = 0 ∧ s1 = 0 ∧ s2 = 0 then .clean
  else match (List.range 67).find? (fun i => s0 != 0 && s1 == gfAlphas (66 - i) s0 && s2 == gfAlphas (66 - i) s1) with
    | some i => .corrected i ((word.modify i (· ^^^ s0)).take 64)
    | none => .uncorrectable

/-- Errors in the symbols of a word: what each position's symbol is changed by. -/
def flipSymbols (word : List Byte) (errors : List (Fin 67 × BitVec 8)) : List Byte :=
  errors.foldl (fun w e => w.modify e.1.val (· ^^^ e.2)) word

end Sys2Proof.Machine
end

