-- ==== Sys2Proof/Machine/Maltster.lean ====
section
/-! DEFINITION. The placement engine's events (ch. 7): backing, promotion, eviction, moves, errors and rebuilds. -/

namespace Sys2Proof.Machine

/-- Number of a grain as an operand. -/
abbrev GrainNo := BitVec 28

/-! Backing. -/

/-- `BACKING_COMPLETE` (Table 7.5, R199): a zeroed near frame; else, with no victim, a zeroed far frame; else the grain
goes on waiting and the exhaustion is reported. -/
def backingCompleted (g : GrainNo) (s : State) : State :=
  let g := g.toNat
  let x := s.grain g
  if x.st ≠ 1 then s
  else
    match nearAlloc s g with
    | some (k, f) =>
      ((takeNear s (k, f)).setGrain g { x with st := 2, stack := Fin.ofNat 32 k, nearFrame := BitVec.ofNat 20 f })
    | none =>
      if !(victims s).isEmpty then s
      else
        let r := giveFar s g
        if r.2 then (r.1.setGrain g { (r.1.grain g) with st := 4 }) else (memExhausted s)

/-! Promotion (R197). -/

/-- The pending promotion to start, by the order of R197 and R205; of equals the one marked first. -/
def nextPend (s : State) : Option Pend :=
  s.tiers.pend.foldl (fun b p =>
    match b with
    | none => some p
    | some q => if p.before q then some p else some q) none

/-- Pending promotions of grains that are not FAR have nothing to start: their marks go. -/
def dropMet (s : State) : State :=
  let met := fun (p : Pend) => (s.grain p.grain).st != 4
  let t := (s.tiers.pend.filter met).foldl (fun s p => s.setGrain p.grain { s.grain p.grain with pending := false }) s
  { t with tiers := { t.tiers with pend := t.tiers.pend.filter (fun p => !met p) } }

/-- One FAR grain becomes PROMOTING toward a near frame. -/
def promoteOne (s : State) (g : Nat) : State :=
  let x := s.grain g
  match nearAlloc s g with
  | some (k, f) =>
    let s := unpend ((takeNear s (k, f)).setGrain g
      { x with st := 5, pending := false, target := some (Fin.ofNat 32 k, BitVec.ofNat 20 f) }) g
    count s 0x0300
  | none => s

/-- `PROMOTION_START` (R197, R204): the first pending promotion starts, with the pending grains of its page, once
free near frames exist for them. -/
def execPromotionStart (s : State) : Outcome :=
  let s := dropMet s
  match nextPend s with
  | none => .next s
  | some p =>
    let l := (grainGroup s p.grain).filter (fun h => (s.grain h).st = 4 && (s.grain h).pending)
    if l.length ≤ nearFreeAll s then .next (l.foldl promoteOne s) else .next s

/-- `PROMOTION_COMPLETE` (Table 7.5). -/
def promotionCompleted (g : GrainNo) (s : State) : State :=
  let g := g.toNat
  let x := s.grain g
  match x.target with
  | some (k, f) =>
    if x.st = 5 then (afterCopy (s.setGrain g { x with st := 3, stack := k, nearFrame := f, target := none }) g)
    else s
  | none => s

/-! Eviction (R198, R204, R206). -/

/-- `EVICTION_SCAN`: eviction begins below 131,072 free frames and goes on until 262,144 are free; victims are chosen,
requests that come late are met, and each eviction is applied or refused (R206). -/
def execEvictionScan (late : List GrainNo) (s : State) : Outcome :=
  let free := nearFreeAll s
  let on := decide (free < 131072) || (s.tiers.evicting && decide (free < 262144))
  let s := { s with tiers := { s.tiers with evicting := on } }
  if on then
    let vs := victims s
    .next (evictAll vs (late.foldl (fun s g => lateRequest (vs.flatMap (·.grains)) s g.toNat) s))
  else .next s

/-- `EVICTION_COMPLETE` (Table 7.5): the copy to far is complete and the near frame free; a grain whose far frame failed
meanwhile needs another one first (R190, log entry 108). -/
def execEvictionComplete (g : GrainNo) (s : State) : Outcome :=
  let g := g.toNat
  let x := s.grain g
  if x.st = 6 then
    let r := giveFarAll s g
    if !r.2 then .next s
    else
      let s := freeNear r.1 (x.stack.val, x.nearFrame.toNat)
      .next (afterCopy (count (s.setGrain g { s.grain g with st := 4 }) 0x0400) g)
  else .next s

/-! Moves (R200). -/

/-- The die from which at least 90 % of a grain's accesses of this window came. -/
def leader (s : State) (g : Nat) : Option (Fin 5) :=
  let n := fun d => tabGet 0 s.tiers.seen (g * 8 + d)
  let all := n 0 + n 1 + n 2 + n 3
  if all = 0 then none
  else
    ([0, 1, 2, 3] : List (Fin 5)).find? (fun d => decide (9 * all ≤ 10 * n d.val))

/-- Moves a grain to a stack of die d (R195), if a frame is free. -/
def moveGrain (s : State) (g : Nat) (k0 : Nat) : State × Bool :=
  let x := s.grain g
  match nearAllocFrom s k0 with
  | some (k, f) =>
    (count ((takeNear s (k, f)).setGrain g
      { x with st := 7, before := x.st, target := some (Fin.ofNat 32 k, BitVec.ofNat 20 f) }) 0x0700, true)
  | none => (s, false)

/-- One grain at the end of a window: its leader's run of windows, and its move after four. -/
def windowGrain (p : State × (Nat → Nat)) (g : Nat) : State × (Nat → Nat) :=
  let s := p.1
  let x := s.grain g
  let old := tabGet 0 s.tiers.lead g
  let new :=
    match leader s g with
    | some d => if old % 8 = d.val then d.val + 8 * (old / 8 + 1) else d.val + 8
    | none => 0
  let s := { s with tiers := { s.tiers with lead := tabPut 0 s.tiers.lead g new } }
  let d := new % 8
  if (x.st = 2 ∨ x.st = 3) ∧ x.cacheable = false ∧ inKvArena g = false ∧ 4 ≤ new / 8 ∧ x.stack.val / 6 ≠ d ∧ p.2 d < 1024 then
    let r := moveGrain s g (dieStack s d)
    if r.2 then (r.1, fun i => if i = d then p.2 d + 1 else p.2 i) else (s, p.2)
  else (s, p.2)

/-- `MOVE_WINDOW` (R200): the end of a 1 ms window. -/
def execMoveWindow (s : State) : Outcome :=
  let a : List Nat := s.tiers.seen.map (fun e => e.1 / 8)
  let b : List Nat := s.tiers.lead.map (fun e => e.1)
  let gs := (a ++ b).eraseDups
  let s := ((sortBy (fun a b => decide (a ≤ b)) gs).foldl windowGrain (s, fun _ => 0)).1
  .next { s with tiers := { s.tiers with seen := [] } }

/-- `MOVE_COMPLETE` (Table 7.5): back to the state before the move, in the new frame. -/
def moveCompleted (g : GrainNo) (s : State) : State :=
  let g := g.toNat
  let x := s.grain g
  match x.target with
  | some (k, f) =>
    if x.st = 7 then
      let s := if x.retire then count s 0x1C00 else freeNear s (x.stack.val, x.nearFrame.toNat)
      (afterCopy (s.setGrain g { x with st := x.before, stack := k, nearFrame := f, target := none, retire := false }) g)
    else s
  | none => s

/-! Errors and rebuilds (R208 to R211). -/

/-- The means that a declared source offers (Table 7.10); 0 for none. -/
def sourceMeans (s : State) (x : Grain) : Fin 8 :=
  if !x.restorable then 0
  else if inGrains x.source.toNat then 4
  else if s.trusted then 5 else 0

/-- Requests that wait on a grain: halted transfers, small transfers, waiters of Tun fills, BAR2 accesses, and the AE
contexts, collective instances, ring movers and hub writes that it holds. -/
def heldOn (s : State) (g : Nat) : Nat :=
  let at' := fun (a : Option Nat) => a.any (fun a => grainOf a == g)
  let smt := s.streams.smts.filter (fun m => m.fills.isEmpty && grainOf m.dev == g)
  let bar := (s.host.held.filterMap (·.access?)).filter (fun b => decide (grainOf b.addr = g))
  let halted := allQueues.filter (fun q => (s.queue q).active.any (fun x => at' (x.haltAt.map (·.1))))
  let fills := (s.streams.fills.filter (fun f => f.line.toNat / 64 == g)).map (·.waiters)
  smt.length + bar.length + halted.length + fills.sum + (s.aeCtxs.filter (fun e => at' e.2.heldAt)).length +
    (s.colls.active.filter (fun i => at' i.heldAt)).length +
    (s.rings.binds.filter (fun e => e.2.pass.any (fun p => at' p.heldAt))).length +
    (s.tiers.hub.filter (fun w => grainOf w.addr == g)).length

/-- The grain becomes POISONED (R210). -/
def poisonGrain (s : State) (g : Nat) : State :=
  let x := s.grain g
  let n := heldOn s g
  let s := match x.target with
    | some (k, f) => freeNear s (k.val, f.toNat)
    | none => s
  let s := unpend (dropTunGrain (s.setGrain g { x with st := 9, target := none, means := 0, pending := false }) g) g
  emit s { type := 0x2002, severity := 3, scope := 4, items := [(64, g), (16, x.domain.toNat), (32, n)] }

/-- Starts a rebuild by the first available means, or poisons the grain.  `near` asks for a new near frame.  The copy that
was under way has ended: a release that waited for it takes effect. -/
def startRebuild (s : State) (g : Nat) (means : Fin 8) (near : Bool) : State :=
  let x := s.grain g
  if x.releasing then releaseNow s g
  else if means = 0 then poisonGrain s g
  else
    let s := dropTunGrain (unpend s g) g
    let x := { x with st := 8, before := if near then 3 else 4, means := means, pending := false, target := none, retire := false }
    let s := s.setGrain g x
    let s := if near then
        match nearAlloc s g with
        | some (k, f) => (takeNear s (k, f)).setGrain g { x with target := some (Fin.ofNat 32 k, BitVec.ofNat 20 f) }
        | none => s
      else s
    count s 0x0800

/-- Frees a copy's target frame, if any. -/
def dropTarget (s : State) (g : Nat) : State :=
  let x := s.grain g
  match x.target with
  | some (k, f) => (freeNear s (k.val, f.toNat)).setGrain g { x with target := none }
  | none => s

/-- Far copies of a grain that are valid and on a port in service. -/
def farMeans (s : State) (x : Grain) : Fin 8 :=
  if x.farHeld && (s.cxl x.farPort.val).inService then 1
  else if x.mirrorHeld && (s.cxl (otherPort x.farPort).val).inService then 2 else 0

/-- The near frame of a grain fails and is retired (R208, first rows of Table 7.9). -/
def nearFails (s : State) (g : Nat) : State :=
  let s := count (dropTarget s g) 0x1C00
  let x := s.grain g
  if x.st = 3 then
    let m := farMeans s x
    startRebuild s g (if m = 0 then sourceMeans s x else m) true
  else startRebuild s g (sourceMeans s x) true

/-- A far copy of a grain is lost: the twin, if there is one, becomes the primary copy. -/
def loseFar (x : Grain) (primary : Bool) : Grain :=
  if primary then
    if x.mirrorHeld then
      { x with farPort := otherPort x.farPort, farFrame := x.mirrorFrame, mirrorHeld := false, mirrorFrame := 0, degraded := true }
    else { x with farHeld := false, farFrame := 0 }
  else { x with mirrorHeld := false, mirrorFrame := 0, degraded := true }

/-- Code of the far copy that remains when the primary or the mirror frame fails (Table 7.10). -/
def remainingMeans (primary : Bool) : Fin 8 := if primary then 2 else 1

/-- A far frame of a grain whose near frame is intact fails (last two rows of Table 7.9): no request is held.  A mirrored
NEAR_CLEAN grain gets its copy again from the twin or the near frame; any other NEAR_CLEAN grain becomes NEAR.  A grain
that is being evicted takes another far frame (log entry 108). -/
def farFailsNear (s : State) (g : Nat) (primary : Bool) : State :=
  let x := s.grain g
  let twin := x.farHeld && x.mirrorHeld
  let y := loseFar x primary
  if x.st = 6 then (giveFarAll (s.setGrain g y) g).1
  else
    let clean := x.st == 3 || (x.st == 7 && x.before == 3)
    let dirty := fun (z : Grain) => if z.st = 7 then { z with before := 2 } else { z with st := 2 }
    if clean && x.mirrored then
      let s := s.setGrain g { y with means := if x.st = 7 then 0 else if twin then remainingMeans primary else 3 }
      let r := if twin then giveMirror s g else giveFarAll s g
      if twin || r.2 then r.1 else s.setGrain g { dirty (s.grain g) with means := 0 }
    else s.setGrain g (if clean then dirty y else y)

/-- A far frame of a grain fails (R208). -/
def farFails (s : State) (g : Nat) (primary : Bool) : State :=
  let s := count s 0x1D00
  let x := s.grain g
  let twin := x.farHeld && x.mirrorHeld
  if x.st = 2 ∨ x.st = 3 ∨ x.st = 6 ∨ x.st = 7 then farFailsNear s g primary
  else if x.st = 4 ∨ x.st = 5 then
    let near := x.st = 5 && twin
    let s := dropTarget (s.setGrain g (loseFar x primary)) g
    startRebuild s g (if twin then remainingMeans primary else sourceMeans s x) near
  else s

/-- Which rebuild an error calls for is known before it starts: the status of `EV_MEM_ERROR` (R483). -/
def errorStatus (s : State) (x : Grain) (copy : Fin 3) : Nat :=
  let ok :=
    if copy.val = 0 then decide (sourceMeans s x ≠ 0) || (x.st == 3 && decide (farMeans s x ≠ 0))
    else if x.st = 4 ∨ x.st = 5 then (x.farHeld && x.mirrorHeld) || decide (sourceMeans s x ≠ 0)
    else true
  if ok then stOk else stPoisoned

def memErrorEv (g syn status : Nat) : Ev :=
  { type := 0x6002, status := status, severity := if status = stOk then 2 else 3, scope := 4, items := [(64, syn), (64, g)] }

/-- The grain has the copy that fails. -/
def hasCopy (x : Grain) (copy : Fin 3) : Bool :=
  match copy.val with
  | 0 => x.st == 2 || x.st == 3 || x.st == 6 || x.st == 7
  | 1 => x.farHeld && x.st != 8 && x.st != 9
  | _ => x.mirrorHeld && x.st != 8 && x.st != 9

/-- An uncorrectable error of a copy: the frame is retired and the grain rebuilt or poisoned. -/
def copyFails (s : State) (g : Nat) (copy : Fin 3) : State :=
  if hasCopy (s.grain g) copy then if copy.val = 0 then nearFails s g else farFails s g (copy.val = 1) else s

/-- `EV_MEM_CORRECTED` of a stack, at most once per 1 ms (R482): k corrections, the latest on a channel at a symbol. -/
def reportCorrections (s : State) (stack k channel symbol : Nat) : State :=
  let s := countN s (0x3000 + stack) k
  let n := tabGet 0 s.tiers.corrections stack + k
  let now := s.time.now.toNat
  let last := tabGet 0 s.tiers.correctedAt stack
  if n ≠ 0 ∧ (last = 0 ∨ last + 1000000 ≤ now + 1) then
    let syn := syndrome 5 1 0 (packBits [(8, 0), (8, symbol), (8, channel), (8, stack)])
    let s := { s with tiers := { s.tiers with corrections := tabPut 0 s.tiers.corrections stack 0, correctedAt := tabPut 0 s.tiers.correctedAt stack (now + 1) } }
    emit s { type := 0x6001, severity := 1, scope := 5, items := [(8, stack), (32, n), (64, syn)] }
  else { s with tiers := { s.tiers with corrections := tabPut 0 s.tiers.corrections stack n } }

/-- Device address of a grain's sector, and what a read of it delivers with errors in its symbols.  Its check symbols are
those of its bytes, because every write writes them (R484; log entry 115). -/
def sectorAddr (g : Nat) (e : CopyError) : Nat := g * 65536 + 64 * e.sector.val
def readSector (s : State) (g : Nat) (e : CopyError) : SectorRead :=
  rsDecode (flipSymbols (rsWord (s.devRead (sectorAddr g e) 64)) e.errors)

/-- `UNCORRECTABLE_ERROR` (R208, R481 to R483): a near sector is read with errors in its symbols.  What the code corrects is
delivered and written back, three or more errors perhaps wrongly; an uncorrectable error is counted and reported and the grain
handed to Maltster. -/
def uncorrectable (g : GrainNo) (e : CopyError) (s : State) : State :=
  let g := g.toNat
  let x := s.grain g
  if !hasCopy x e.copy then s
  else
    let st := errorStatus s x e.copy
    if e.copy.val = 0 then
      let channel := channelOf (64 * e.sector.val)
      match readSector s g e with
      | .clean => s
      | .corrected pos data => reportCorrections (s.devPoke (sectorAddr g e) data) x.stack.val 1 channel pos
      | .uncorrectable =>
        let s := count s (0x3100 + x.stack.val)
        let syn := syndrome 5 2 st (packBits [(8, 0), (8, 0xFF), (8, channel), (8, x.stack.val)])
        (copyFails (emit s (memErrorEv g syn st)) g e.copy)
    else
      let p := if e.copy.val = 1 then x.farPort else otherPort x.farPort
      let s := count s (0x3400 + p.val)
      (copyFails (emit s (memErrorEv g (syndrome 6 1 st p.val) st)) g e.copy)

/-- Host address of an aperture address (R387). -/
def apertureHost (s : State) (a : Nat) : Nat := s.host.aperture.toNat + (a - 0x100000000000)

/-- The bytes that a rebuild brings: those of the module's own copy, or of the declared source. -/
def rebuiltBytes (s : State) (g : Nat) (x : Grain) : Option (List Byte) :=
  if x.means = 4 then some (s.devRead x.source.toNat 65536)
  else if x.means = 5 then some (s.hostRead (apertureHost s x.source.toNat) 65536)
  else if x.means = 0 then none
  else some (s.devRead (g * 65536) 65536)

/-- The event of a rebuilt grain (R210). -/
def restoredEv (g : Nat) (x : Grain) (ns : Nat) : Ev :=
  { type := if x.cacheable || x.domain == 0x3FF then 0x2003 else 0x2004, severity := 2, scope := 4,
    items := [(64, g), (8, x.means.val), (32, ns)] }

/-- The rebuilt grain in its state of Table 7.9; it stays RESTORING while a frame that this state needs is not to be had
(log entry 108). -/
def rebuild (s : State) (g : Nat) (x : Grain) (l : List Byte) (ns : Nat) : State :=
  let old := s
  let s := { s with dev := memWrite (memZero s.dev (g * 65536) 65536) (g * 65536) l }
  if x.before = 3 then
    let fresh := if x.target.isSome then none else nearAlloc s g
    match x.target.orElse (fun _ => fresh.map (fun t => (Fin.ofNat 32 t.1, BitVec.ofNat 20 t.2))) with
    | none => old
    | some t =>
      let s := match fresh with
        | some p => takeNear s p
        | none => s
      let r := giveFarAll (s.setGrain g { x with st := 3, stack := t.1, nearFrame := t.2, target := none, means := 0 }) g
      if r.2 then afterCopy (emit r.1 (restoredEv g x ns)) g else old
  else
    let r := giveFarAll (s.setGrain g { x with st := 4, means := 0 }) g
    if r.2 then afterCopy (emit r.1 (restoredEv g x ns)) g else old

/-- A copy of a mirrored NEAR_CLEAN grain's lost far frame ends: from the twin, and if that fails from the near frame
(Table 7.9). -/
def recopied (s : State) (g : Nat) (x : Grain) (r : RestoreResult) : State :=
  if r.ok then emit (s.setGrain g { x with means := 0 }) (restoredEv g x r.ns.toNat)
  else if x.means = 3 then s.setGrain g { x with means := 0, degraded := true }
  else s.setGrain g { x with means := 3 }

/-- `RESTORE_COMPLETE` (R209, R210). -/
def restoreCompleted (g : GrainNo) (r : RestoreResult) (s : State) : State :=
  let g := g.toNat
  let x := s.grain g
  if x.st = 8 then
    if !r.ok then (afterCopy (poisonGrain s g) g)
    else match rebuiltBytes s g x with
      | none => (afterCopy (poisonGrain s g) g)
      | some l => (rebuild s g x l r.ns.toNat)
  else if x.st = 3 ∧ x.means ≠ 0 then recopied s g x r
  else s

/-- `RESTORE_TIMEOUT` (R209). -/
def restoreTimedOut (g : GrainNo) (s : State) : State :=
  let g := g.toNat
  if (s.grain g).st = 8 then (afterCopy (poisonGrain s g) g) else s

/-- `CHANNEL_CRC_FAIL` (R485): up to four retries, counted; then an uncorrectable error of the frame.  A write's burst, its
sector and bytes, is then held and proceeds into the rebuilt grain. -/
def channelFails (stack : Fin 24) (channel : Fin 4) (g : BitVec 28) (write : Option (Fin 1024 × List Byte)) (failures : Fin 6) (s : State) :
    State :=
  let n := min failures.val 4
  let s := countN s (0x3200 + stack.val) n
  if failures.val ≤ 4 then s
  else
    let s := count s (0x3300 + stack.val)
    let g := g.toNat
    let x := s.grain g
    if hasCopy x 0 && x.stack.val == stack.val then
      let st := errorStatus s x 0
      let syn := syndrome 5 (if write.isSome then 4 else 3) st
        (packBits [(8, n), (8, 0xFF), (8, channel.val), (8, stack.val)])
      let s := if write.isSome then s else count s (0x3100 + stack.val)
      let s := copyFails (emit s (memErrorEv g syn st)) g 0
      match write with
      | some (k, l) => holdHub s { addr := g * 65536 + 64 * k.val, bytes := l }
      | none => s
    else s

/-- `STACK_UNRESPONSIVE` (R485): the stack goes out of service and every grain with a frame on it is treated as an
uncorrectable error of that frame, in grain order. The syndrome's status and channel are free values (log entry 98). -/
def stackFails (stack : Fin 24) (s : State) : State :=
  if stackUp s stack.val then
    let s := { s with tiers := { s.tiers with stacksUp := s.tiers.stacksUp &&& ~~~(1#24 <<< stack.val) } }
    let gs := (s.tiers.dir.filter (fun e => hasCopy e.2 0 && e.2.stack.val == stack.val)).map (·.1)
    let v := s.freeVal
    let syn := syndrome 5 5 (v % 256) (packBits [(8, 0), (8, 0xFF), (8, v / 256 % 4), (8, stack.val)])
    let s := emit s.bump { type := 0x6003, severity := 4, scope := 5, items := [(64, syn), (32, gs.length)] }
    (gs.foldl nearFails s)
  else s

/-- A grain with a frame on a port that goes out of service (R211): a mirrored grain keeps its twin, a clean one becomes
NEAR, a FAR one is rebuilt.  A grain that is being evicted takes another frame; one that is being rebuilt from the lost
frame is rebuilt by the next means (Table 7.9). -/
def portLost (s : State) (p : Fin 2) (g : Nat) : State :=
  let x := s.grain g
  let primary := x.farPort == p
  let twin := x.farHeld && x.mirrorHeld
  let y := loseFar x primary
  if x.st = 8 then
    let lost := (x.means == 1 || x.means == 2) && (!twin || x.means == (if primary then 1 else 2))
    let s := s.setGrain g y
    if !lost then s
    else
      let m := if twin then remainingMeans primary else sourceMeans s x
      if m = 0 then afterCopy (poisonGrain s g) g else s.setGrain g { (s.grain g) with means := m }
  else if twin then s.setGrain g y
  else if x.st = 4 ∨ x.st = 5 then
    let s := dropTarget (s.setGrain g y) g
    startRebuild s g (sourceMeans s x) false
  else if x.st = 6 then (giveFarAll (s.setGrain g y) g).1
  else s.setGrain g (if x.st = 3 then { y with st := 2 } else if x.st = 7 then { y with before := 2 } else y)

/-- A CXL port goes out of service (R211); the status in the syndrome is a free value (log entry 98). -/
def portOut (s : State) (p : Fin 2) (cause : Nat) : State :=
  if !(s.cxl p.val).inService then s
  else
    let s := s.setCxl p.val { (s.cxl p.val) with inService := false, width := 0 }
    let on := s.tiers.dir.filter (fun e => e.2.st != 9 &&
      ((e.2.farHeld && e.2.farPort == p) || (e.2.mirrorHeld && otherPort e.2.farPort == p)))
    let twins := on.filter (fun e => e.2.farHeld && e.2.mirrorHeld)
    let build := on.filter (fun e => !(e.2.farHeld && e.2.mirrorHeld) && (e.2.st == 4 || e.2.st == 5))
    let s := emit s.bump { type := 0x6004, severity := 4, scope := 5, items := [(64, syndrome 6 cause (s.freeVal % 256) p.val), (32, twins.length), (32, build.length)] }
    on.foldl (fun s e => portLost s p e.1) s

/-- `CXL_REQUEST_TIMEOUT` (R486): two in a row take the port out of service; otherwise the request goes to the twin, or
is an uncorrectable error of the grain. -/
def cxlTimesOut (port : Fin 2) (g : BitVec 28) (s : State) : State :=
  let p := s.cxl port.val
  if !p.inService then s
  else
    let s := count s (0x3400 + port.val)
    let s := s.setCxl port.val { p with timeouts := p.timeouts + 1 }
    if 1 ≤ p.timeouts then (portOut s port 2)
    else
      let g := g.toNat
      let x := s.grain g
      if (x.st = 4 ∨ x.st = 5) ∧ x.farHeld ∧ x.mirrorHeld = false ∧ x.farPort = port then
        let st := errorStatus s x 1
        (copyFails (emit s (memErrorEv g (syndrome 6 2 st port.val) st)) g 1)
      else s

/-- `PREFETCH_HORIZON_REACHED` (R205): the page will be read when one horizon has passed.  Until that read it is no victim;
its FAR grains are marked pending for it, and an eviction of it that is under way is cancelled (Table 7.8). -/
def execPrefetchHorizonReached (h : BitVec 17) (layer : BitVec 8) (page : Nat) (s : State) : Outcome :=
  let e := tabGet {} s.seqs.table h.toNat
  let l := layer.toNat - e.layerFirst.toNat
  if e.st = 1 ∧ e.layerFirst ≤ layer ∧ l < e.layerCount.toNat ∧ page < cdiv (e.length - e.base) 128 then
    let list := leNat (s.hubRead (e.versionAddr.toNat + 64 + 8 * l) 6)
    let entry := leNat (s.hubRead (list + 8 * page) 8)
    let p := pageOf (grainOf (bits entry 47 0))
    if bitAt entry 63 then
      let at' := s.time.now.toNat + s.tiers.horizonNs
      let s := { s with tiers := { s.tiers with near := s.tiers.near ++ [(p, at')] } }
      .next ((grainGroup s (pageGrain p)).foldl (fun s g =>
        if (s.grain g).st = 0 then s
        else requestPend s { cls := 1, grain := g, need := at', layer := layer.toNat, place := page } 0x3FF 4) s)
    else .next s
  else .next s

end Sys2Proof.Machine
end

