-- ==== Sys2Proof/Machine/Geometry.lean ====
section
/-! DEFINITION. The geometry of a stream transfer (ch. 6): where each unit of it lies at the source and at the destination,
the runs that its requests carry, and the grains that it will read. -/

namespace Sys2Proof.Machine

/-! Geometry of a transfer (R152 to R155). -/

/-- FP4 at either end: the unit of a transfer is a block of 32 elements. -/
def sdBlocks (d : Nat) : Bool := sdFmtSrc d == 6 || sdFmtDst d == 6

/-- Units along the innermost dimension, and in all. -/
def sdUnits0 (d : Nat) : Nat := if sdBlocks d then sdCount d 0 / 32 else sdCount d 0
def sdIsRemote (d : Nat) : Bool := sdKindDst d == 2
def sdCountHi (d j : Nat) : Nat := if sdIsRemote d && decide (3 ≤ j) then 1 else sdCount d j
def sdUnits (d : Nat) : Nat := sdUnits0 d * sdCountHi d 1 * sdCountHi d 2 * sdCountHi d 3 * sdCountHi d 4

/-- The indices (i0 in units, i1 to i4) of unit u. -/
def sdIndex (d u : Nat) : Nat × Nat × Nat × Nat × Nat :=
  let n0 := sdUnits0 d
  let n1 := sdCountHi d 1
  let n2 := sdCountHi d 2
  let n3 := sdCountHi d 3
  let u1 := u / n0
  let u2 := u1 / n1
  let u3 := u2 / n2
  (u % n0, u1 % n1, u2 % n2, u3 % n3, u3 / n3)

/-- Bytes of one unit in a format; the scale byte of an FP4 block is apart. -/
def unitBytes (d fmt : Nat) : Nat := if fmt = 6 then 16 else fmtSize fmt * (if sdBlocks d then 32 else 1)

def xBaseSrc (d : Nat) (x : Xfer) : Nat := (sdSrc d + x.aSrc.toNat) % 2 ^ 64
def xBaseDst (d : Nat) (x : Xfer) : Nat := (sdDst d + x.aDst.toNat) % 2 ^ 64

/-- A sum of an address modulo 2^64 (R117). -/
def wrap64 (v : Int) : Nat := (v % 2 ^ 64).toNat

/-- The operand layout of R120 in tile SRAM: group, row. -/
def fp4Tile (base u : Nat) (d : Nat) : Nat :=
  let i := sdIndex d u
  let g := i.2.2.1 + sdCountHi d 2 * (i.2.2.2.1 + sdCountHi d 3 * i.2.2.2.2)
  base + g * 2176 + i.2.1 * 16

/-- Address of unit u at the source. -/
def xSrc (d : Nat) (x : Xfer) (u : Nat) : Nat :=
  let b := xBaseSrc d x
  if sdFmtSrc d = 6 ∧ sdKindSrc d = 1 then fp4Tile b u d
  else
    let i := sdIndex d u
    wrap64 (b + i.1 * unitBytes d (sdFmtSrc d) + i.2.1 * sdSrcStride d 1 + i.2.2.1 * sdSrcStride d 2 +
      i.2.2.2.1 * sdSrcStride d 3 + i.2.2.2.2 * sdSrcStride d 4)

/-- Address of unit u at the destination. -/
def xDst (d : Nat) (x : Xfer) (u : Nat) : Nat :=
  let b := xBaseDst d x
  if sdFmtDst d = 6 ∧ sdKindDst d = 1 then fp4Tile b u d
  else
    let i := sdIndex d u
    wrap64 (b + i.1 * unitBytes d (sdFmtDst d) + i.2.1 * sdDstStride d 1 + i.2.2.1 * sdDstStride d 2 +
      i.2.2.2.1 * sdDstStride d 3 + i.2.2.2.2 * sdDstStride d 4)

/-- Address of the scale byte of the FP4 block at address a (R154, R155). -/
def scaleAddr (d base a : Nat) (tile : Bool) : Nat :=
  if tile then
    let g := (a - base) / 2176
    base + g * 2176 + 2048 + (a - base - g * 2176) / 16
  else wrap64 (base + sdScaleOff d + ((a : Int) - base) / 16)

/-- Units that one request carries from unit u: along i0, at most 256 bytes at either end, crossing no 256-byte
boundary of either (R149); a single unit that crosses one goes as several requests (`runSlots`). -/
def runLength (d : Nat) (x : Xfer) (u : Nat) : Nat :=
  let left := sdUnits0 d - u % sdUnits0 d
  let fit := fun (a n : Nat) => (256 - a % 256) / n
  max 1 (min left (min (fit (xSrc d x u) (unitBytes d (sdFmtSrc d))) (fit (xDst d x u) (unitBytes d (sdFmtDst d)))))


/-- [a, a + n) cut at its 256-byte boundaries: address and length of each piece. -/
def pieces256 (a n : Nat) : List (Nat × Nat) :=
  if n = 0 then []
  else (List.range ((a + n - 1) / 256 + 1 - a / 256)).map (fun i =>
    let lo := max a ((a / 256 + i) * 256)
    (lo, min (a + n) ((a / 256 + i + 1) * 256) - lo))

/-- Request slots of a run of n units from unit u: one, and one more for each 256-byte boundary that the run, then a
single unit, crosses at its source or destination; equal formats cut both at the same byte once (log entry 109). -/
def runSlots (d : Nat) (x : Xfer) (u n : Nat) : Nat :=
  let cut := fun (a len : Nat) => if 256 < a % 256 + len then [256 - a % 256] else []
  let cs := cut (xSrc d x u) (n * unitBytes d (sdFmtSrc d))
  let cd := cut (xDst d x u) (n * unitBytes d (sdFmtDst d))
  1 + (if sdFmtSrc d = sdFmtDst d then (cs ++ cd).eraseDups else cs ++ cd).length

/-- The scale bytes of n FP4 blocks from address a lie one after another: the first one's address. -/
def runScale (d base a : Nat) : Nat := scaleAddr d base a false

/-- The grains that a transfer reads from its position on: for every row of i0 its bytes, and their scale bytes. -/
def xferGrains (d : Nat) (x : Xfer) : List Nat :=
  if sdKindSrc d = 1 then []
  else
    let n0 := sdUnits0 d
    ((List.range (sdUnits d / n0 - x.pos / n0)).flatMap (fun i =>
      let u := max x.pos ((x.pos / n0 + i) * n0)
      let n := n0 - u % n0
      let a := xSrc d x u
      rangeGrains a (n * unitBytes d (sdFmtSrc d)) ++
        (if sdFmtSrc d = 6 then rangeGrains (runScale d (xBaseSrc d x) a) n else []))).eraseDups.filter (fun g => decide (g < 2 ^ 28))

end Sys2Proof.Machine
end

