-- ==== Sys2Proof/Machine/TileCtx.lean ====
section
/-! DEFINITION. The tile sequencer (ch. 3): register access, selection and switching of contexts, waits, faults, the
program counter, and the issue of an instruction. -/

namespace Sys2Proof.Machine

/-! Registers (Table 3.4): s0 reads 0 and ignores writes. -/

def Ctx.getS (x : Ctx) (i : Fin 32) : Word64 := if i.val = 0 then 0 else tabGet 0 x.sregs i.val
def Ctx.setS (x : Ctx) (i : Fin 32) (v : Word64) : Ctx :=
  if i.val = 0 then x else { x with sregs := tabPut 0 x.sregs i.val v }
def Ctx.getA (x : Ctx) (i : Fin 16) : Word64 := tabGet 0 x.aregs i.val
def Ctx.setA (x : Ctx) (i : Fin 16) (v : Word64) : Ctx := { x with aregs := tabPut 0 x.aregs i.val v }
def Ctx.getP (x : Ctx) (i : Fin 8) : Bool := x.preds.getLsbD i.val
def Ctx.setP (x : Ctx) (i : Fin 8) (b : Bool) : Ctx :=
  { x with preds := if b then x.preds ||| (1#8 <<< i.val) else x.preds &&& ~~~(1#8 <<< i.val) }
def Ctx.getX (x : Ctx) (i : Nat) : Word32 := tabGet 0 x.shapes i
def Ctx.getL (x : Ctx) (i : Nat) : Word32 := tabGet 0 x.loops i

/-! Which contexts of a tile are in which state. -/

def hasSt (s : State) (t : Fin 192) (st : CtxSt) : Option (Fin 4) := allCtx.find? (fun c => (s.ctx t c).st = st)

/-- Another context of the tile is READY. -/
def otherReady (s : State) (t : Fin 192) (c : Fin 4) : Bool := allCtx.any (fun d => d != c && (s.ctx t d).st == .ready)

/-- The READY context to select: highest priority, then the first after the one last selected (R69). -/
def pickReady (s : State) (t : Fin 192) : Option (Fin 4) :=
  let l := (s.tile t).lastSel
  let order := [l + 1, l + 2, l + 3, l]
  (order.filter (fun c => (s.ctx t c).st = .ready ∧ (s.ctx t c).pre = .none)).foldl (fun best c =>
    match best with
    | none => some c
    | some b => if (s.ctx t b).prio < (s.ctx t c).prio then some c else some b) none

/-- Selects a context: it runs at once when the tile holds its registers, else a switch begins (R71). -/
def selectCtx (s : State) (t : Fin 192) : State :=
  match pickReady s t with
  | none => s
  | some c =>
    if (s.tile t).loaded = some c then
      (s.modCtx t c (fun x => { x with st := .running })).modTile t (fun y => { y with lastSel := c })
    else s.modTile t (fun y => { y with lastSel := c, switching := some c })

/-! Fill marks (R177). -/

/-- Transfers of a queue. -/
def StQueue.xfers (q : StQueue) : List Xfer := q.active.toList ++ q.shadow.toList

/-- Queues that belong to a tile context. -/
def ownedQueues (s : State) (t : Fin 192) (c : Fin 4) : List (Fin 256) :=
  allQueues.filter (fun q => let r := s.queue q
    r.owner.isSome && r.ownerTile.toNat == t.val && r.ownerCtx.toNat == c.val)

/-- The release objects of the transfers in the tile's own queues. -/
def tileReleases (s : State) (t : Fin 192) : List Nat :=
  (allCtx.flatMap (ownedQueues s t)).flatMap (fun q => (s.queue q).xfers.filterMap (xferRelease s))

/-- The context whose queues get the mark: parked longest on a release object of the tile's queues, the lowest context
number of equals, while another context waits. -/
def fillChoice (s : State) (t : Fin 192) : Option (Fin 4) :=
  let rel := tileReleases s t
  let waits := fun c => let x := s.ctx t c
    x.st == .spinning || x.st == .parked
  let cand := allCtx.filter (fun c => let x := s.ctx t c
    x.st == .parked && (match x.wait with | some w => rel.contains w.obj | none => false) &&
      allCtx.any (fun d => d != c && waits d))
  cand.foldl (fun best c =>
    match best with
    | none => some c
    | some b => if (s.ctx t c).parked < (s.ctx t b).parked then some c else some b) none

/-- A marked context that has become neither READY nor left the tile's plan: it is still PARKED. -/
def keptMark (s : State) (t : Fin 192) : Option (Fin 4) :=
  allCtx.find? (fun c => (s.ctx t c).st == .parked && (ownedQueues s t c).any (fun q => (s.queue q).fillMark))

/-- Asks for the promotion of the grains that a context's queues will read (R177, R197). -/
def askFill (s : State) (t : Fin 192) (c : Fin 4) : State :=
  s.forAll (ownedQueues s t c) (fun s q =>
    s.forAll (s.queue q).xfers (fun s x =>
      s.forAll (xferGrains (streamDesc s x.slot x.desc.toNat) x) (fun s g =>
        requestPromotion s g (slotDomain s x.slot) 2 ((tileDie t).castLE (by omega)))))

/-- Sets and clears the tile's fill marks by R177, and keeps the order in which they were set. -/
def refreshMarks (s : State) (t : Fin 192) : State :=
  let keep := keptMark s t
  let pick := keep.orElse (fun _ => fillChoice s t)
  let s := s.forAll (allCtx.flatMap (ownedQueues s t)) (fun s q =>
    let r := s.queue q
    s.setQueue q { r with fillMark := pick.any (fun c => c.val == r.ownerCtx.toNat) })
  let old := s.streams.marks.filter (fun q => (s.queue q).fillMark)
  let new := allQueues.filter (fun q => (s.queue q).fillMark && !old.contains q)
  let s := { s with streams := { s.streams with marks := old ++ new } }
  match keep, pick with
  | none, some c => askFill s t c
  | _, _ => s

/-- No context of the tile issues or could, and no unit holds an instruction (Table 17.2). -/
def tileIdle (s : State) (t : Fin 192) : Bool :=
  let y := s.tile t
  allCtx.all (fun c => let st := (s.ctx t c).st
    st != .running && st != .spinning && st != .ready) && y.mxu.isEmpty && y.vxu.isEmpty && y.sfu.isEmpty

def idleTile (s : State) (t : Fin 192) : State :=
  idleUnit s t.val (tileIdle s t) (allCtx.any (fun c => let st := (s.ctx t c).st
    st == .ready || st == .running))

/-- Applies R69 and R70 after any change of a context's state: a spinning context past its limit parks when another is
READY, a READY context of higher priority pre-empts the running one, an idle sequencer selects. -/
def resched (s : State) (t : Fin 192) : State :=
  let s :=
    match hasSt s t .spinning with
    | some c =>
      if (s.ctx t c).spunOut && otherReady s t c then
        { s.modCtx t c (fun x => { x with st := .parked, parked := s.parks }) with parks := s.parks + 1 }
      else s
    | none => s
  let s :=
    if (s.tile t).switching.isSome || (hasSt s t .spinning).isSome then s
    else match hasSt s t .running with
      | some r =>
        match pickReady s t with
        | some c =>
          if (s.ctx t r).prio < (s.ctx t c).prio then
            selectCtx (s.modCtx t r (fun x => { x with st := .ready })) t
          else s
        | none => s
      | none => selectCtx s t
  idleTile (refreshMarks s t) t

/-! Walker slots (R266, R268). -/

/-- Empties a walker slot. -/
def leaveWalker (s : State) (k : Nat) : State :=
  { s with seqs := { s.seqs with walkers := tabPut {} s.seqs.walkers k {} } }

/-- Records the epoch in a walker slot. -/
def enterWalker (s : State) (k : Nat) : State :=
  { s with seqs := { s.seqs with walkers := tabPut {} s.seqs.walkers k { epoch := some s.seqs.epoch } } }

/-- The walker slot of an AE context. -/
def aeWalker (e : Fin 32) (c : Fin 4) : Nat := 768 + e.val * 4 + c.val

/-- The walker slot of a tile context. -/
def tileWalker (t : Fin 192) (c : Fin 4) : Nat := t.val * 4 + c.val

/-! Faults (R72). -/

/-- What a fault leaves of a wait: a fetch-and-add has been issued and completes (R72, R89); every other wait ends. -/
def keptWait : Option Wait → Option Wait
  | some ⟨o, .faa sd, r⟩ => some ⟨o, .faa sd, r⟩
  | _ => none

/-- The context becomes FAULTED and `EV_TILE_FAULT` is written; what it has issued completes. The syndrome's status is
the one a rule gives, or a free value where none does (log entry 98). -/
def faultCtx (s : State) (t : Fin 192) (c : Fin 4) (pc : Word32) (cause : Nat) (status : Option Nat) : State :=
  let x := s.ctx t c
  if x.st = .empty ∨ x.st = .faulted then s
  else
    let s := leaveWalker (s.setCtx t c { x with st := .faulted, wait := keptWait x.wait, ending := false }) (tileWalker t c)
    resched (emit s.bump (tileFaultEv t c pc.toNat cause (status.getD (s.freeVal % 256)))) t

/-! The program counter (R115, R116, R125). -/

/-- Leaves the word at byte offset w: innermost loops whose body ends there run again or end; answers the next offset. -/
def leaveWord (w : Nat) : List LoopRec → Tab Word32 → Nat × List LoopRec × Tab Word32
  | [], l => (w + 16, [], l)
  | r :: t, l =>
    if r.last = w then
      let i := (tabGet 0 l r.level.val).toNat + 1
      if i < r.count then (r.first, r :: t, tabPut 0 l r.level.val (BitVec.ofNat 32 i))
      else leaveWord w t l
    else (w + 16, r :: t, l)

/-- Bytes of the context's CODE: its image's, or those of the debug grant that holds its tile (R451). -/
def codeLen (s : State) (t : Fin 192) (c : Fin 4) : Nat := ((s.tile t).stepLen).getD (codeBytes (ctxImage s (s.ctx t c)))

/-- Moves the program counter to a byte offset; past the last word of CODE the context faults (R116). -/
def jumpTo (s : State) (t : Fin 192) (c : Fin 4) (pc : Nat) : State :=
  let pc := BitVec.ofNat 32 pc
  let s := s.modCtx t c (fun x => { x with pc := pc })
  if codeLen s t c ≤ pc.toNat then faultCtx s t c pc 0x03 none else resched s t

/-- Past the word at byte offset w. -/
def advanceFrom (s : State) (t : Fin 192) (c : Fin 4) (w : Nat) : State :=
  let x := s.ctx t c
  let r := leaveWord w x.nest x.loops
  jumpTo (s.setCtx t c { x with nest := r.2.1, loops := r.2.2 }) t c r.1

/-- To the next instruction. -/
def advance (s : State) (t : Fin 192) (c : Fin 4) : State := advanceFrom s t c (s.ctx t c).pc.toNat

/-! Waits. -/

/-- A context begins to wait: SPINNING at the issue (R334), the program counter stays on the instruction (R346). -/
def startWait (s : State) (t : Fin 192) (c : Fin 4) (w : Wait) : State :=
  s.modCtx t c (fun x => { x with st := .spinning, wait := some w, spunOut := false })

/-- A wait is met: a SPINNING context runs on, a PARKED one becomes READY (R335). -/
def endWait (s : State) (t : Fin 192) (c : Fin 4) : State :=
  let x := s.ctx t c
  let st := if x.st = .spinning then CtxSt.running else if x.st = .parked then .ready else x.st
  advance (s.setCtx t c { x with st := st, wait := none, spunOut := false }) t c

/-! Issue. -/

/-- The issue, as its common fields name it, may proceed: the context is RUNNING, nothing holds its issue, and the tile
is at level I0. -/
def canIssue (s : State) (u : Issue) : Bool :=
  let x := s.ctx u.tile u.ctx
  x.st == .running && x.wait.isNone && !x.ending && x.pre == .none && s.level u.tile.val == 0

/-- Predicated issue (R115). -/
def predTrue (x : Ctx) (u : Issue) : Bool := !u.pe || (x.getP u.pidx ^^ u.pn)

/-- Issues an instruction: nothing happens while the context may not issue; an instruction whose predicate is false
uses its issue cycle and has no other effect (R115). -/
def issue (s : State) (u : Issue) (f : Ctx → State) : State :=
  if canIssue s u then
    let x := s.ctx u.tile u.ctx
    if predTrue x u then f x else advance s u.tile u.ctx
  else s

/-- Issues an instruction that changes registers of its context only. -/
def issueReg (s : State) (u : Issue) (f : Ctx → Ctx) : State :=
  issue s u (fun x => advance (s.setCtx u.tile u.ctx (f x)) u.tile u.ctx)

/-- The fault of an instruction as it issues. -/
def issueFault (s : State) (u : Issue) (x : Ctx) (cause : Nat) (status : Option Nat) : State :=
  faultCtx s u.tile u.ctx x.pc cause status

/-! What a context has issued and not completed. -/

def UnitOp.ctx : UnitOp → Fin 4
  | .mma c _ _ _ _ _ _ _ _ _ => c
  | .vec c _ _ _ _ _ _ _ _ _ _ _ _ _ => c

/-- Its place in the order of issues. -/
def UnitOp.ord : UnitOp → Nat
  | .mma _ _ o _ _ _ _ _ _ _ => o
  | .vec _ _ o _ _ _ _ _ _ _ _ _ _ _ => o

/-- The tile context a request comes from. -/
def SyncAct.source : SyncAct → Option (Fin 192 × Fin 4)
  | .waitc t c _ => some (t, c)
  | .take t c => some (t, c)
  | .put t c _ => some (t, c)
  | .faa t c _ => some (t, c)
  | .sigc t c _ => some (t, c)
  | _ => none

/-- Issued instructions of a context that are not complete: in a unit, small transfers, signals under way (R64, R73). -/
def outstanding (s : State) (t : Fin 192) (c : Fin 4) : Bool :=
  let y := s.tile t
  (y.mxu ++ y.vxu ++ y.sfu).any (fun o => o.ctx == c) ||
  s.streams.smts.any (fun m => m.tile == t && m.ctx == c) ||
  s.sync.reqs.any (fun r => match r.act with | .sigc t' c' _ => t' == t && c' == c | _ => false) ||
  (List.range 16).any (fun k => (s.chan k).heldBehind.any (fun h => h.1 == t && h.2.1 == c && h.2.2 != 0)) ||
  (match (s.ctx t c).wait with | some ⟨_, .faa _, _⟩ => true | _ => false)

/-- Earlier SMTs of a context that are not complete (R333). -/
def openSmts (s : State) (t : Fin 192) (c : Fin 4) : Nat :=
  (s.streams.smts.filter (fun m => m.tile == t && m.ctx == c)).length

/-- A context whose END has issued becomes EMPTY once everything it issued has completed (R126). -/
def settleCtx (s : State) (t : Fin 192) (c : Fin 4) : State :=
  let x := s.ctx t c
  if x.ending && x.pre == .none && !outstanding s t c then
    resched (leaveWalker (s.setCtx t c { x with st := .empty, ending := false, slot := none }) (tileWalker t c)) t
  else s

end Sys2Proof.Machine
end

