-- ==== Sys2Proof/Machine/Sync.lean ====
section
/-! DEFINITION. Sync objects and Strings (ch. 12): what a home does with a request, a plain access, a poke; firing of
channels; abandonment; and the sync instructions of a tile. -/

namespace Sys2Proof.Machine

/-! Replies to those who wait. -/

/-- The home's reply that a wait is met is on its way to the context (R334). -/
def replyCtx (s : State) (t : Fin 192) (c : Fin 4) (v : Word64) : State :=
  s.modCtx t c (fun x => { x with wait := x.wait.map (fun w => { w with reply := some (.met v) }) })

/-- Kind of the descriptor of an AE issue (Table 8.1): 0 ATTEND. -/
def aeKind (s : State) (i : AeIssue) : Nat := bits (secEntry (s.slot i.slot).image 0xC i.desc.toNat) 143 140

/-- An ATTEND enters (R266): the epoch is recorded in its walker slot and, as one step, every open sequence's current
version is what the descriptor will walk.  A MERGE or ROPE_TABLE does not enter. -/
def enterAe (s : State) (e : Fin 32) (c : Fin 4) : State :=
  let x := s.aeCtx e c
  match x.queue with
  | i :: _ =>
    if aeKind s i = 0 then enterWalker (s.setAeCtx e c { x with entered := s.seqs.table.filter (fun p => p.2.st == 1) }) (aeWalker e c) else s
  | [] => s

/-- The outcome of a credit take reaches its engine; none takes it where the work has ended.  A transfer's deadline counts
from the time at which its credit is taken (R172), and an ATTEND enters when it takes its credit (R266). -/
def creditReply (s : State) (src : CreditSrc) (r : CreditSt) : State :=
  match src with
  | .stream q n =>
    let x := s.queue q
    match x.active with
    | some y =>
      if y.issued = n ∧ y.credit = .waiting then
        s.setQueue q { x with active := some { y with credit := r }, deadlineAt := if r = .granted then deadlineFrom s y else x.deadlineAt }
      else s
    | none => s
  | .ae e c n =>
    let x := s.aeCtx e c
    if (x.queue.head?.map (·.issued)) = some n ∧ x.credit = .waiting then
      let s := s.setAeCtx e c { x with credit := r }
      if r = .granted then enterAe s e c else s
    else s
  | .coll g n =>
    { s with colls := { s.colls with active := s.colls.active.map (fun i => if i.group = g ∧ i.seq.toNat = n ∧ i.credit = .waiting then { i with credit := r } else i) } }

/-! Counters (R329, R330). -/

/-- A wait with threshold t is met at value v (R329). -/
def waitMet (v t : Word32) : Bool := decide ((v - t).toNat < 2 ^ 31)

def SyncObj.count (o : SyncObj) : Word32 := o.value.truncate 32

/-- `EV_SYNC_NOTIFY` (R345). -/
def notifyEv (n : Notif) (v : Nat) (status : Nat) : Ev :=
  { type := 0x0006, status := status, items := [(64, n.obj), (32, n.threshold.toNat), (32, v)] }

/-- Fires the armed notifications of an object that satisfy p, in the order they were armed. -/
def fireNotifs (s : State) (a : Nat) (status : Nat) (p : Notif → Bool) : State :=
  let hit := s.sync.notifs.filter (fun n => n.obj == a && p n)
  let s := { s with sync := { s.sync with notifs := s.sync.notifs.filter (fun n => !(n.obj == a && p n)) } }
  s.forAll hit (fun s n => emitTo s n.queue.val (notifyEv n (s.obj a).count.toNat status))

/-- Releases every met WAITC waiter of a counter, in order of arrival, then fires its met notifications. -/
def releaseMet (s : State) (a : Nat) : State :=
  let o := s.obj a
  let met := fun w => match w with | HomeWait.waitc _ _ thr => waitMet o.count thr | _ => false
  let s := s.setObj a { o with waits := o.waits.filter (fun w => !met w) }
  let s := s.forAll (o.waits.filter met) (fun s w =>
    match w with
    | .waitc t c _ => replyCtx s t c o.value
    | _ => s)
  fireNotifs s a 0 (fun n => waitMet o.count n.threshold)

/-- Grants waiting credit takes one at a time while the value is not 0; each is a change of the counter (R330). -/
def grantTakers : Nat → State → Nat → State
  | 0, s, _ => s
  | k + 1, s, a =>
    let o := s.obj a
    match o.takers with
    | src :: rest =>
      if o.count = 0 then s
      else
        let s := s.setObj a { o with takers := rest, value := (o.count - 1).setWidth 64 }
        grantTakers k (releaseMet (creditReply s src .granted) a) a
    | [] => s

/-- A counter changes to v. -/
def setCounterObj (s : State) (a : Nat) (v : Word32) : State :=
  let o := s.obj a
  let s := releaseMet (s.setObj a { o with value := v.setWidth 64 }) a
  grantTakers o.takers.length s a

/-- A write to a work counter other than a fetch-and-add while an operation that draws from it is running (R91).  The
rule does not say which operations draw from a counter: taking every operation of the counter's launch while that is
not HALTED is the model's choice (log entry 102). -/
def workWrite (s : State) (a : Nat) (before after : Word32) : State :=
  let o := s.obj a
  if o.kind = 2 && ((s.launch o.slot).any (fun l => !l.halted)) then
    emit s { type := 0x1004, severity := 3, scope := 3, items := [(64, a), (32, before.toNat), (32, after.toNat)] }
  else s

/-- A counter is written or added to by anything but a fetch-and-add. -/
def changeCounter (s : State) (a : Nat) (v : Word32) : State :=
  let before := (s.obj a).count
  setCounterObj (workWrite s a before v) a v

/-! Full/empty words (R331). -/

/-- The oldest waiting TAKE (or PUT). -/
def firstTake (l : List HomeWait) : Option HomeWait := l.find? (fun w => match w with | .take .. => true | _ => false)
def firstPut (l : List HomeWait) : Option HomeWait := l.find? (fun w => match w with | .put .. => true | _ => false)

/-- Serves the TAKEs and PUTs that wait on a word while one can proceed. -/
def serveWord : Nat → State → Nat → State
  | 0, s, _ => s
  | k + 1, s, a =>
    let o := s.obj a
    if o.full then
      match firstTake o.waits with
      | some (.take t c) =>
        serveWord k (replyCtx (s.setObj a { o with full := false, waits := o.waits.erase (.take t c) }) t c o.value) a
      | _ => s
    else
      match firstPut o.waits with
      | some (.put t c v) =>
        serveWord k (replyCtx (s.setObj a { o with full := true, value := v, waits := o.waits.erase (.put t c v) }) t c v) a
      | _ => s

def serve (s : State) (a : Nat) : State := serveWord ((s.obj a).waits.length + 1) s a

/-! Kinds, mismatches and absent objects. -/

/-- The object exists for plain accesses and pokes: LIVE, SAVED or ABANDONED of an image that was launched (R322). -/
def SyncObj.exists' (o : SyncObj) : Bool := o.st != 3
def SyncObj.live (o : SyncObj) : Bool := o.st == 0 || o.st == 1

/-- `EV_SYNC_MISMATCH` (Table 12.6a): source class, source, context and operation. -/
def mismatchEv (s : State) (a cls src ctx op : Nat) : Ev :=
  let o := s.obj a
  { type := 0x100D, severity := 3, scope := 1,
    items := [(64, a), (8, if o.live then o.kind.val else 0xFF), (8, cls), (16, src), (8, ctx), (8, op)] }

/-- A mismatch (R342): counted and reported; the object does not change. -/
def mismatch (s : State) (a cls src ctx op : Nat) : State := emit (count s 0x1100) (mismatchEv s a cls src ctx op)

/-- A signal, dst_signal or poke on an abandoned object is dropped and counted (R350). -/
def signalDropped (s : State) : State := count s 0x1300

/-- A plain write of 4 or 8 bytes to a sync object (Table 12.3): the state and whether it is accepted. -/
def plainWrite (s : State) (a : Nat) (n : Nat) (v : Nat) (cls src ctx : Nat) : State × Bool :=
  let o := s.obj a
  if o.st = 2 then (signalDropped s, true)
  else if o.kind = 1 then (mismatch s a cls src ctx (if n = 4 then 1 else 2), false)
  else (changeCounter s a (BitVec.ofNat 32 v), true)

/-- dst_signal of a remote transfer (Table 12.3, R327): adds 1. -/
def dstSignal (s : State) (a : Nat) (src : Nat) : State :=
  let o := s.obj a
  if o.st = 2 then signalDropped s
  else if !o.live || o.kind = 1 then mismatch s a 3 src 0 3
  else changeCounter s a (o.count + 1)

/-- The release of a stream, AE or collective: adds 1; dropped and counted on an abandoned object (R350). -/
def releaseObj (s : State) (a : Nat) : State :=
  let o := s.obj a
  if o.st = 2 then signalDropped s
  else if o.live && o.kind != 1 then changeCounter s a (o.count + 1) else s

/-- A host poke (R343): op 0 ADD, 1 SET, 2 PUT, 3 reserved. -/
def poke (s : State) (op a : Nat) (v : Word64) : State :=
  let o := s.obj a
  if o.st = 2 then signalDropped s
  else if !o.live || !o.hostVisible || op = 3 then emit (count s 0x1200) (mismatchEv s a 4 0 0 (4 + op))
  else if op = 2 then
    if o.kind = 1 && !o.full then serve (s.setObj a { o with full := true, value := v }) a
    else mismatch s a 4 0 0 6
  else if o.kind = 1 then mismatch s a 4 0 0 (4 + op)
  else changeCounter s a (if op = 0 then o.count + v.truncate 32 else v.truncate 32)

/-! Requests at a home (R326). -/

/-- The unit a request comes from; requests of one unit to one object stay in order (R12). -/
def SyncAct.unit : SyncAct → Nat
  | .waitc t _ _ => t.val
  | .take t _ => t.val
  | .put t _ _ => t.val
  | .faa t _ _ => t.val
  | .sigc t _ _ => t.val
  | .credit s => go s
  | .withdraw s => go s
  | .release s => go s
where
  go : CreditSrc → Nat
    | .stream q _ => 1000 + q.val / 64
    | .ae e _ _ => 2000 + e.val
    | .coll g _ => 3000 + g

/-- Sends a request to an object's home. -/
def sendReq (s : State) (r : SyncReq) : State := { s with sync := { s.sync with reqs := s.sync.reqs ++ [r] } }

/-- The context of a request waits for its answer. -/
def waitsFor (s : State) (t : Fin 192) (c : Fin 4) (a : Nat) : Bool :=
  (s.ctx t c).wait.any (fun w => w.obj == a && w.reply.isNone)

/-- A sync instruction ends with a fault at its home: a mismatch of kinds, or an abandoned object (R341, R350). -/
def syncFault (s : State) (t : Fin 192) (c : Fin 4) (pc : Word32) (o : SyncObj) : State :=
  if o.st = 2 then faultCtx s t c pc 0x08 (some 7)
  else if o.st = 3 then faultCtx s t c pc 0x01 none
  else faultCtx s t c pc 0x05 none

/-- Applies one request at its home. -/
def applyReq (s : State) (r : SyncReq) : State :=
  let a := r.obj
  let o := s.obj a
  match r.act with
  | .waitc t c thr =>
    if !waitsFor s t c a then s
    else if !o.live || o.kind = 1 then syncFault s t c r.pc o
    else if waitMet o.count thr then replyCtx s t c o.value
    else s.setObj a { o with waits := o.waits ++ [.waitc t c thr] }
  | .take t c =>
    if !waitsFor s t c a then s
    else if !o.live || o.kind ≠ 1 then syncFault s t c r.pc o
    else serve (s.setObj a { o with waits := o.waits ++ [.take t c] }) a
  | .put t c v =>
    if !waitsFor s t c a then s
    else if !o.live || o.kind ≠ 1 then syncFault s t c r.pc o
    else serve (s.setObj a { o with waits := o.waits ++ [.put t c v] }) a
  | .faa t c inc =>
    if !waitsFor s t c a then s
    else if !o.live || o.kind ≠ 2 then syncFault (s.modCtx t c (fun x => { x with wait := none })) t c r.pc o
    else
      let v := o.count
      let s := setCounterObj s a (v + inc)
      let s := s.modCtx t c (fun x =>
        match x.wait with
        | some ⟨_, .faa sd, _⟩ => x.setS sd (v.setWidth 64)
        | _ => x)
      endWait s t c
  | .sigc t c n =>
    if !o.live || o.kind = 1 then settleCtx (syncFault s t c r.pc o) t c
    else settleCtx (changeCounter s a (o.count + n)) t c
  | .credit src =>
    if o.st = 2 then creditReply s src .abandoned
    else if o.live && o.kind ≠ 1 then
      let s := s.setObj a { o with takers := o.takers ++ [src] }
      grantTakers (o.takers.length + 1) s a
    else s
  | .withdraw src =>
    if !o.live then s
    else if o.takers.contains src then s.setObj a { o with takers := o.takers.erase src }
    else changeCounter s a (o.count + 1)
  | .release _ => releaseObj s a

/-! Strings (R337, R338). -/

/-- An AE counts as arrived while none of its contexts holds a descriptor of the launch (R338). -/
def aeArrived (s : State) (e : Fin 32) (n : Fin 16) : Bool :=
  allCtx.all (fun c => !(s.aeCtx e c).queue.any (fun d => d.slot == n))

/-- Every participant of a channel has arrived. -/
def chanComplete (s : State) (k : Nat) : Bool :=
  let h := s.chan k
  match h.slot with
  | none => false
  | some n => !h.abandoned && decide (h.tileMap &&& h.latches = h.tileMap) &&
      allAes.all (fun e => !h.aeMap.testBit e.val || aeArrived s e n)

/-- The channel fires: latches clear, the generation advances, contexts that wait on it go on. -/
def fireChan (s : State) (k : Nat) : State :=
  let h := s.chan k
  let s := s.setChan k { h with latches := 0, gen := h.gen + 1 }
  s.forAll (allTiles.flatMap (fun t => allCtx.map (fun c => (t, c)))) (fun s p =>
    match (s.ctx p.1 p.2).wait with
    | some ⟨_, .string j g, _⟩ => if j.val = k ∧ g = h.gen ∧ !h.heldBehind.any (fun e => e.1 == p.1 && e.2.1 == p.2) then endWait s p.1 p.2 else s
    | _ => s)

def checkFire (s : State) (k : Nat) : State := if chanComplete s k then fireChan s k else s

/-- A tile's arrival: its latch is set, a context that waits records the generation, the condition is judged. -/
def setLatch (s : State) (k : Nat) (t : Fin 192) (c : Fin 4) : State :=
  let h := s.chan k
  let s := s.setChan k { h with latches := h.latches ||| 2 ^ t.val }
  let s := s.modCtx t c (fun x =>
    match x.wait with
    | some ⟨o, .string j _, r⟩ => if j.val = k then { x with wait := some ⟨o, .string j h.gen, r⟩ } else x
    | _ => x)
  checkFire s k

/-- Arrivals held behind a latch or behind SMTs go on while one can. -/
def runHeld : Nat → State → Nat → State
  | 0, s, _ => s
  | f + 1, s, k =>
    let h := s.chan k
    match h.heldBehind.find? (fun e => e.2.2 == 0 && !h.latches.testBit e.1.val) with
    | none => s
    | some e => runHeld f (setLatch (s.setChan k { h with heldBehind := h.heldBehind.erase e }) k e.1 e.2.1) k

def serveChan (s : State) (k : Nat) : State := runHeld (s.chan k).heldBehind.length s k

/-- A restored context issues the STR that it waited at when it was pre-empted (R346). -/
def restoredStr (s : State) (u : Issue) (channel : Fin 16) : Bool :=
  let x := s.ctx u.tile u.ctx
  x.st == .running && x.pre == .none && s.level u.tile.val == 0 &&
    (match x.wait with
      | some ⟨_, .string k _, _⟩ => k == channel
      | _ => false)

/-- It proceeds at once if its recorded generation has advanced, and waits on otherwise. -/
def reissueStr (s : State) (u : Issue) (channel : Fin 16) : State :=
  let x := s.ctx u.tile u.ctx
  let h := s.chan channel.val
  match x.wait with
  | some ⟨_, .string _ g, _⟩ =>
    if h.abandoned then issueFault s u x 0x08 (some 7)
    else if h.gen = g || h.heldBehind.any (fun e => e.1 == u.tile && e.2.1 == u.ctx) then resched (s.setCtx u.tile u.ctx { x with st := .spinning, spunOut := false }) u.tile
    else endWait s u.tile u.ctx
  | _ => s

/-- `STR` (R337). -/
def execStr (u : Issue) (channel : Fin 16) (arriveOnly : Bool) (s : State) : Outcome :=
  if restoredStr s u channel then .next (reissueStr s u channel) else
  .next (issue s u (fun x =>
    let k := channel.val
    let h := s.chan k
    let n := openSmts s u.tile u.ctx
    let busy := h.latches.testBit u.tile.val
    if h.slot.isNone || h.slot != x.slot || !h.tileMap.testBit u.tile.val then issueFault s u x 0x01 none
    else if h.abandoned then issueFault s u x 0x08 (some 7)
    else if arriveOnly then
      if busy then s
      else if n ≠ 0 then
        advance (s.setChan k { h with heldBehind := h.heldBehind ++ [(u.tile, u.ctx, n)] }) u.tile u.ctx
      else serveChan (setLatch (advance s u.tile u.ctx) k u.tile u.ctx) k
    else
      let s := startWait s u.tile u.ctx ⟨0, .string channel h.gen, none⟩
      let s := resched s u.tile
      if busy || n ≠ 0 then s.setChan k { h with heldBehind := h.heldBehind ++ [(u.tile, u.ctx, n)] }
      else serveChan (setLatch s k u.tile u.ctx) k))

/-- An AE is idle while no context holds a descriptor (Table 17.2). -/
def idleAe (s : State) (e : Fin 32) : State :=
  let idle := allCtx.all (fun c => (s.aeCtx e c).queue.isEmpty)
  idleUnit s (aeUnit e) idle !idle

/-- Channels that name the AE while it does not count as arrived. -/
def awaitAe (s : State) (e : Fin 32) : List Nat :=
  (List.range 16).filter (fun k =>
    match (s.chan k).slot with
    | some n => (s.chan k).aeMap.testBit e.val && !aeArrived s e n
    | none => false)

/-- A descriptor of an AE context ends or is dropped: its channels are judged, but only those to which the AE's arrival
has changed (R337, R338). -/
def aeArrival (s : State) (e : Fin 32) (c : Fin 4) (x : AeCtx) : State :=
  let was := awaitAe s e
  let s := idleAe (s.setAeCtx e c x) e
  s.forAll (was.filter (fun k => !(awaitAe s e).contains k)) (fun s k => serveChan (checkFire s k) k)

/-! Abandonment (R348 to R350). -/

/-- `EV_SYNC_ABANDONED` (R349). -/
def abandonedEv (s : State) (n : Fin 16) (trigger waiters : Nat) : Ev :=
  { type := 0x100E, severity := 3, scope := 3,
    items := [(16, slotHandle s n), (8, trigger), (32, ((s.launch n).map (·.number.toNat)).getD 0), (32, waiters)] }

/-- Contexts that wait on a channel. -/
def chanWaiters (s : State) (k : Nat) : List (Fin 192 × Fin 4) :=
  (allTiles.flatMap (fun t => allCtx.map (fun c => (t, c)))).filter (fun p =>
    match (s.ctx p.1 p.2).wait with
    | some ⟨_, .string j _, _⟩ => j.val == k
    | _ => false)

/-- Abandons one object: waits and takes are released, notifications fire with `ST_ABANDONED`. -/
def abandonObj (s : State) (a : Nat) : State :=
  let o := s.obj a
  let s := s.setObj a { o with st := 2, waits := [], takers := [] }
  let s := s.forAll o.takers (fun s src => creditReply s src .abandoned)
  fireNotifs s a 7 (fun _ => true)

/-- The live objects of a launch, and the channels that it claims. -/
def launchObjs (s : State) (n : Fin 16) : List Nat := (s.sync.objs.filter (fun e => e.2.live && e.2.slot == n)).map (·.1)
def launchChans (s : State) (n : Fin 16) : List Nat := (List.range 16).filter (fun k => (s.chan k).slot == some n)

/-- A collective instance takes a credit. -/
def CreditSrc.isColl : CreditSrc → Bool
  | .coll _ _ => true
  | _ => false

/-- Waiters of Table 12.9 on an object of a launch: contexts, stream and AE credits, notifications. -/
def objWaiters (s : State) (a : Nat) : Nat :=
  let o := s.obj a
  o.waits.length + (o.takers.filter (fun t => !t.isColl)).length + (s.sync.notifs.filter (fun n => n.obj == a)).length

/-- The launch of a slot is unbound: its objects and channels are abandoned (Table 12.8), and the event written. -/
def abandonLaunch (s : State) (n : Fin 16) (trigger waiters : Nat) : State :=
  let ev := abandonedEv s n trigger waiters
  let chans := launchChans s n
  let s := s.forAll (launchObjs s n) abandonObj
  let s := s.forAll chans (fun s k => s.setChan k { (s.chan k) with slot := none, abandoned := false, heldBehind := [], latches := 0 })
  emit s ev

/-- A tile or AE is declared failed: channels that name it are abandoned, one event per launch (Table 12.8). -/
def abandonChans (s : State) (trigger : Nat) (names : StrChan → Bool) : State :=
  s.forAll allSlots (fun s n =>
    let ks := (List.range 16).filter (fun k => (s.chan k).slot == some n && !(s.chan k).abandoned && names (s.chan k))
    if ks.isEmpty then s
    else
      let ws := ks.flatMap (chanWaiters s)
      let s := s.forAll ks (fun s k => s.setChan k { (s.chan k) with abandoned := true, heldBehind := [] })
      let s := s.forAll ws (fun s p => faultCtx s p.1 p.2 (s.ctx p.1 p.2).pc 0x08 (some 7))
      emit s (abandonedEv s n trigger ws.length))

/-! Tile sync instructions (Table 4.15). -/

/-- A sync instruction that sends a request and waits for the home's reply. -/
def issueWait (u : Issue) (vid : BitVec 16) (s : State) (kind : Ctx → WaitKind) (act : Ctx → SyncAct) (after : Nat) :
    State :=
  issue s u (fun x =>
    match ctxVid s u.tile u.ctx vid.toNat with
    | none => issueFault s u x 0x01 none
    | some a => resched (sendReq (startWait s u.tile u.ctx ⟨a, kind x, none⟩)
        ⟨a, act x, x.pc, after⟩) u.tile)

/-- `WAITC` (R329, R334): threshold (s[s_thr] + imm) mod 2^32. -/
def execWaitc (u : Issue) (vid : BitVec 16) (sThr : Fin 32) (imm : BitVec 32) (s : State) : Outcome :=
  let thr := fun (x : Ctx) => (x.getS sThr).truncate 32 + imm
  .next (issueWait u vid s (fun x => .waitc (thr x)) (fun x => .waitc u.tile u.ctx (thr x)) 0)

/-- `TAKE` (R331). -/
def execTake (u : Issue) (vid : BitVec 16) (sd : Fin 32) (s : State) : Outcome :=
  .next (issueWait u vid s (fun _ => .take sd) (fun _ => .take u.tile u.ctx) 0)

/-- `PUT` (R331, R333). -/
def execPut (u : Issue) (vid : BitVec 16) (ss : Fin 32) (s : State) : Outcome :=
  .next (issueWait u vid s (fun x => .put (x.getS ss)) (fun x => .put u.tile u.ctx (x.getS ss))
    (openSmts s u.tile u.ctx))

/-- `SIGC` (R329, R333): the context goes on at once. -/
def execSigc (u : Issue) (vid : BitVec 16) (sVal : Fin 32) (imm : BitVec 32) (s : State) : Outcome :=
  .next (issue s u (fun x =>
    match ctxVid s u.tile u.ctx vid.toNat with
    | none => issueFault s u x 0x01 none
    | some a => advance (sendReq s ⟨a, .sigc u.tile u.ctx ((x.getS sVal).truncate 32 + imm), x.pc,
        openSmts s u.tile u.ctx⟩) u.tile u.ctx))

/-- `FAA` (R89): the issue of the context is held until the value is in s[sd]; the wait is not SPINNING (R334). -/
def execFaa (u : Issue) (vid : BitVec 16) (sd sInc : Fin 32) (imm : BitVec 32) (s : State) : Outcome :=
  .next (issue s u (fun x =>
    match ctxVid s u.tile u.ctx vid.toNat with
    | none => issueFault s u x 0x01 none
    | some a => sendReq (s.modCtx u.tile u.ctx (fun y => { y with wait := some ⟨a, .faa sd, none⟩ }))
        ⟨a, .faa u.tile u.ctx ((x.getS sInc).truncate 32 + imm), x.pc, 0⟩))

/-- `WAIT_MET` (R334, R335): the home's reply reaches the context; a TAKE's value goes to its register. -/
def execWaitMet (t : Fin 192) (c : Fin 4) (s : State) : Outcome :=
  let x := s.ctx t c
  match x.wait with
  | some ⟨_, kind, some (.met v)⟩ =>
    if x.pre = .none then
      let s := match kind with
        | .take sd => s.setCtx t c (x.setS sd v)
        | _ => s
      .next (endWait s t c)
    else .next s
  | _ => .next s

/-- `SPIN_LIMIT_REACHED` (R70): the context parks, at once or as soon as another context is READY. -/
def execSpinLimitReached (t : Fin 192) (c : Fin 4) (s : State) : Outcome :=
  let x := s.ctx t c
  if x.st = .spinning then .next (resched (s.setCtx t c { x with spunOut := true }) t) else .next s

/-- `CONTEXT_SWITCH_DONE` (R71): the incoming context issues its first instruction. -/
def execContextSwitchDone (t : Fin 192) (c : Fin 4) (s : State) : Outcome :=
  if (s.tile t).switching = some c ∧ s.level t.val = 0 then
    let s := s.modTile t (fun y => { y with switching := none, loaded := some c })
    let x := s.ctx t c
    if x.st = .ready ∧ x.pre = .none then .next (resched (s.setCtx t c { x with st := .running }) t) else .next (resched s t)
  else .next s

/-! The MXU's checks and failure (R81 to R86). -/

/-- `EV_MXU_CHECK` (R85). -/
def mxuCheckEv (t : Fin 192) (c : Fin 4) (pc : Word32) (acc row col runs : Nat) : Ev :=
  { type := 0x1002, severity := 2, scope := 1,
    items := [(16, t.val), (8, c.val), (32, pc.toNat), (8, acc), (8, row), (8, col), (32, runs)] }

/-- The MXU is declared failed (R86): queued instructions are discarded, every context FAULTED, one that is EMPTY
included, the channels that name the tile abandoned. -/
def mxuFail (s : State) (t : Fin 192) : State :=
  let s := s.modTile t (fun y => { y with mxu := [], mxuRuns := 0, mxuFirst := none, mxuOut := [], failed := true })
  let s := s.forAll allCtx (fun s c =>
    if (s.ctx t c).st = .empty then s.modCtx t c (fun x => { x with st := .faulted })
    else faultCtx s t c (s.ctx t c).pc 0x09 none)
  let s := emit s { type := 0x1003, severity := 4, scope := 5, items := [(16, t.val)] }
  abandonChans s 2 (fun h => h.tileMap.testBit t.val)

end Sys2Proof.Machine
end

