-- ==== Sys2Proof/Machine/TileScalar.lean ====
section
/-! DEFINITION. Operand capture and byte ranges of tile instructions, and the scalar and control instructions
(Tables 4.15 to 4.19, R114 to R126). -/

namespace Sys2Proof.Machine

/-! SRAM regions and operands (Table 3.2, R117). -/

/-- Base of a region by its code. -/
def regionBase (r : Nat) : Nat :=
  match r with
  | 0 => 0 | 1 => 0x200000 | 2 => 0x300000 | 3 => 0x400000 | _ => 0x500000

/-- Size of a region by its code; 0 for a reserved code. -/
def regionSize (r : Nat) : Nat :=
  match r with
  | 0 => 0x200000 | 1 => 0x100000 | 2 => 0x100000 | 3 => 0x100000 | 4 => 0x100000 | _ => 0

/-- The region of a tile SRAM offset, 5 beyond the SRAM. -/
def regionOf (off : Nat) : Nat :=
  if off < 0x200000 then 0 else if off < 0x300000 then 1 else if off < 0x400000 then 2
  else if off < 0x500000 then 3 else if off < 0x600000 then 4 else 5

/-- The bytes [off, off + n) lie in the region r (R117). -/
def inRegion (r off n : Nat) : Bool :=
  decide (regionBase r ≤ off) && decide (off + n ≤ regionBase r + regionSize r) && decide (regionSize r ≠ 0)

/-- Effective offset: region base + address register + byte offset, modulo 2^64. -/
def effOff (x : Ctx) (region : BitVec 3) (areg : Fin 16) (bytes : Nat) : Nat :=
  (BitVec.ofNat 64 (regionBase region.toNat) + x.getA areg + BitVec.ofNat 64 bytes).toNat

/-- Effective offset of a 22-bit operand (R117). -/
def opOff (x : Ctx) (o : SramOp) : Nat := effOff x o.region o.areg (o.off.toNat * 256)

/-! Bound registers (R118). -/

/-- The three live extents of a bound field, each limited to its full extent. -/
def boundOf (x : Ctx) (bnd : Fin 32) (depth : Nat) : Nat × Nat × Nat :=
  if bnd.val = 0 then (128, 128, depth)
  else
    let v := (x.getS bnd).toNat
    (min 128 (bits v 15 0), min 128 (bits v 31 16), min depth (bits v 47 32))

/-- A bound with a zero extent: the instruction does no data work. -/
def boundZero (x : Ctx) (bnd : Fin 32) : Bool :=
  let b := boundOf x bnd 65535
  b.1 == 0 || b.2.1 == 0 || b.2.2 == 0

/-! Byte ranges of instructions held in the units (R64). -/

/-- Bytes of one 32-deep operand group (R120). -/
def groupBytes (fmt : Nat) : Nat := if fmt = 6 then 2176 else 4096 * fmtSize fmt

/-- The accumulator block's first byte (R120). -/
def accOff (acc : Nat) : Nat := 0x400000 + acc * 0x10000

/-- Bytes of a ROWSTAT row (R123). -/
def statRow (fmt len : Nat) : Nat := cdiv len 128 * 128 * fmtSize fmt

/-- Bytes that operand b of a VOP covers, by bsel (Table 4.17). -/
def vopB (f : VecFields) (rows : Nat) : Nat :=
  let e := fmtSize f.fmtB.toNat
  match f.bsel.val with
  | 0 => rows * 128 * e
  | 1 => 0
  | 2 => 128 * e
  | _ => rows * e

/-- VOP functions that read only a (R123). -/
def vopUnary (func : Nat) : Bool := decide (6 ≤ func)

/-- Ranges an issued instruction reads; an MMA that takes its staging copy inside the MXU does not read its block
(R64, R76). -/
def UnitOp.reads : UnitOp → List (Nat × Nat)
  | .mma _ _ _ f a b _ _ _ fwd =>
    let g := f.groups.toNat + 1
    [(a, g * groupBytes f.fmtA.toNat), (b, g * groupBytes f.fmtB.toNat)] ++
      (if f.accumulate && !fwd then [(accOff f.acc.val, 0x10000)] else [])
  | .vec _ _ _ kind f d a b rows _ _ len _ _ =>
    match kind with
    | .rowstat => [(a, rows * statRow f.fmtA.toNat len)]
    | .sfn => [(a, rows * 128 * fmtSize f.fmtA.toNat)]
    | .vop => [(a, rows * 128 * fmtSize f.fmtA.toNat)] ++
        (if vopUnary f.func.toNat then [] else [(b, vopB f rows)]) ++
        (if f.func.toNat = 3 then [(d, rows * 128 * fmtSize f.fmtD.toNat)] else [])

/-- Ranges an issued instruction writes. -/
def UnitOp.writes : UnitOp → List (Nat × Nat)
  | .mma _ _ _ f _ _ _ _ _ _ => [(accOff f.acc.val, 0x10000)]
  | .vec _ _ _ kind f d _ _ rows _ _ _ _ _ =>
    match kind with
    | .rowstat => [(d, rows * 4)]
    | _ => [(d, rows * 128 * fmtSize f.fmtD.toNat)]

/-- All instructions a tile's units hold. -/
def Tile.ops (y : Tile) : List UnitOp := y.mxu ++ y.vxu ++ y.sfu

def hitsRange (l : List (Nat × Nat)) (off n : Nat) : Bool := l.any (fun r => overlaps r.1 r.2 off n)

/-- A read of the bytes is held: an issued, uncompleted instruction or SMT of the tile writes them (R64, R167). -/
def readHeld (s : State) (t : Fin 192) (off n : Nat) : Bool :=
  (s.tile t).ops.any (fun o => hitsRange o.writes off n) ||
  s.streams.smts.any (fun m => m.tile == t && !m.toDevice && overlaps m.sram m.len off n)

/-- A write of the bytes is held: an issued, uncompleted instruction or SMT of the tile reads them (R64). -/
def writeHeld (s : State) (t : Fin 192) (off n : Nat) : Bool :=
  (s.tile t).ops.any (fun o => hitsRange o.reads off n) ||
  s.streams.smts.any (fun m => m.tile == t && m.toDevice && overlaps m.sram m.len off n)

/-! Scalar functions (Table 4.19, R124). -/

def smin (a b : Word64) : Word64 := if a.slt b then a else b
def smax (a b : Word64) : Word64 := if a.slt b then b else a
def umin (a b : Word64) : Word64 := if a.ult b then a else b
def umax (a b : Word64) : Word64 := if a.ult b then b else a

/-- SALU; none for a reserved function code. -/
def saluFn (func : Nat) (a b : Word64) : Option Word64 :=
  let k := b.toNat % 64
  match func with
  | 0 => some (a + b)
  | 1 => some (a - b)
  | 2 => some (a * b)
  | 3 => some (a &&& b)
  | 4 => some (a ||| b)
  | 5 => some (a ^^^ b)
  | 6 => some (a <<< k)
  | 7 => some (a >>> k)
  | 8 => some (a.sshiftRight k)
  | 9 => some (smin a b)
  | 10 => some (smax a b)
  | 11 => some (umin a b)
  | 12 => some (umax a b)
  | 13 => some (if b = 0 then BitVec.allOnes 64 else a / b)
  | 14 => some (if b = 0 then a else a % b)
  | _ => none

/-- SCMP conditions; none for a reserved one. -/
def scmpFn (cond : Nat) (a b : Word64) : Option Bool :=
  match cond with
  | 0 => some (a == b)
  | 1 => some (a != b)
  | 2 => some (a.slt b)
  | 3 => some (!a.slt b)
  | 4 => some (a.ult b)
  | 5 => some (!a.ult b)
  | _ => none

/-- PLOG operations (Table 4.18). -/
def plogFn (op : Fin 4) (a b : Bool) : Bool :=
  match op.val with
  | 0 => a && b
  | 1 => a || b
  | 2 => a ^^ b
  | _ => a && !b

/-- The second operand of SALU and SCMP. -/
def scalarSrc (x : Ctx) : ScalarSrc → Word64
  | .reg sb => x.getS sb
  | .imm v => v.signExtend 64

/-- `NOP` (R114). -/
def execNop (u : Issue) (s : State) : Outcome := .next (issueReg s u id)

/-- `SLI` (R114): s[sd] ← imm64. -/
def execSli (u : Issue) (sd : Fin 32) (imm : BitVec 64) (s : State) : Outcome :=
  .next (issueReg s u (fun x => x.setS sd imm))

/-- `SALU` (R124). -/
def execSalu (u : Issue) (func : BitVec 6) (sd sa : Fin 32) (b : ScalarSrc) (s : State) : Outcome :=
  .next (issue s u (fun x =>
    match saluFn func.toNat (x.getS sa) (scalarSrc x b) with
    | some v => advance (s.setCtx u.tile u.ctx (x.setS sd v)) u.tile u.ctx
    | none => issueFault s u x 0x03 none))

/-- `SCMP` (R114). -/
def execScmp (u : Issue) (pd : Fin 8) (cond : BitVec 4) (sa : Fin 32) (b : ScalarSrc) (s : State) : Outcome :=
  .next (issue s u (fun x =>
    match scmpFn cond.toNat (x.getS sa) (scalarSrc x b) with
    | some v => advance (s.setCtx u.tile u.ctx (x.setP pd v)) u.tile u.ctx
    | none => issueFault s u x 0x03 none))

/-- `PLOG` (R114). -/
def execPlog (u : Issue) (pd pa pb : Fin 8) (op : Fin 4) (s : State) : Outcome :=
  .next (issueReg s u (fun x => x.setP pd (plogFn op (x.getP pa) (x.getP pb))))

/-- `AADD` (R114): a[ad] ← (a[aa] or 0) + s[sb] + imm48. -/
def execAadd (u : Issue) (ad : Fin 16) (zeroBase : Bool) (aa : Fin 16) (sb : Fin 32) (imm : BitVec 48) (s : State) :
    Outcome :=
  .next (issueReg s u (fun x =>
    x.setA ad ((if zeroBase then 0 else x.getA aa) + x.getS sb + imm.signExtend 64)))

/-- The byte range of an LDS or STS; none where it faults: a reserved region, an address outside the region, or one
that is not a multiple of the width (R117, R124). -/
def scalarRange (x : Ctx) (a : ScalarMem) : Option (Nat × Nat) :=
  let n := 2 ^ a.log2w.val
  let off := effOff x a.region a.areg a.off.toNat
  if inRegion a.region.toNat off n && off % n == 0 then some (off, n) else none

/-- `LDS` (R124): held by R64 while an issued instruction writes the bytes. -/
def execLds (u : Issue) (a : ScalarMem) (sx : Bool) (s : State) : Outcome :=
  .next (issue s u (fun x =>
    match scalarRange x a with
    | none => issueFault s u x 0x01 none
    | some (off, n) =>
      if readHeld s u.tile off n then s
      else
        let v := leNat (s.sramRead u.tile off n)
        let w := if sx then sext64 (8 * n) v else BitVec.ofNat 64 v
        advance (s.setCtx u.tile u.ctx (x.setS a.s w)) u.tile u.ctx))

/-- `STS` (R124): held by R64 while an issued instruction reads the bytes. -/
def execSts (u : Issue) (a : ScalarMem) (s : State) : Outcome :=
  .next (issue s u (fun x =>
    match scalarRange x a with
    | none => issueFault s u x 0x01 none
    | some (off, n) =>
      if writeHeld s u.tile off n then s
      else advance (s.sramWrite u.tile off (leBytes n (x.getS a.s).toNat)) u.tile u.ctx))

/-- `BR` (R124): to the BR's own offset plus 16 bytes per instruction of the signed offset. -/
def execBr (u : Issue) (off : BitVec 32) (s : State) : Outcome :=
  .next (issue s u (fun x => jumpTo s u.tile u.ctx ((x.pc + off * 16#32).toNat)))

/-- `LOOP` (R125). -/
def execLoop (u : Issue) (level : Fin 8) (countInReg : Bool) (sc : Fin 32) (body : BitVec 16) (bound imm : BitVec 32)
    (s : State) : Outcome :=
  .next (issue s u (fun x =>
    let c := if countInReg then (x.getS sc).truncate 32 else imm
    let last := x.pc.toNat + 16 * body.toNat
    if bound.ult c then issueFault s u x 0x04 none
    else if c = 0 then advanceFrom s u.tile u.ctx last
    else
      jumpTo (s.setCtx u.tile u.ctx { x with
        loops := tabPut 0 x.loops level.val 0
        nest := ⟨level, x.pc.toNat + 16, last, c.toNat⟩ :: x.nest }) u.tile u.ctx (x.pc.toNat + 16)))

/-- Index of an operation's executed-block count (R93). -/
def blockIx (n : Fin 16) (op : Nat) : Nat := n.val * 256 + op

/-- `BLKCNT` (R111): counts one executed block; a bound with a zero extent has no effect (R118). The count stands in
State.blocks and no command reads it: where the completion record of R93 stands and how software reads it is the
spec's silence and the model's choice (log entry 100). -/
def execBlkcnt (u : Issue) (operation : BitVec 8) (bnd : Fin 32) (s : State) : Outcome :=
  .next (issue s u (fun x =>
    match x.slot with
    | some n =>
      if boundZero x bnd then advance s u.tile u.ctx
      else
        let i := blockIx n operation.toNat
        advance { s with blocks := tabPut 0 s.blocks i (tabGet 0 s.blocks i + 1) } u.tile u.ctx
    | none => advance s u.tile u.ctx))

/-- `END` (R126): the context becomes EMPTY once everything it issued has completed. -/
def endCtx (s : State) (u : Issue) : State :=
  settleCtx (s.modCtx u.tile u.ctx (fun x => { x with ending := true })) u.tile u.ctx

end Sys2Proof.Machine
end

