-- ==== Sys2Proof/Machine/TileUnits.lean ====
section
/-! DEFINITION. The tile's units (ch. 3): MMA, VOP, SFN and ROWSTAT as they issue, and their completion in the VXU, the
SFU and the MXU with its checks (R61, R64, R76 to R86, R120 to R123). -/

namespace Sys2Proof.Machine

/-- A unit takes an instruction while it holds fewer than 8 (R61). -/
def unitFull (l : List UnitOp) : Bool := decide (8 ≤ l.length)

/-- Counts one issue in the module-wide order of issues. -/
def bumpIssue (s : State) : State := { s with streams := { s.streams with issues := s.streams.issues + 1 } }

/-- MXU operands lie in the resident region or a stream buffer (Table 3.3). -/
def mxuRegion (r : BitVec 3) : Bool := decide (r.toNat ≤ 2)

/-- The instruction takes its staging copy from the one immediately ahead of it in the MXU queue: it accumulates into
the block that one writes (R76). -/
def mxuForwards (l : List UnitOp) (f : MmaFields) : Bool :=
  f.accumulate && (match l.getLast? with
    | some (.mma _ _ _ g _ _ _ _ _ _) => g.acc == f.acc
    | _ => false)

/-- `MMA` (R76, R118, R120): reserved or non-matrix formats are an undefined instruction, an operand outside its region
an access fault; a bound with a zero extent has no effect; a full MXU queue holds the issue (R61). -/
def execMma (u : Issue) (f : MmaFields) (s : State) : Outcome :=
  .next (issue s u (fun x =>
    let g := f.groups.toNat + 1
    let a := opOff x f.opa
    let b := opOff x f.opb
    if !fmtMatrix f.fmtA.toNat || !fmtMatrix f.fmtB.toNat then issueFault s u x 0x03 none
    else if boundZero x f.bnd then advance s u.tile u.ctx
    else if !(mxuRegion f.opa.region && mxuRegion f.opb.region &&
        inRegion f.opa.region.toNat a (g * groupBytes f.fmtA.toNat) &&
        inRegion f.opb.region.toNat b (g * groupBytes f.fmtB.toNat)) then issueFault s u x 0x01 none
    else if unitFull (s.tile u.tile).mxu then s
    else
      let l := boundOf x f.bnd (g * 32)
      let op := UnitOp.mma u.ctx x.pc s.streams.issues f a b l.1 l.2.1 l.2.2 (mxuForwards (s.tile u.tile).mxu f)
      advance (bumpIssue (s.modTile u.tile (fun y => { y with mxu := y.mxu ++ [op] }))) u.tile u.ctx))

/-- The micro-program that an SFN names, from the image of the context's launch (R145); none where the slot is empty. -/
def sfnProg (s : State) (x : Ctx) (func : Nat) : Option Nat :=
  if func < 0x20 then some 0
  else
    let img := ctxImage s x
    if func - 0x20 < secCount img 14 then some (secEntry img 14 (func - 0x20)) else none

/-- SFN formats (R134). -/
def sfnFmt (c : Nat) : Bool := fmtVector c && c != 1

/-- The function and formats of a vector instruction are ones the unit has (Table 4.19, Table 2.1, R123, R134). -/
def vecLegal (s : State) (x : Ctx) (kind : VecKind) (f : VecFields) : Bool :=
  let fn := f.func.toNat
  match kind with
  | .vop => decide (fn ≤ 8) && fmtVector f.fmtD.toNat && fmtVector f.fmtA.toNat &&
      (vopUnary fn || f.bsel.val == 1 || fmtVector f.fmtB.toNat)
  | .sfn => (decide (fn ≤ 9) || (decide (0x20 ≤ fn) && (sfnProg s x fn).isSome)) &&
      sfnFmt f.fmtD.toNat && sfnFmt f.fmtA.toNat
  | .rowstat => decide (fn ≤ 6) && f.bsel.val == 0 && f.fmtD.toNat == 0 && fmtVector f.fmtA.toNat

/-- Every byte the operands cover lies in the region each names (R117). -/
def vecInRegion (kind : VecKind) (f : VecFields) (d a b rows len : Nat) : Bool :=
  match kind with
  | .rowstat =>
    inRegion f.opd.region.toNat d (rows * 4) && inRegion f.opa.region.toNat a (rows * statRow f.fmtA.toNat len)
  | .sfn =>
    inRegion f.opd.region.toNat d (rows * 128 * fmtSize f.fmtD.toNat) &&
    inRegion f.opa.region.toNat a (rows * 128 * fmtSize f.fmtA.toNat)
  | .vop =>
    inRegion f.opd.region.toNat d (rows * 128 * fmtSize f.fmtD.toNat) &&
    inRegion f.opa.region.toNat a (rows * 128 * fmtSize f.fmtA.toNat) &&
    (vopUnary f.func.toNat || f.bsel.val == 1 || inRegion f.opb.region.toNat b (vopB f rows))

/-- The unit queue of a vector instruction: SFN in the SFU, VOP and ROWSTAT in the VXU (R144). -/
def vecQueue (kind : VecKind) (y : Tile) : List UnitOp := if kind = .sfn then y.sfu else y.vxu

def pushVec (kind : VecKind) (op : UnitOp) (y : Tile) : Tile :=
  if kind = .sfn then { y with sfu := y.sfu ++ [op] } else { y with vxu := y.vxu ++ [op] }

/-- Rows that m_live leaves (R118, R122): a value above 128 counts as full. -/
def liveRows (x : Ctx) (bnd : Fin 32) (rows : Nat) : Nat :=
  let m := bits (x.getS bnd).toNat 15 0
  if bnd.val = 0 ∨ 128 < m then rows else min rows m

/-- The issue of a vector instruction: checks, bound, a row count of 0, the full queue, the capture of operands.  The
row count is the register's whole value: what a value above 4,096 does is not stated, and executing all the rows is the
model's choice (log entry 101). -/
def issueVec (kind : VecKind) (u : Issue) (f : VecFields) (s : State) : State :=
  issue s u (fun x =>
    let rows := (x.getS f.rows).toNat
    let len := (x.getS f.sb).toNat
    let d := opOff x f.opd
    let a := opOff x f.opa
    let b := opOff x f.opb
    if !vecLegal s x kind f then issueFault s u x 0x03 none
    else if boundZero x f.bnd || rows == 0 then advance s u.tile u.ctx
    else if !vecInRegion kind f d a b rows len then issueFault s u x 0x01 none
    else if unitFull (vecQueue kind (s.tile u.tile)) then s
    else
      let l := boundOf x f.bnd 0
      let m := liveRows x f.bnd rows
      let op := UnitOp.vec u.ctx x.pc s.streams.issues kind f d a b rows m l.2.1 len ((x.getS f.sb).truncate 32)
        ((sfnProg s x f.func.toNat).getD 0)
      advance (bumpIssue (s.modTile u.tile (pushVec kind op))) u.tile u.ctx)

/-- `VOP` (R79, R122). -/
def execVop (u : Issue) (f : VecFields) (s : State) : Outcome := .next (issueVec .vop u f s)
/-- `SFN` (R135, R122). -/
def execSfn (u : Issue) (f : VecFields) (s : State) : Outcome := .next (issueVec .sfn u f s)
/-- `ROWSTAT` (R142, R123). -/
def execRowstat (u : Issue) (f : VecFields) (s : State) : Outcome := .next (issueVec .rowstat u f s)

/-! Order of the units' accesses (R64). -/

/-- An instruction's accesses may be made: none issued before it in the tile writes what it reads or reads what it
writes and is not complete. -/
def unitReady (s : State) (t : Fin 192) (op : UnitOp) : Bool :=
  let clash := fun (l m : List (Nat × Nat)) => l.any (fun r => hitsRange m r.1 r.2)
  !((s.tile t).ops.any (fun o => decide (o.ord < op.ord) && (clash o.writes op.reads || clash o.reads op.writes)) ||
    s.streams.smts.any (fun m => m.tile == t && decide (m.issued < op.ord) &&
      (if m.toDevice then hitsRange op.writes m.sram m.len else hitsRange op.reads m.sram m.len)))

/-! Vector results. -/

/-- One element of a tile's SRAM. -/
def sramElem (s : State) (t : Fin 192) (fmt off i : Nat) : Val :=
  decodeElem fmt (leNat (s.sramRead t (off + i * fmtSize fmt) (fmtSize fmt)))

/-- A VOP function (Table 4.19), exact; the destination's conversion is its one rounding (R49, R79). -/
def vopFn (func : Nat) (a b d : Val) : Val :=
  match func with
  | 0 => vAdd a b
  | 1 => vAdd a (vNeg b)
  | 2 => vMul a b
  | 3 => vAdd (vMul a b) d
  | 4 => vMin a b
  | 5 => vMax a b
  | 6 => vAbs a
  | 7 => vNeg a
  | _ => a

/-- Bytes written by a vector instruction: (offset, bytes) per row. -/
def vecResult (s : State) (t : Fin 192) : UnitOp → List (Nat × List Byte)
  | .mma .. => []
  | .vec _ _ _ kind f d a b _ m n len scalar prog =>
    let ea := f.fmtA.toNat
    let ed := f.fmtD.toNat
    let eb := f.fmtB.toNat
    (List.range m).map (fun r =>
      match kind with
      | .rowstat =>
        let row := (List.range len).map (fun i => sramElem s t ea (a + r * statRow ea len) i)
        (d + r * 4, leBytes 4 (encodeFloat f32 (rowStat f.func.toNat row)))
      | .sfn =>
        let fn := fun v => if f.func.toNat < 0x20 then builtinFn f.func.toNat v else microFn prog v
        (d + r * 128 * fmtSize ed, elemsBytes ed ((List.range n).map (fun j =>
          sfuInf ed (fn (sramElem s t ea a (r * 128 + j))))))
      | .vop =>
        (d + r * 128 * fmtSize ed, elemsBytes ed ((List.range n).map (fun j =>
          let vb :=
            if vopUnary f.func.toNat then vZero
            else match f.bsel.val with
              | 0 => sramElem s t eb b (r * 128 + j)
              | 1 => decodeFloat f32 scalar.toNat
              | 2 => sramElem s t eb b j
              | _ => sramElem s t eb b r
          let vd := if f.func.toNat = 3 then sramElem s t ed d (r * 128 + j) else vZero
          vopFn f.func.toNat (sramElem s t ea a (r * 128 + j)) vb vd))))

/-- Writes the ranges of a result into a tile's SRAM. -/
def sramPuts (s : State) (t : Fin 192) (l : List (Nat × List Byte)) : State :=
  s.forAll l (fun s w => s.sramWrite t w.1 w.2)

/-- After an instruction of a context completes: a drain or an END may go on. -/
def afterComplete (s : State) (t : Fin 192) (c : Fin 4) : State := idleTile (settleCtx s t c) t

/-- `UNIT_INSTRUCTION_COMPLETE` (R64): the oldest instruction of the VXU or SFU, once R64 lets it make its accesses,
writes its result and leaves its unit. -/
def execUnitInstructionComplete (t : Fin 192) (sfu : Bool) (s : State) : Outcome :=
  let y := s.tile t
  match (if sfu then y.sfu else y.vxu) with
  | [] => .next s
  | op :: rest =>
    if unitReady s t op then
      let s' := sramPuts s t (vecResult s t op)
      .next (afterComplete
        (s'.modTile t (fun y => if sfu then { y with sfu := rest } else { y with vxu := rest })) t op.ctx)
    else .next s

/-! Matrix products. -/

/-- The values of row i of an MXU operand (R120): the first n inner indices. -/
def mxuRow (s : State) (t : Fin 192) (fmt off i n : Nat) : List Val :=
  (List.range n).map (fun k =>
    let g := off + k / 32 * groupBytes fmt
    if fmt = 6 then
      let b := memGet s.sram (sramIx t (g + i * 16 + k % 32 / 2))
      let sc := memGet s.sram (sramIx t (g + 2048 + i))
      fp4Val sc.toNat (if k % 2 = 0 then b.toNat % 16 else b.toNat / 16)
    else sramElem s t fmt g (i * 32 + k % 32))

/-- The live rows of A and columns of B (R121). -/
def mmaOperands (s : State) (t : Fin 192) (f : MmaFields) (a b m n k : Nat) : List (List Val) × List (List Val) :=
  ((List.range m).map (fun i => mxuRow s t f.fmtA.toNat a i k), (List.range n).map (fun j => mxuRow s t f.fmtB.toNat b j k))

/-- Element j of the block's row at `row` as an accumulating instruction starts from it: the result ahead where it is
forwarded and computed the element, else the accumulator region (R76). -/
def stagingElem (s : State) (t : Fin 192) (fwd : List (Nat × List Byte)) (row j : Nat) : Val :=
  match fwd.find? (fun w => w.1 == row && decide (4 * j < w.2.length)) with
  | some w => decodeElem 0 (leNat ((w.2.drop (4 * j)).take 4))
  | none => sramElem s t 0 row j

/-- The rows of the output block that are written back (R76, R121): (offset, bytes); `fwd` is the result ahead. -/
def mmaResult (s : State) (t : Fin 192) (f : MmaFields) (fwd : List (Nat × List Byte))
    (ab : List (List Val) × List (List Val)) : List (Nat × List Byte) :=
  let c := commonFmt f.fmtA.toNat f.fmtB.toNat
  ab.1.zipIdx.map (fun ri =>
    let row := accOff f.acc.val + ri.2 * 512
    (row, elemsBytes 0 (ab.2.zipIdx.map (fun cj =>
      let old := if f.accumulate then stagingElem s t fwd row cj.2 else vZero
      dotInto c old ri.1 cj.1))))

/-- A or B holds an infinity or a NaN: the product is not compared (R83). -/
def mmaUnchecked (ab : List (List Val) × List (List Val)) : Bool :=
  (ab.1 ++ ab.2).any (fun l => l.any (fun v => !vIsFinite v))

/-- The result ahead, where the instruction at the head takes its staging copy from it. -/
def mxuAhead (y : Tile) : List (Nat × List Byte) :=
  match y.mxu with
  | .mma _ _ _ _ _ _ _ _ _ true :: _ => y.mxuOut
  | _ => []

/-- The instruction at the head of the MXU leaves it with its result; an instruction behind that forwards keeps it. -/
def popMxu (s : State) (t : Fin 192) (out : List (Nat × List Byte)) : State :=
  s.modTile t (fun y =>
    let z : Tile := { y with mxu := y.mxu.drop 1, mxuRuns := 0, mxuFirst := none, mxuOut := out ++ mxuAhead y }
    { z with mxuOut := mxuAhead z })

end Sys2Proof.Machine
end

