-- ==== Sys2Proof/Machine/Streams.lean ====
section
/-! DEFINITION. Stream queues (ch. 6): issue, credits, requests, halts, completion, deadlines and the credit watchdog. -/

namespace Sys2Proof.Machine

/-! Accesses by device address (R184, R322, R327). -/

def inHomes (a : Nat) : Bool := decide (0xFF0000000000 ≤ a) && decide (a < 0xFF0400000000)
def inEngineRegs (a : Nat) : Bool := decide (0xFFF000000000 ≤ a) && decide (a < 0xFFFE00000000)

/-- A plain access to a sync object: the object's own address, 4 or 8 bytes. -/
def syncAccess (s : State) (a n : Nat) : Access :=
  if (s.obj a).exists' && (n == 4 || n == 8) then .served else .refused stBadArg

/-- What an access of n bytes (at most 256) at a device address meets, for a unit under domain d. -/
def devMeet (s : State) (a n d : Nat) (write : Bool) (die : Fin 5) : State × Access :=
  if inGrains a && inGrains (a + n - 1) then
    let r := meetGrain s (grainOf a) d write false die
    if grainOf a = grainOf (a + n - 1) then r
    else if r.2 = .served then meetGrain r.1 (grainOf (a + n - 1)) d write false die else r
  else if inHomes a then (s, syncAccess s a n)
  else if inAperture a || inEngineRegs a then (s, .refused stDenied)
  else (s, .refused stBadArg)

/-- The bytes at a device address once the access is served. -/
def devLoad (s : State) (a n : Nat) : List Byte :=
  if inHomes a then leBytes n (s.obj a).value.toNat else s.devRead a n

/-- Writes bytes at a device address once the access is served; a mismatch at a sync object is not accepted. -/
def devWrite (s : State) (a : Nat) (l : List Byte) (cls src ctx : Nat) : State × Bool :=
  if inHomes a then plainWrite s a l.length (leNat l) cls src ctx
  else if grainOf a = grainOf (a + l.length - 1) then (devStore s a l, true)
  else
    let k := 65536 - a % 65536
    (devStore (devStore s a (l.take k)) (a + k) (l.drop k), true)

def die5 (d : Fin 4) : Fin 5 := ⟨d.val, by omega⟩

/-! Tile SRAM endpoints (Table 6.2, Table 3.3). -/

def saTile (a : Nat) : Nat := bits a 39 32
def saOff (a : Nat) : Nat := a % 2 ^ 23

/-- A tile SRAM access of a stream: the tile lies on the queue's die, the bytes in the region of the base, and the
region may be accessed so (R63). -/
def sramMeet (q : Fin 256) (base a n : Nat) (write : Bool) : Bool :=
  let r := regionOf (saOff base)
  decide (a < 2 ^ 40) && decide (bits a 31 23 = 0) && decide (saTile a < 192) && decide (saTile a / 48 = q.val / 64) &&
    decide (saTile a = saTile base) && decide (r ≤ 4) && inRegion r (saOff a) n && (!write || r != 3)

def tileOf (a : Nat) : Fin 192 := Fin.ofNat 192 (saTile a)

/-! Queue states. -/

def nextIssue (s : State) : State × Nat :=
  (bumpIssue s, s.streams.issues)

/-- A context that is being pre-empted or is HALTED: its queues issue nothing and take no credit (R171). -/
def ctxStopped (s : State) (t : Fin 192) (c : Fin 4) : Bool :=
  let x := s.ctx t c
  x.pre != .none || x.st == .halted

/-- The transfer begins its credit take, or needs none (R159). -/
def takeCredit (s : State) (q : Fin 256) : State :=
  let r := s.queue q
  match r.active with
  | none => s
  | some x =>
    match xferConsume s x with
    | some a =>
      if ctxStopped s x.tile x.ctx then s.setQueue q { r with active := some { x with credit := .notTaken }, state := 1 } else
      let p := nextIssue s
      let x := { x with credit := .waiting, entered := p.2 }
      sendReq (p.1.setQueue q { r with active := some x, state := 1 }) ⟨a, .credit (.stream q x.issued), x.pc, 0⟩
    | none => s.setQueue q { r with active := some { x with credit := .granted }, state := 2 }

/-- A transfer becomes active: it waits for its drain point (R178) or takes its credit.  The deadline of one that consumes
none counts from now (R172). -/
def activate (s : State) (q : Fin 256) (x : Xfer) : State :=
  let r := s.queue q
  let s := s.setQueue q { r with active := some x, deadlineMode := sdDeadline (streamDesc s x.slot x.desc.toNat) != 0, deadlineAt := if (xferConsume s x).isNone then deadlineFrom s x else 0, halted := false, posLo := 0, posHi := 0 }
  if sdDrain (streamDesc s x.slot x.desc.toNat) then s.modQueue q (fun r => { r with state := 4 }) else takeCredit s q

/-- The active slot empties: the shadow transfer becomes active (R163). -/
def nextActive (s : State) (q : Fin 256) : State :=
  let r := s.queue q
  let s := s.setQueue q { r with active := none, shadow := none, state := 0, deadlineMode := false, deadlineAt := 0, halted := false }
  match r.shadow with
  | some y => activate s q y
  | none => s

/-- `SQIS` (R158, R163, R164). -/
def execSqis (u : Issue) (desc : BitVec 16) (queue : Fin 256) (aSrc : Option (Fin 16)) (aDst : Option (Fin 16))
    (bnd : Fin 32) (s : State) : Outcome :=
  .next (issue s u (fun x =>
    let r := s.queue queue
    match x.slot with
    | none => issueFault s u x 0x01 none
    | some n =>
      if !(r.enable && r.owner == some n && r.ownerTile.toNat == u.tile.val && r.ownerCtx.toNat == u.ctx.val &&
          decide (desc.toNat < secCount (s.slot n).image 4)) then issueFault s u x 0x01 none
      else
        let p := nextIssue s
        let reg := fun (a : Option (Fin 16)) => match a with
          | some i => x.getA i
          | none => 0
        let y : Xfer := { desc := desc, slot := n, tile := u.tile, ctx := u.ctx, pc := x.pc, aSrc := reg aSrc, aDst := reg aDst, zero := boundZero x bnd, issued := p.2, entered := p.2 }
        let s := advance p.1 u.tile u.ctx
        let r := s.queue queue
        if r.active.isNone then activate s queue y
        else if r.shadow.isNone then s.setQueue queue { r with shadow := some y }
        else
          let s := count (s.setQueue queue { r with rearmRefused := true }) (0x2400 + queue.val)
          emit s { type := 0x1005, status := stBusy, severity := 3, scope := 1, items := [(16, u.tile.val), (8, u.ctx.val), (32, x.pc.toNat), (16, queue.val), (16, desc.toNat)] }))

/-! Ends of transfers (R159, R170, R508). -/

/-- Withdraws the credit take of a transfer that has moved no data (R508). -/
def withdrawCredit (s : State) (q : Fin 256) (x : Xfer) : State :=
  if x.started then s
  else match x.credit, xferConsume s x with
    | .waiting, some a => sendReq s ⟨a, .withdraw (.stream q x.issued), x.pc, 0⟩
    | .granted, some a => sendReq s ⟨a, .withdraw (.stream q x.issued), x.pc, 0⟩
    | _, _ => s

/-- The release of a transfer: one request to its object (R159). -/
def signalRelease (s : State) (q : Fin 256) (x : Xfer) : State :=
  match xferRelease s x with
  | some a => sendReq s ⟨a, .release (.stream q x.issued), x.pc, 0⟩
  | none => s

/-- The saved position of unit u: i0 in elements, i1 to i4. -/
def posWords (d u : Nat) : Word64 × BitVec 16 :=
  let i := sdIndex d u
  let i0 := if sdBlocks d then i.1 * 32 else i.1
  (BitVec.ofNat 64 (packBits [(16, i0), (16, i.2.1), (16, i.2.2.1), (16, i.2.2.2.1)]), BitVec.ofNat 16 i.2.2.2.2)

/-- The unit of the oldest request that is not complete: the saved position (R168). -/
def oldestPos (x : Xfer) : Nat := x.inflight.foldl (fun m r => min m r.pos) (min x.pos (x.back.getD x.pos))

/-- `EV_STREAM_FAULT` (R170). -/
def streamFaultEv (q : Fin 256) (d : Nat) (x : Xfer) (addr status : Nat) : Ev :=
  let p := posWords d (oldestPos x)
  { type := 0x1006, status := status, severity := 3, scope := 2,
    items := [(16, q.val), (16, x.desc.toNat), (64, p.1.toNat), (16, p.2.toNat), (64, addr)] }

/-- The context that issued a transfer, SMT or descriptor faults, if it still runs that launch (log entry). -/
def faultIssuer (s : State) (t : Fin 192) (c : Fin 4) (n : Fin 16) (pc : Word32) (cause status : Nat) : State :=
  if (s.ctx t c).slot = some n then faultCtx s t c pc cause (some status) else s

/-- The context and events of a transfer that ends with an error. -/
def xferFault (s : State) (q : Fin 256) (x : Xfer) (addr status : Nat) : State :=
  let d := streamDesc s x.slot x.desc.toNat
  let s := emit s (streamFaultEv q d x addr status)
  faultIssuer s x.tile x.ctx x.slot x.pc 0x06 status

/-- What is left of a remote transfer in the fabric is dropped. -/
def dropRemote (s : State) (x : Xfer) : State :=
  match x.remote with
  | some n => dropXfer s (sdModule (streamDesc s x.slot x.desc.toNat)) n
  | none => s

/-- A queue whose transfer ends with an error: state 5, the shadow transfer dropped, no release (R170). -/
def failQueue (s : State) (q : Fin 256) (x : Xfer) : State :=
  let s := dropRemote (withdrawCredit s q x) x
  let p := posWords (streamDesc s x.slot x.desc.toNat) (oldestPos x)
  s.setQueue q { (s.queue q) with active := none, shadow := none, state := 5, deadlineMode := false, deadlineAt := 0, halted := false, posLo := p.1, posHi := p.2 }

/-- The active transfer ends with an error (R170). -/
def endXfer (s : State) (q : Fin 256) (addr status : Nat) : State :=
  match (s.queue q).active with
  | none => s
  | some x => xferFault (failQueue s q x) q x addr status

/-- A drain transfer of a context has completed: it retires a rank for the context; the rank is retired once every such
context has retired it, and the next rank of the window is marked pending (R203). -/
def retireRank (s : State) (x : Xfer) : State :=
  let img := (s.slot x.slot).image
  let ranks := (wpLayers img).length
  let ix := fun (t c : Nat) => x.slot.val * 1024 + t * 4 + c
  let me := ix x.tile.val x.ctx.val
  let n := tabGet 0 s.tiers.drains me
  let s := { s with tiers := { s.tiers with drains := tabPut 0 s.tiers.drains me (n + 1) } }
  if ranks = 0 then s
  else if (drainContexts img).all (fun p => decide (n + 1 ≤ tabGet 0 s.tiers.drains (ix p.1 p.2))) then
    let r := n % ranks
    let w := wpWindowOf img
    let next := (r + w) % ranks
    let s := { s with tiers := { s.tiers with retired := (s.tiers.retired.filter (fun p => p != (x.slot, r) && p != (x.slot, next))) ++ (if next = r then [] else [(x.slot, r)]) } }
    (rankGrains img next).foldl (fun s g => requestPromotion s g 0x3FF 1 4) s
  else s

/-- The active transfer has completed (R159): release, drain report, and the shadow transfer. -/
def completeXfer (s : State) (q : Fin 256) : State :=
  match (s.queue q).active with
  | none => s
  | some x =>
    let s := signalRelease s q x
    let s := if sdDrain (streamDesc s x.slot x.desc.toNat) then retireRank s x else s
    nextActive s q

/-- Completes the transfer once nothing of it is left to request or under way. -/
def checkComplete (s : State) (q : Fin 256) : State :=
  match (s.queue q).active with
  | none => s
  | some x =>
    let d := streamDesc s x.slot x.desc.toNat
    if x.started && decide (sdUnits d ≤ x.pos) && x.back.isNone && x.inflight.isEmpty && x.remote.isNone then completeXfer s q else s

/-! Remote destinations (R156, R355, R359). -/

/-- The SIGNAL of a remote transfer whose WRITE packets have all been sent. -/
def sendSignal (s : State) (q : Fin 256) (x : Xfer) (d : Nat) (n : BitVec 16) : State :=
  sendKept s q { kind := 1, dst := BitVec.ofNat 12 (sdModule d), cls := Fin.ofNat 4 (sdClass d), domain := BitVec.ofNat 10 (slotDomain s x.slot), xfer := n, index := x.packets, address := sdSignal d, aux := x.packets }

/-- The egress check: none, or the status the transfer ends with (R359). -/
def egress (s : State) (m : Nat) : Option Nat :=
  if !isMember s m then some stDenied else if (possibleSet s m).isEmpty then some stAbandoned else none

/-- A transfer number for a remote transfer, if fewer than 256 are unacknowledged. -/
def openRemote (s : State) (q : Fin 256) (m : Nat) : State :=
  if openXfers s m < 256 then
    let p := takeXferNo s m
    p.1.modQueue q (fun r => { r with active := r.active.map (fun x => { x with remote := some p.2 }) })
  else s

/-! Starting. -/

/-- `TRANSFER_START` (R159, R160): the credit is here, or none is needed. -/
def execTransferStart (q : Fin 256) (s : State) : Outcome :=
  let r := s.queue q
  match r.active with
  | none => .next s
  | some x =>
    if x.started then .next s
    else if x.credit = .abandoned then .next (endXfer s q 0 stAbandoned)
    else if x.credit ≠ .granted ∨ ctxStopped s x.tile x.ctx then .next s
    else
      let d := streamDesc s x.slot x.desc.toNat
      let y := { x with started := true, pos := if x.zero then sdUnits d else 0 }
      let s := s.setQueue q { r with active := some y, state := 2 }
      if x.zero then
        if sdIsRemote d then
          match egress s (sdModule d) with
          | some st => .next (endXfer s q (xBaseDst d y) st)
          | none =>
            let s := openRemote s q (sdModule d)
            match (s.queue q).active.bind (·.remote) with
            | some n => .next (sendSignal s q y d n)
            | none => .next s
        else .next (checkComplete s q)
      else .next s

/-! Halts (R168, R169). -/

/-- Saves the position, the oldest request not complete, and enters state 3 once no request of the halting transfer is
under way. -/
def settleHalt (s : State) (q : Fin 256) : State :=
  let r := s.queue q
  match r.active with
  | none => s
  | some x =>
    let stopped := x.haltAt.isSome || (s.ctx x.tile x.ctx).pre != .none
    if stopped && x.inflight.isEmpty && r.state == 2 then
      let p := posWords (streamDesc s x.slot x.desc.toNat) (oldestPos x)
      s.setQueue q { r with state := 3, halted := true, posLo := p.1, posHi := p.2, active := some { x with pos := oldestPos x, back := none } }
    else s

/-- A request of the transfer meets a held grain: it stops issuing, and the halt is counted once. -/
def haltXfer (s : State) (q : Fin 256) (addr : Nat) (write : Bool) : State :=
  match (s.queue q).active with
  | none => s
  | some x =>
    if x.haltAt.isSome then settleHalt s q
    else settleHalt ((count s (0x2500 + q.val)).modQueue q (fun r => { r with active := r.active.map (fun y => { y with haltAt := some (addr, write) }) })) q

/-- Requests of the active transfer that are dropped to be issued again (R168). -/
def backOut (s : State) (q : Fin 256) (p : StreamReq → Bool) : State :=
  s.modQueue q (fun r => { r with active := r.active.map (fun x =>
    { x with inflight := x.inflight.filter (fun i => !p i),
             back := (x.inflight.filter p).foldl (fun b i => some (min i.pos (b.getD i.pos))) x.back }) })

/-- `STREAM_RESUME` (R169, R171): the grain is released, or the context restored. -/
def execStreamResume (q : Fin 256) (s : State) : Outcome :=
  let r := s.queue q
  match r.active with
  | none => .next s
  | some x =>
    let held := x.haltAt.any (fun a => inGrains a.1 &&
      (let w := grainAccess s (grainOf a.1) (slotDomain s x.slot) a.2 false; w == .held))
    let live := !ctxStopped s x.tile x.ctx
    if r.state = 3 && !held && live then
      .next (s.setQueue q { r with state := 2, halted := false, active := some { x with haltAt := none } })
    else .next s

/-! Tun (R179 to R181). -/

def tunSet (s : State) (die : Fin 4) (line : Nat) : List TunLine := tabGet [] s.streams.tun (tunIx die line)
def setTunSet (s : State) (die : Fin 4) (line : Nat) (l : List TunLine) : State :=
  { s with streams := { s.streams with tun := tabPut [] s.streams.tun (tunIx die line) l } }

/-- What a cacheable read meets in its die's Tun. -/
inductive TunAccess where
  | hit | domain | join | allocate | wait
  deriving DecidableEq, Repr

def tunMeet (s : State) (die : Fin 4) (line d : Nat) : TunAccess :=
  match (tunSet s die line).find? (fun e => e.line.toNat == line) with
  | some e => if domainOk d e.domain.toNat false then .hit else .domain
  | none =>
    match s.streams.fills.find? (fun f => f.die == die && f.line.toNat == line) with
    | some f => if !domainOk d f.domain.toNat false then .domain else if f.waiters < 64 then .join else .wait
    | none => if (s.streams.fills.filter (fun f => f.die = die)).length < 512 then .allocate else .wait

/-- A hit makes its line the most recently used of its set. -/
def tunTouch (s : State) (die : Fin 4) (line : Nat) : State :=
  let l := tunSet s die line
  match l.find? (fun e => e.line.toNat == line) with
  | some e => count (setTunSet s die line (e :: l.erase e)) (0x2800 + die.val)
  | none => s

/-- A miss allocates a fill entry, or joins one. -/
def tunFill (s : State) (die : Fin 4) (line dom : Nat) (join : Bool) : State :=
  let u := s.streams
  if join then
    count { s with streams := { u with fills := u.fills.map (fun f =>
      if f.die = die ∧ f.line.toNat = line then { f with waiters := f.waiters + 1 } else f) } } (0x2A00 + die.val)
  else
    count (bumpIssue { s with streams := { u with fills := u.fills ++
      [{ die := die, line := BitVec.ofNat 38 line, domain := BitVec.ofNat 10 dom, waiters := 1, ord := u.issues, since := s.time.now }] } }) (0x2900 + die.val)

/-- A read from the device range by a unit of a die: what it meets, whether it now waits for a fill, or must wait for
one to free. -/
inductive ReadMeet where
  | data | filling | later
  | ended (a : Access)
  deriving DecidableEq, Repr

def devReadMeet (s : State) (die : Fin 4) (a n d : Nat) : State × ReadMeet :=
  let line := a / 1024
  let memory := fun (s : State) =>
    let r := devMeet s a n d false (die5 die)
    (r.1, if r.2 = .served then ReadMeet.data else .ended r.2)
  if inGrains a && (s.grain (grainOf a)).cacheable then
    match tunMeet s die line d with
    | .hit => (tunTouch s die line, .data)
    | .domain => (s, .ended .domain)
    | .wait => (s, .later)
    | .join => (tunFill s die line 0 true, .filling)
    | .allocate =>
      let r := memory s
      if r.2 = .data then (tunFill r.1 die line (s.grain (grainOf a)).domain.toNat false, .filling) else r
  else memory s

/-- What the pieces of a read have met so far: the lines they wait for, the lines that have served them, the ranges read
from memory, and the address of the piece that could not be read. -/
structure ReadAcc where
  st : State
  meet : ReadMeet := .data
  fills : List (BitVec 38) := []
  hits : List (BitVec 38) := []
  reads : List (Nat × Nat) := []
  addr : Nat := 0

/-- The line of a device address. -/
def lineOf (a : Nat) : BitVec 38 := BitVec.ofNat 38 (a / 1024)

/-- One more piece of a read by a unit of a die under a domain; a line in `have'` has served it already. -/
def readPiece (die : Fin 4) (dom : Nat) (have' : List (BitVec 38)) (r : ReadAcc) (p : Nat × Nat) : ReadAcc :=
  if r.meet != .data && r.meet != .filling then r
  else if have'.contains (lineOf p.1) then r
  else
    let m := devReadMeet r.st die p.1 p.2 dom
    match m.2 with
    | .data =>
      if inGrains p.1 && (m.1.grain (grainOf p.1)).cacheable then { r with st := m.1, hits := r.hits ++ [lineOf p.1] }
      else { r with st := m.1, reads := r.reads ++ [p] }
    | .filling => { r with st := m.1, meet := .filling, fills := r.fills ++ [lineOf p.1] }
    | o => { r with st := m.1, meet := o, addr := p.1 }

def readPieces (s : State) (die : Fin 4) (dom : Nat) (have' : List (BitVec 38)) (l : List (Nat × Nat)) : ReadAcc :=
  l.foldl (readPiece die dom have') { st := s }

/-- What writes, or reads past the Tun, of ranges of the device range meet, one after the other: the first that is not
served, with its address. -/
def meetRanges (dom : Nat) (write : Bool) (die : Fin 5) : List (Nat × Nat) → State → State × Access × Nat
  | [], s => (s, .served, 0)
  | p :: t, s =>
    let m := devMeet s p.1 p.2 dom write die
    if m.2 = .served then meetRanges dom write die t m.1 else (m.1, m.2, p.1)

/-! Requests (R149, R161, R168). -/

/-- Request slots that a queue's transfer holds. -/
def Xfer.slots (x : Xfer) : Nat := (x.inflight.map (·.slots)).sum

/-- Request slots of a die that its queues hold (R161). -/
def slotsUsed (s : State) (die : Fin 4) : Nat :=
  ((allQueues.filter (fun q => queueDie q = die)).map (fun q => ((s.queue q).active.map (·.slots)).getD 0)).sum

/-- The bytes of a request as they arrive at the destination, with the scale bytes of FP4 blocks (R153).  FP4 to FP16
and INT8 to FP4, which Table 2.5 does not name, are the model's choice (log entry 99). -/
def convertRun (d : Nat) (raw : List Byte) (scales : List Byte) : List Byte × List Byte :=
  let fs := sdFmtSrc d
  let fd := sdFmtDst d
  if fs = fd then (raw, scales)
  else
    let vals : List Val :=
      if fs = 6 then ((pieces 16 raw).zip scales).flatMap (fun p => fp4Block p.2.toNat p.1) else elemsOf fs raw
    if fd = 6 then
      let blocks := (pieces 32 vals).map toFp4
      (blocks.flatMap (fun b => fp4Pack b.2), blocks.map (fun b => BitVec.ofNat 8 b.1))
    else (elemsBytes fd vals, [])

/-- The status a refused access ends a transfer with. -/
def Access.status : Access → Nat
  | .refused st => st
  | .domain => stDenied
  | _ => stOk

/-- Where the scale bytes of a run's blocks lie. -/
def runScales (d base a n : Nat) (tile : Bool) : List Nat :=
  (List.range n).map (fun i => scaleAddr d base (a + 16 * i) tile)

/-- The first address of a list that a predicate refuses. -/
def firstBad (p : Nat → Bool) (l : List Nat) : Option Nat := l.find? (fun a => !p a)

/-- What the destination of a run meets when its request is issued: data and scale bytes; the address that is not
served. -/
def dstMeet (s : State) (q : Fin 256) (d : Nat) (x : Xfer) (dom : Nat) (a n : Nat) : State × Access × Nat :=
  let len := n * unitBytes d (sdFmtDst d)
  if sdKindDst d = 1 then
    let base := xBaseDst d x
    let sc := if sdFmtDst d = 6 then runScales d base a n true else []
    if !sramMeet q base a len true then (s, .refused stBadArg, a)
    else match firstBad (fun b => sramMeet q base b 1 true) sc with
      | some b => (s, .refused stBadArg, b)
      | none => (s, .served, 0)
  else if sdKindDst d = 2 then
    match egress s (sdModule d) with
    | some st => (s, .refused st, a)
    | none => (s, .served, 0)
  else
    let sc := if sdFmtDst d = 6 then pieces256 (runScale d (xBaseDst d x) a) n else []
    meetRanges dom true (die5 (queueDie q)) (pieces256 a len ++ sc) s

/-- Puts a request under way and sends its packets if its destination is remote: its data and, for FP4, its scale bytes
(R154, R156). -/
def pushRequest (s : State) (q : Fin 256) (d : Nat) (x : Xfer) (r : StreamReq) : State :=
  let last := decide (sdUnits d ≤ x.pos + r.count)
  let p := nextIssue s
  let idx := if x.remote.isNone then [] else if r.scales.isEmpty then [x.packets] else [x.packets, x.packets + 1]
  let y := { x with pos := x.pos + r.count, inflight := x.inflight ++ [{ r with ord := p.2, since := s.time.now, packets := idx }], packets := x.packets + idx.length }
  let s := p.1.modQueue q (fun w => { w with active := some y })
  match x.remote with
  | none => s
  | some num =>
    let send := fun (s : State) (i a : Nat) (l : List Byte) =>
      sendKept s q { kind := 0, dst := BitVec.ofNat 12 (sdModule d), cls := Fin.ofNat 4 (sdClass d), domain := BitVec.ofNat 10 (slotDomain s x.slot), xfer := num, index := i, address := a, payload := l }
    let s := send s x.packets r.dst r.bytes
    let s := match r.scales with
      | [] => s
      | e :: _ => send s (x.packets + 1) e.1 (r.scales.map (·.2))
    if last then sendSignal s q y d num else s

/-- The source of a run as its request is issued: the bytes, the scale bytes and what the read meets. -/
structure SrcRead where
  acc : ReadAcc
  bytes : List Byte := []
  scales : List Byte := []

/-- Reads the source of a run of n units at address a: its data and the scale bytes of FP4 blocks. -/
def srcRead (s : State) (q : Fin 256) (d : Nat) (x : Xfer) (dom a n : Nat) : SrcRead :=
  let len := n * unitBytes d (sdFmtSrc d)
  let base := xBaseSrc d x
  if sdKindSrc d = 1 then
    let sc := if sdFmtSrc d = 6 then runScales d base a n true else []
    let bad := fun (b : Nat) => ({ acc := { st := s, meet := .ended (.refused stBadArg), addr := b } } : SrcRead)
    if !sramMeet q base a len false then bad a
    else match firstBad (fun b => sramMeet q base b 1 false) sc with
      | some b => bad b
      | none =>
        if readHeld s (tileOf a) (saOff a) len || sc.any (fun b => readHeld s (tileOf b) (saOff b) 1) then { acc := { st := s, meet := .later } }
        else { acc := { st := s }, bytes := s.sramRead (tileOf a) (saOff a) len, scales := sc.flatMap (fun b => s.sramRead (tileOf b) (saOff b) 1) }
  else
    let b := runScale d base a
    let r := readPieces s (queueDie q) dom [] (pieces256 a len ++ (if sdFmtSrc d = 6 then pieces256 b n else []))
    { acc := r, bytes := devLoad r.st a len, scales := if sdFmtSrc d = 6 then r.st.devRead b n else [] }

/-- One request of the active transfer (R168): it proceeds, halts the transfer, or ends it. -/
def issueRequest (s : State) (q : Fin 256) (d : Nat) (x : Xfer) : State :=
  let dom := slotDomain s x.slot
  let u := x.pos
  let n := runLength d x u
  let a := xSrc d x u
  let b := xDst d x u
  let w := dstMeet s q d x dom b n
  match w.2.1 with
  | .held => haltXfer w.1 q w.2.2 true
  | .served =>
    let r := srcRead w.1 q d x dom a n
    match r.acc.meet with
    | .later => s
    | .ended .held => haltXfer r.acc.st q r.acc.addr false
    | .ended o => endXfer r.acc.st q r.acc.addr o.status
    | _ =>
      let c := convertRun d r.bytes r.scales
      let sc := if sdFmtDst d = 6 then runScales d (xBaseDst d x) b n (sdKindDst d = 1) else []
      pushRequest r.acc.st q d x { pos := u, count := n, dst := b, bytes := c.1, scales := sc.zip c.2, fills := r.acc.fills, reads := r.acc.reads, slots := runSlots d x u n }
  | o => endXfer w.1 q w.2.2 o.status

/-- The next request of the transfer could not be issued now: R64 or a full Tun holds its read, or its remote destination
has 256 transfers not acknowledged. -/
def issueWaits (s : State) (q : Fin 256) (d : Nat) (x : Xfer) : Bool :=
  let dom := slotDomain s x.slot
  if sdIsRemote d && x.remote.isNone && (egress s (sdModule d)).isNone && decide (256 ≤ openXfers s (sdModule d)) then true
  else
    let w := dstMeet s q d x dom (xDst d x x.pos) (runLength d x x.pos)
    w.2.1 == .served && (srcRead w.1 q d x dom (xSrc d x x.pos) (runLength d x x.pos)).acc.meet == .later

/-- A queue asks for a request slot: its transfer sends requests, has one left that could be issued, and is below its
limit; a request of several slots may start from an empty queue. -/
def wantsSlot (s : State) (q : Fin 256) : Bool :=
  let r := s.queue q
  match r.active with
  | none => false
  | some x =>
    let d := streamDesc s x.slot x.desc.toNat
    x.started && r.state == 2 && x.haltAt.isNone && !ctxStopped s x.tile x.ctx && decide (x.pos < sdUnits d) &&
      (let k := runSlots d x x.pos (runLength d x x.pos)
       decide (0 < r.limit.toNat) && (decide (x.slots + k ≤ r.limit.toNat) || x.inflight.isEmpty) && decide (slotsUsed s (queueDie q) + k ≤ 16384)) &&
      !issueWaits s q d x

/-- The queue of a die that gets the next request slot (R173): the deadline-mode queue with the earliest deadline, the
marked queue whose mark is oldest, else the next in turn.  The small-transfer queue has slots of its own. -/
def slotGrant (s : State) (die : Fin 4) : Option (Fin 256) :=
  let l := allQueues.filter (fun q => queueDie q = die ∧ wantsSlot s q = true)
  let first := (l.filter (fun q => (s.queue q).deadlineMode)).foldl (fun b q =>
    match b with
    | none => some q
    | some p => if (s.queue q).deadlineAt < (s.queue p).deadlineAt then some q else some p) none
  let turn := tabGet 63 s.streams.turn die.val
  let rest := l.filter (fun q => !(s.queue q).deadlineMode && !(s.queue q).fillMark)
  first.orElse (fun _ => (s.streams.marks.find? l.contains).orElse (fun _ =>
    (rest.find? (fun q => decide (turn < q.val % 64))).orElse (fun _ => rest.head?)))

/-- Round robin goes on from the queue served. -/
def takeTurn (s : State) (q : Fin 256) : State :=
  let r := s.queue q
  if r.deadlineMode || r.fillMark then s
  else { s with streams := { s.streams with turn := tabPut 63 s.streams.turn (queueDie q).val (q.val % 64) } }

/-- `STREAM_REQUEST_ISSUE` (R161, R168, R173): the queue that gets the slot issues its next request. -/
def execStreamRequestIssue (q : Fin 256) (s : State) : Outcome :=
  match (s.queue q).active with
  | none => .next s
  | some x =>
    if slotGrant s (queueDie q) = some q then
      let d := streamDesc s x.slot x.desc.toNat
      let s := takeTurn s q
      if sdIsRemote d && x.remote.isNone then
        match egress s (sdModule d) with
        | some st => .next (endXfer s q (xDst d x x.pos) st)
        | none =>
          let s := openRemote s q (sdModule d)
          match (s.queue q).active with
          | some y => if y.remote.isSome then .next (issueRequest s q d y) else .next s
          | none => .next s
      else .next (issueRequest s q d x)
    else .next s

/-! Order of accesses under way (R12, R16, R64). -/

/-- The ranges of the device range that a request writes. -/
def StreamReq.writes (r : StreamReq) : List (Nat × Nat) := pieces256 r.dst r.bytes.length ++ r.scales.map (fun e => (e.1, 1))

/-- The one or two requests of an SMT: no request crosses a 256-byte boundary of the device address. -/
def smtParts (m : Smt) : List (Nat × Nat × Nat) :=
  let k := 256 - m.dev % 256
  if m.len ≤ k then [(m.dev, m.sram, m.len)] else [(m.dev, m.sram, k), (m.dev + k, m.sram + k, m.len - k)]

/-- An access of a die's unit at a device address goes over a die-to-die link: the frame is far or on another die's
stack, or the sync home is another die's. -/
def overLink (s : State) (die : Fin 4) (a : Nat) : Bool :=
  if inHomes a then decide (a / 2 ^ 32 % 4 ≠ die.val)
  else
    let x := s.grain (grainOf a)
    x.st == 4 || decide (x.stack.val / 6 ≠ die.val)

/-- Device-range writes of a die's stream engine that have been sent and not delivered: place in the order of issues and
ranges. -/
def sentWrites (s : State) (die : Fin 4) : List (Nat × List (Nat × Nat)) :=
  (allQueues.filter (fun q => queueDie q = die)).flatMap (fun q =>
    match (s.queue q).active with
    | none => []
    | some x =>
      if sdKindDst (streamDesc s x.slot x.desc.toNat) = 0 then
        (x.inflight.filter (fun r => r.fills.isEmpty)).map (fun r => (r.ord, r.writes))
      else []) ++
  (s.streams.smts.filter (fun m => m.toDevice && tileDie m.tile == die)).map (fun m =>
    (m.issued, (smtParts m).map (fun p => (p.1, p.2.2))))

/-- A link delivers the writes of one engine to one address in the order in which it sent them (R12): an earlier one is
still under way. -/
def linkHeld (s : State) (die : Fin 4) (ord : Nat) (l : List (Nat × Nat)) : Bool :=
  l.any (fun p => overLink s die p.1 && (sentWrites s die).any (fun e => decide (e.1 < ord) && hitsRange e.2 p.1 p.2))

/-- R64 or R12 holds the writes of a request that could otherwise complete. -/
def landHeld (s : State) (q : Fin 256) (d : Nat) (r : StreamReq) : Bool :=
  if sdKindDst d = 1 then
    writeHeld s (tileOf r.dst) (saOff r.dst) r.bytes.length || r.scales.any (fun e => writeHeld s (tileOf e.1) (saOff e.1) 1)
  else sdKindDst d = 0 && linkHeld s (queueDie q) r.ord r.writes

/-- An earlier instruction or SMT of the tile holds an SMT's access to its SRAM bytes (R64, R167). -/
def smtHeld (s : State) (m : Smt) : Bool :=
  (s.tile m.tile).ops.any (fun o => decide (o.ord < m.issued) && hitsRange (if m.toDevice then o.writes else o.reads) m.sram m.len) ||
  s.streams.smts.any (fun e => e.tile == m.tile && e.toDevice != m.toDevice && decide (e.issued < m.issued) && overlaps e.sram e.len m.sram m.len)

/-- An SMT holds its request slots: the die's 512, in the order of issues (R161). -/
def smtSlots (s : State) (m : Smt) : Bool :=
  let mine := s.streams.smts.filter (fun e => tileDie e.tile == tileDie m.tile && decide (e.issued ≤ m.issued))
  decide ((mine.map (fun e => (smtParts e).length)).sum ≤ 512)

/-- An SMT may make its access: it is the oldest of its context, has its slots and its lines, and nothing orders it behind
another access. -/
def smtReady (s : State) (m : Smt) : Bool :=
  (s.streams.smts.find? (fun e => e.tile == m.tile && e.ctx == m.ctx)) == some m && smtSlots s m && m.fills.isEmpty && !smtHeld s m &&
    !(m.toDevice && linkHeld s (tileDie m.tile) m.issued ((smtParts m).map (fun p => (p.1, p.2.2))))

/-- A request at the near-memory controllers: its place in the order of issues, the fabric time of its issue, whether it
is of the upper level, and the channels that it touches (R16). -/
structure ChanReq where
  ord : Nat
  since : Nat
  upper : Bool
  chans : List Nat
  deriving DecidableEq, Repr

/-- The requests of streams, SMTs and Tun fills that only the controllers still hold back. -/
def chanReqs (s : State) : List ChanReq :=
  allQueues.flatMap (fun q =>
    let w := s.queue q
    match w.active with
    | none => []
    | some x =>
      let d := streamDesc s x.slot x.desc.toNat
      (x.inflight.filter (fun r => r.fills.isEmpty && r.packets.isEmpty && !landHeld s q d r)).map (fun r =>
        { ord := r.ord, since := r.since.toNat, upper := w.deadlineMode,
          chans := (r.reads ++ (if sdKindDst d = 0 then r.writes else [])).flatMap (fun p => rangeChannels s p.1 p.2) })) ++
  (s.streams.smts.filter (smtReady s)).map (fun m =>
    { ord := m.issued, since := m.since.toNat, upper := false, chans := (smtParts m).flatMap (fun p => rangeChannels s p.1 p.2.2) }) ++
  s.streams.fills.map (fun f =>
    { ord := f.ord, since := f.since.toNat,
      upper := (allQueues.filter (fun q => queueDie q = f.die)).any (fun q => (s.queue q).deadlineMode &&
        (s.queue q).active.any (fun x => x.inflight.any (fun r => r.fills.contains f.line)))
      chans := rangeChannels s (f.line.toNat * 1024) 1024 })

/-- The request that a channel serves next (R16): the oldest of the upper level, else of the lower level; but the oldest of
the lower level once that has waited 4 µs behind upper-level requests. -/
def chanNext (now : Nat) (l : List ChanReq) : Option ChanReq :=
  let oldest := fun (l : List ChanReq) => l.foldl (fun b r =>
    match b with
    | none => some r
    | some p => if r.ord < p.ord then some r else some p) (none : Option ChanReq)
  let up := l.filter (·.upper)
  let low := oldest (l.filter (fun r => !r.upper))
  if low.any (fun r => decide (r.since + 4000 < now)) then low else (oldest up).orElse (fun _ => low)

/-- Every channel that a request touches serves it next. -/
def mayServe (s : State) (ord : Nat) : Bool :=
  let l := chanReqs s
  match l.find? (fun r => r.ord == ord) with
  | none => true
  | some me => me.chans.all (fun ch => (chanNext s.time.now.toNat (l.filter (fun r => r.chans.contains ch))).map (·.ord) == some ord)

/-- The write of a request at its destination; the address that is not served. -/
def landRequest (s : State) (q : Fin 256) (d : Nat) (x : Xfer) (r : StreamReq) : State × Access × Nat :=
  if sdKindDst d = 1 then
    let s := s.sramWrite (tileOf r.dst) (saOff r.dst) r.bytes
    (r.scales.foldl (fun s e => s.sramWrite (tileOf e.1) (saOff e.1) [e.2]) s, .served, 0)
  else
    let m := meetRanges (slotDomain s x.slot) true (die5 (queueDie q)) r.writes s
    if m.2.1 ≠ .served then m
    else
      let w := devWrite m.1 r.dst r.bytes 1 q.val 0
      if w.2 then (r.scales.foldl (fun s e => devStore s e.1 [e.2]) w.1, .served, 0) else (w.1, .refused stBadArg, r.dst)

/-- Adds to a register that sticks at its largest value (Table 18.8). -/
def stick64 (v : Word64) (n : Nat) : Word64 := BitVec.ofNat 64 (min (v.toNat + n) (2 ^ 64 - 1))

/-- A request of the active transfer has completed: its bytes, scale bytes among them, are visible and its slots are free.
Bytes that an earlier issue of the request has made visible do not count again (log entry 109). -/
def requestDone (s : State) (q : Fin 256) (r : StreamReq) : State :=
  s.modQueue q (fun w =>
    match w.active with
    | none => w
    | some x =>
      let n := if x.doneAt.contains r.pos then 0 else r.bytes.length + r.scales.length
      let y := { x with inflight := x.inflight.erase r, moved := x.moved + n }
      let low := oldestPos y
      { w with bytes := stick64 w.bytes n, active := some { y with doneAt := (r.pos :: x.doneAt.filter (· != r.pos)).filter (fun p => decide (low ≤ p)) } })

/-- A request that meets a held grain as it lands halts its transfer and is issued again (R168, R169). -/
def haltLanding (s : State) (q : Fin 256) (r : StreamReq) (addr : Nat) : State :=
  haltXfer (backOut s q (fun i => i == r)) q addr true

/-- `STREAM_REQUEST_COMPLETE` (R161): request k of those under way completes, unless an order of accesses still holds it; at
the last one the transfer does. -/
def execStreamRequestComplete (q : Fin 256) (k : Nat) (s : State) : Outcome :=
  match (s.queue q).active with
  | none => .next s
  | some x =>
    match x.inflight[k]? with
    | none => .next s
    | some r =>
      let d := streamDesc s x.slot x.desc.toNat
      if !r.fills.isEmpty || !r.packets.isEmpty || landHeld s q d r || !mayServe s r.ord then .next s
      else
        let w := landRequest s q d x r
        match w.2.1 with
        | .held => .next (haltLanding w.1 q r w.2.2)
        | .served => .next (settleHalt (checkComplete (requestDone w.1 q r) q) q)
        | o => .next (endXfer w.1 q w.2.2 o.status)

/-! Drain points (R178). -/

/-- `DRAIN_READY`: every earlier transfer and SMT of the context has completed or ended. -/
def execDrainReady (q : Fin 256) (s : State) : Outcome :=
  let r := s.queue q
  match r.active with
  | none => .next s
  | some x =>
    let busy := allQueues.any (fun p => (s.queue p).xfers.any (fun y => y.tile == x.tile && y.ctx == x.ctx && decide (y.issued < x.issued))) ||
      s.streams.smts.any (fun m => m.tile == x.tile && m.ctx == x.ctx && decide (m.issued < x.issued))
    if r.state = 4 && !busy && !ctxStopped s x.tile x.ctx then .next (takeCredit s q) else .next s

/-! Deadlines (R172 to R174). -/

/-- Destination bytes of a transfer, scale bytes among them. -/
def xferBytes (d : Nat) : Nat := sdUnits d * (unitBytes d (sdFmtDst d) + if sdFmtDst d = 6 then 1 else 0)

/-- `DEADLINE_EXPIRY` (R174): reported once; contexts that spin on the transfer's release object are switched out. -/
def execDeadlineExpiry (q : Fin 256) (s : State) : Outcome :=
  let r := s.queue q
  match r.active with
  | none => .next s
  | some x =>
    if r.deadlineAt != 0 && !x.missed then
      let d := streamDesc s x.slot x.desc.toNat
      let s := s.setQueue q { r with deadlineMissed := true, active := some { x with missed := true } }
      let s := count s (0x2600 + q.val)
      let s := emit s { type := 0x1007, severity := 2, scope := 1, items := [(16, q.val), (16, x.desc.toNat), (64, r.deadlineAt.toNat), (64, s.time.now.toNat), (32, (if x.zero then 0 else xferBytes d) - x.moved)] }
      match xferRelease s x with
      | none => .next s
      | some a =>
        .next (resched (s.forAll allCtx (fun s c =>
          let y := s.ctx x.tile c
          if y.st = .spinning ∧ y.wait.any (fun w => w.obj == a) then s.setCtx x.tile c { y with spunOut := true } else s)) x.tile)
    else .next s

/-! The credit watchdog (R175, R176). -/

/-- Whether a queue can be part of a cycle: not halted, its context not HALTED. -/
def inCycle (s : State) (q : Fin 256) (x : Xfer) : Bool := (s.queue q).state == 1 && (s.ctx x.tile x.ctx).st != .halted

/-- Transfers in state 1 or in a shadow slot behind one, by die then local queue: queue, shadow, transfer. -/
def waitingXfers (s : State) : List (Fin 256 × Bool × Xfer) :=
  allQueues.flatMap (fun q =>
    let r := s.queue q
    match r.active with
    | some x => if inCycle s q x then (q, false, x) :: (r.shadow.map (fun y => (q, true, y))).toList else []
    | none => [])

/-- Follows the chain of R175 until it closes. -/
def chainFrom (s : State) (all : List (Fin 256 × Bool × Xfer)) :
    Nat → List (Fin 256 × Bool × Xfer) → Fin 256 × Bool × Xfer → List (Fin 256 × Bool × Xfer)
  | 0, _, _ => []
  | f + 1, chain, e =>
    match xferConsume s e.2.2 with
    | none => []
    | some a =>
      match all.find? (fun r => xferRelease s r.2.2 = some a) with
      | none => []
      | some r =>
        if chain.contains r then chain.dropWhile (fun c => c != r)
        else chainFrom s all f (chain ++ [r]) r

/-- The transfer of a cycle to abort (R176): lowest priority, then latest in state 1, then highest queue. -/
def cycleVictim (s : State) (l : List (Fin 256 × Bool × Xfer)) : Option (Fin 256 × Bool × Xfer) :=
  l.foldl (fun b e =>
    match b with
    | none => some e
    | some v =>
      let p := fun (w : Fin 256 × Bool × Xfer) => (s.ctx w.2.2.tile w.2.2.ctx).prio.toNat
      if p e < p v ∨ (p e = p v ∧ (v.2.2.entered < e.2.2.entered ∨ (v.2.2.entered = e.2.2.entered ∧ v.1 < e.1))) then some e
      else some v) none

/-- `EV_CREDIT_CYCLE` (R176). -/
def creditCycleEv (s : State) (l : List (Fin 256 × Bool × Xfer)) (v : Fin 256 × Bool × Xfer) : Ev :=
  let l := l.take 16
  { type := 0x1008, status := stAbandoned, severity := 3, scope := 2,
    items := [(8, l.length)] ++ l.map (fun e => (16, e.1.val)) ++ [(16, v.1.val), (16, v.2.2.desc.toNat), (8, l.length)] ++
      l.map (fun e => (64, (xferConsume s e.2.2).getD 0)) }

/-- `CREDIT_WATCH_EXPIRY` (R175, R176). -/
def execCreditWatchExpiry (q : Fin 256) (s : State) : Outcome :=
  let r := s.queue q
  match r.active with
  | none => .next s
  | some x =>
    if !inCycle s q x then .next s
    else
      let all := waitingXfers s
      let cyc := chainFrom s all (all.length + 1) [(q, false, x)] (q, false, x)
      match cycleVictim s cyc with
      | none => .next s
      | some v =>
        let s := emit s (creditCycleEv s cyc v)
        let s := signalRelease s v.1 v.2.2
        if v.2.1 then
          .next (xferFault (s.modQueue v.1 (fun r => { r with shadow := none })) v.1 v.2.2 0 stAbandoned)
        else .next (endXfer s v.1 0 stAbandoned)

/-! Firmware's abort (R162). -/

/-- Drops both transfers of a queue, withdrawing the credit take that has moved no data. -/
def abortQueue (s : State) (q : Fin 256) : State :=
  let r := s.queue q
  let s := match r.active with
    | some x => dropRemote (withdrawCredit s q x) x
    | none => s
  s.setQueue q { r with active := none, shadow := none, state := 0, deadlineMode := false, deadlineAt := 0, halted := false }

/-- `STQ_CTL_ABORT` (R162, R508). -/
def execStqCtlAbort (q : Fin 256) (s : State) : Outcome :=
  .next ((abortQueue s q).modQueue q (fun r => { r with enable := false }))

/-! Tun fills. -/

/-- The queues of a die. -/
def dieQueues (die : Fin 4) : List (Fin 256) := allQueues.filter (fun q => queueDie q = die)

/-- The requests that wait for a line have one line fewer to wait for. -/
def serveFill (s : State) (die : Fin 4) (line : BitVec 38) : State :=
  let s := s.forAll (dieQueues die) (fun s q =>
    let r := s.queue q
    s.setQueue q { r with active := r.active.map (fun x => { x with inflight := x.inflight.map (fun i => { i with fills := i.fills.filter (· != line) }) }) })
  { s with streams := { s.streams with smts := s.streams.smts.map (fun m =>
      if tileDie m.tile == die && m.fills.contains line then { m with fills := m.fills.filter (· != line), filled := m.filled ++ [line] } else m) } }

/-- Small transfers that wait for a line that does not come try again. -/
def dropFill (s : State) (die : Fin 4) (line : BitVec 38) : State :=
  { s with streams := { s.streams with smts := s.streams.smts.map (fun m =>
      if tileDie m.tile == die then { m with fills := m.fills.filter (· != line) } else m) } }

/-- The transfers of a die with a request that waits for a line, each with that request's source address. -/
def fillWaiters (s : State) (die : Fin 4) (line : BitVec 38) : List (Fin 256 × Nat) :=
  (dieQueues die).filterMap (fun q => (s.queue q).active.bind (fun x =>
    (x.inflight.find? (fun i => i.fills.contains line)).map (fun i => (q, xSrc (streamDesc s x.slot x.desc.toNat) x i.pos))))

/-- Transfers that wait for a line of a poisoned grain end (R209). -/
def failFill (s : State) (die : Fin 4) (line : BitVec 38) : State :=
  (dropFill s die line).forAll (fillWaiters s die line) (fun s e => endXfer s e.1 e.2 stPoisoned)

/-- Transfers that wait for a line of a held grain halt (Table 6.9). -/
def haltFill (s : State) (die : Fin 4) (line : BitVec 38) : State :=
  (dropFill s die line).forAll (fillWaiters s die line) (fun s e =>
    haltXfer (backOut s e.1 (fun i => i.fills.contains line)) e.1 (line.toNat * 1024) false)

/-- `TUN_FILL_COMPLETE` (R179, R180, R182, R209): the line enters its set, the least recently used leaving it, unless it
was invalidated meanwhile; waiters are served.  The waiters of a fill whose grain is held halt, those of a poisoned grain
end. -/
def execTunFillComplete (die : Fin 4) (line : BitVec 38) (s : State) : Outcome :=
  match s.streams.fills.find? (fun f => f.die == die && f.line == line) with
  | none => .next s
  | some f =>
    if !mayServe s f.ord then .next s
    else
      let g := line.toNat / 64
      let st := (s.grain g).st
      let s := { s with streams := { s.streams with fills := s.streams.fills.erase f } }
      if st = 9 then .next (failFill s die line)
      else if grainHolds s g then .next (haltFill (startBacking s g f.domain.toNat (die5 die)) die line)
      else
        let s := if f.stale then s else setTunSet s die line.toNat ((⟨line, f.domain⟩ :: tunSet s die line.toNat).take 16)
        .next (serveFill s die line)

/-! Small transfers (R166 to R168). -/

/-- `SMT` (R166): a ninth of one context holds its issue. -/
def execSmt (u : Issue) (f : SmtFields) (s : State) : Outcome :=
  .next (issue s u (fun x =>
    let len := f.lengthM1.toNat + 1
    let off := effOff x f.region f.aS f.off.toNat
    match x.slot with
    | none => issueFault s u x 0x01 none
    | some n =>
      if !inRegion f.region.toNat off len || (!f.toDevice && f.region == 3) then issueFault s u x 0x01 none
      else if 8 ≤ openSmts s u.tile u.ctx then s
      else
        let p := nextIssue s
        let m : Smt := { tile := u.tile, ctx := u.ctx, slot := n, pc := x.pc, toDevice := f.toDevice, sram := off, dev := (x.getA f.aD + f.devOff.signExtend 64).toNat, len := len, issued := p.2, since := s.time.now }
        advance { p.1 with streams := { p.1.streams with smts := p.1.streams.smts ++ [m] } } u.tile u.ctx))

/-- Addresses of the hub windows: sequence operations (R260) and pass records (R278). -/
def seqWindow : Nat := 0xFFFE00000000
def passWindow : Nat := 0xFFFE00010000

/-- An SMT is done: later signals of its context wait for one fewer (R333), and the context may settle. -/
def smtDone (s : State) (m : Smt) : State :=
  let t := m.tile
  let c := m.ctx
  let s := { s with streams := { s.streams with smts := s.streams.smts.erase m } }
  let s := { s with sync := { s.sync with reqs := s.sync.reqs.map (fun (r : SyncReq) =>
      if r.act.source = some (t, c) then { r with after := r.after - 1 } else r) } }
  let s := s.forAll (List.range 16) (fun s k =>
    let h := s.chan k
    if h.heldBehind.any (fun e => e.1 == t && e.2.1 == c) then
      serveChan (s.setChan k { h with heldBehind := h.heldBehind.map (fun (e : Fin 192 × Fin 4 × Nat) =>
        if e.1 = t ∧ e.2.1 = c then (t, c, e.2.2 - 1) else e) }) k
    else s)
  settleCtx s t c

/-- An SMT ends by Table 6.9: its context faults (R168). -/
def smtFault (s : State) (m : Smt) (r : Access) : State :=
  smtDone (faultIssuer s m.tile m.ctx m.slot m.pc (if r = .domain then 0x02 else 0x06) r.status) m

/-- An SMT to a hub window: the hub accepts the record. -/
def acceptRecord (s : State) (m : Smt) (pass : Bool) : State :=
  let r : WindowRec := { ord := s.host.takes, tile := m.tile, ctx := m.ctx, pass := pass, slot := m.slot, domain := BitVec.ofNat 10 (slotDomain s m.slot), data := BitVec.ofNat 1024 (leNat (s.sramRead m.tile m.sram m.len)) }
  smtDone { s with seqs := { s.seqs with records := s.seqs.records ++ [r] }, host := { s.host with takes := s.host.takes + 1 } } m

/-- One part of an SMT from SRAM to the device range. -/
def smtStore (s : State) (m : Smt) (p : Nat × Nat × Nat) : State × Access :=
  let r := devMeet s p.1 p.2.2 (slotDomain s m.slot) true (die5 (tileDie m.tile))
  if r.2 ≠ .served then r
  else
    let w := devWrite r.1 p.1 (r.1.sramRead m.tile p.2.1 p.2.2) 0 m.tile.val m.ctx.val
    if w.2 then (w.1, .served) else (w.1, .refused stBadArg)

/-- What the parts of an SMT that reads the device range meet. -/
def smtLoad (s : State) (m : Smt) : ReadAcc :=
  readPieces s (tileDie m.tile) (slotDomain s m.slot) m.filled ((smtParts m).map (fun p => (p.1, p.2.2)))

/-- An SMT goes on waiting, with the lines it waits for and those that have served it. -/
def smtWaits (s : State) (m : Smt) (r : ReadAcc) : State :=
  { s with streams := { s.streams with smts := s.streams.smts.map (fun x =>
    if x = m then { x with fills := r.fills, filled := m.filled ++ r.hits } else x) } }

/-- A small transfer from tile SRAM to the device range: all that it writes is met before a byte is written. -/
def smtStores (s : State) (m : Smt) : State :=
  let all := meetRanges (slotDomain s m.slot) true (die5 (tileDie m.tile)) ((smtParts m).map (fun p => (p.1, p.2.2))) s
  match all.2.1 with
  | .held => all.1
  | .served =>
    let w := (smtParts m).foldl (fun p x => if p.2 = .served then smtStore p.1 m x else p) (all.1, Access.served)
    if w.2 = .served then smtDone w.1 m else smtFault w.1 m w.2
  | o => smtFault all.1 m o

/-- A small transfer from the device range to tile SRAM; it waits for a Tun fill or a held grain. -/
def smtLoads (s : State) (m : Smt) : State :=
  let r := smtLoad s m
  match r.meet with
  | .data => smtDone ((smtParts m).foldl (fun s p => s.sramWrite m.tile p.2.1 (devLoad s p.1 p.2.2)) r.st) m
  | .later => s
  | .filling => smtWaits r.st m r
  | .ended .held => smtWaits r.st m { r with fills := [] }
  | .ended o => smtFault r.st m o

/-- `SMT_COMPLETE` (R166 to R168): the oldest SMT of the context, unless an order of accesses still holds it. -/
def execSmtComplete (t : Fin 192) (c : Fin 4) (s : State) : Outcome :=
  match s.streams.smts.find? (fun m => m.tile == t && m.ctx == c) with
  | none => .next s
  | some m =>
    if !smtReady s m || !mayServe s m.issued then .next s
    else if m.toDevice then
      if m.dev = seqWindow ∧ m.len = 32 then .next (acceptRecord s m false)
      else if m.dev = passWindow ∧ m.len = 128 then .next (acceptRecord s m true)
      else .next (smtStores s m)
    else .next (smtLoads s m)

end Sys2Proof.Machine
end

