-- ==== Sys2Proof/Machine/Seq.lean ====
section
/-! DEFINITION. Sequences and key-value pages (ch. 9): the sequence table, page slots, versions and page lists, walkers,
reclamation, and the operations that tiles send to the hub's window. -/

namespace Sys2Proof.Machine

def State.seq (s : State) (h : Nat) : SeqEntry := tabGet {} s.seqs.table h
def State.setSeq (s : State) (h : Nat) (x : SeqEntry) : State :=
  { s with seqs := { s.seqs with table := tabPut {} s.seqs.table h x } }

/-- The lowest-numbered FREE handle (R246, R247). -/
def freeHandle (s : State) : Option Nat := firstUnused 0 131072 s.seqs.table

/-- FREE handles in all. -/
def freeHandles (s : State) : Nat := 131072 - s.seqs.table.length

/-- An operation holds the handle: a fork of or into it, or an EXTEND whose copies are under way (R247). -/
def seqHeld (s : State) (h : Nat) : Bool :=
  s.seqs.copies.any (fun c => c.handle == h) || s.seqs.forks.any (fun f => f.source == h || f.handle == h)

/-! Fields of a command descriptor (Tables 14.11, 14.12). -/

def Taken.num (k : Taken) : Nat := k.desc.toNat
def Taken.respAddr (k : Taken) : Nat := bits k.num 511 448
def Taken.argAddr (k : Taken) : Nat := bits k.num 447 384
def Taken.argLen (k : Taken) : Nat := bits k.num 383 352
def Taken.respLen (k : Taken) : Nat := bits k.num 351 320
def Taken.tag (k : Taken) : Nat := bits k.num 319 304
def Taken.op (k : Taken) : Nat := bits k.num 303 288
def Taken.evq (k : Taken) : Nat := bits k.num 282 281
def Taken.quiet (k : Taken) : Bool := bitAt k.num 280
/-- Inline arguments [hi:lo]. -/
def Taken.arg (k : Taken) (hi lo : Nat) : Nat := bits k.num hi lo
/-- Extended arguments as one little-endian number. -/
def Taken.ext (k : Taken) : Nat := leNat k.args

/-! Records of the window (Table 9.7). -/

def WindowRec.num (r : WindowRec) : Nat := r.data.toNat
def WindowRec.handle (r : WindowRec) : Nat := bits r.num 16 0
def WindowRec.op (r : WindowRec) : Nat := bits r.num 31 24
def WindowRec.value (r : WindowRec) : Nat := bits r.num 159 128
def WindowRec.result (r : WindowRec) : Nat := bits r.num 207 160
def WindowRec.signal (r : WindowRec) : Nat := bits r.num 255 208

/-- A window operation on the handle that the hub accepted before `ord` is still to be applied (R247); LEAVE names none. -/
def recAhead (s : State) (h ord : Nat) : Bool :=
  s.seqs.records.any (fun r => !r.pass && r.op != 4 && r.handle == h && decide (r.ord < ord))

/-- A taken mailbox command is an operation on the handle (Tables 9.6, 10.2). -/
def cmdOnSeq (s : State) (k : Taken) (h : Nat) : Bool :=
  ((k.op == 0x0302 || k.op == 0x0303 || k.op == 0x0304) && k.arg 16 0 == h) ||
    (k.op == 0x0305 && decide (2 ≤ k.arg 7 0) && k.arg 112 96 == h) ||
    (k.op == 0x0104 && (s.seq h).domain.toNat == k.arg 9 0)

/-- A mailbox command on the handle that was taken before `ord` has not run (R247). -/
def cmdAhead (s : State) (h ord : Nat) : Bool :=
  (List.finRange 8).any (fun m => (s.mbx m).taken.any (fun k => !k.working && decide (k.order < ord) && cmdOnSeq s k h))

/-- The handle is a visitor of a binding (R276). -/
def isVisitor (s : State) (h : Nat) : Bool :=
  s.rings.binds.any (fun e => e.2.used && (e.2.visitor0 == h || e.2.visitor1 == h || e.2.visitor2 == h))

/-! Pages (R248, R251, Table 8.5). -/

/-- Bytes of 128 elements of a format. -/
def lineBytes (fmt : Nat) : Nat := if fmt = 6 then 64 else 128 * fmtSize fmt

/-- Bytes of one head's part of a page: 128 positions of elements, and scales for FP4. -/
def partBytes (fmt : Nat) : Nat := 128 * lineBytes fmt + (if fmt = 6 then 512 else 0)

def headBytes (fmtK fmtV : Nat) : Nat := partBytes fmtK + partBytes fmtV
def pageBytes (heads fmtK fmtV : Nat) : Nat := heads * headBytes fmtK fmtV
def grainsPerPage (heads fmtK fmtV : Nat) : Nat := cdiv (pageBytes heads fmtK fmtV) 65536

/-- Pages per layer of a length (Table 9.4). -/
def pageCount (base length : Nat) : Nat := cdiv (length - base) 128

/-- Page slots (Table 9.3). -/
def slotCount : Nat := 3670016
def slotsFree (s : State) : Nat := slotCount - s.seqs.fresh + s.seqs.freed.length + s.seqs.returned.length

/-- The next free page slot, first in, first out (R251). -/
def takeSlot (s : State) : State × Nat :=
  match s.seqs.returned with
  | p :: l => ({ s with seqs := { s.seqs with returned := l } }, p)
  | [] =>
  if s.seqs.fresh < slotCount then ({ s with seqs := { s.seqs with fresh := s.seqs.fresh + 1 } }, s.seqs.fresh)
  else ({ s with seqs := { s.seqs with freed := s.seqs.freed.drop 1 } }, s.seqs.freed.headD 0)

/-- A fresh page of a sequence, with one reference. -/
def takePage (s : State) (e : SeqEntry) : State × Nat :=
  let r := takeSlot s
  (r.1.setPage r.2 { refs := 1, domain := e.domain, grains := e.pageGrains.toNat, st := 1, home := e.homeDie }, r.2)

/-- Subtracts one reference; a page without references enters LIMBO stamped with the epoch (R269). -/
def dropRef (s : State) (p : Nat) : State :=
  let r := s.page p
  if r.refs ≤ 1 then s.setPage p { r with refs := 0, st := 2, epoch := s.seqs.epoch }
  else s.setPage p { r with refs := r.refs - 1 }

def addRef (s : State) (p : Nat) : State := s.setPage p { (s.page p) with refs := (s.page p).refs + 1 }

/-! Version records and page lists (R252, R253). -/

/-- Header of the version record at an address, as a number (Table 9.4). -/
def verHeader (s : State) (a : Nat) : Nat := leNat (s.hubRead a 64)
def verHandle (s : State) (a : Nat) : Nat := bits (verHeader s a) 351 335
def verPages (s : State) (a : Nat) : Nat := bits (verHeader s a) 302 271
def verLength (s : State) (a : Nat) : Nat := bits (verHeader s a) 270 239
def verBase (s : State) (a : Nat) : Nat := bits (verHeader s a) 238 207
/-- Address of the page list of the l-th layer held. -/
def verList (s : State) (a l : Nat) : Nat := leNat (s.hubRead (a + 64 + 8 * l) 6)

/-- Entry k of a page list: the page slot, if present (Table 9.5). -/
def listPage (s : State) (list k : Nat) : Option Nat :=
  let w := leNat (s.hubRead (list + 8 * k) 8)
  if bitAt w 63 then some (pageOf (grainOf (bits w 47 21 * 2 ^ 21))) else none

/-- The page list entry that names a slot. -/
def listEntry (p : Nat) : Nat := 2 ^ 63 + pageAddr p

/-- Page lists and pages of the current version: per layer held, the list and its pages. -/
def seqLists (s : State) (h : Nat) : List Nat :=
  let e := s.seq h
  (List.range e.layerCount.toNat).map (fun l => verList s e.versionAddr.toNat l)
def seqPages (s : State) (h : Nat) : List (List Nat) :=
  let n := verPages s (s.seq h).versionAddr.toNat
  (seqLists s h).map (fun a => (List.range n).filterMap (fun k => listPage s a k))

/-! The list arena. -/

/-- Held writes of the hub to a grain that is released are dropped with its contents. -/
def dropHub (s : State) (g : Nat) : State :=
  { s with tiers := { s.tiers with hub := s.tiers.hub.filter (fun w => w.domain.isSome || grainOf w.addr != g) } }

/-- The first run of n grains that no item holds. -/
def firstFit (n hi : Nat) : Nat → Tab ListItem → Option Nat
  | c, [] => if c + n ≤ hi then some c else none
  | c, (g, i) :: t => if c + n ≤ g then some c else firstFit n hi (g + i.grains) t

def setItem (s : State) (g : Nat) (i : ListItem) : State :=
  { s with seqs := { s.seqs with lists := tabPut {} s.seqs.lists g i } }
def State.item (s : State) (g : Nat) : ListItem := tabGet {} s.seqs.lists g

/-- Allocates one item of n grains for a sequence; answers its address. -/
def allocItem (s : State) (h n : Nat) : Option (State × Nat) :=
  (firstFit n 0x10000000 0x0F000000 s.seqs.lists).map (fun g =>
    (setItem s g { grains := n, handle := h }, g * 65536))

/-- Allocates k items of n grains each, or none. -/
def allocItems (s : State) (h n : Nat) : Nat → Option (State × List Nat)
  | 0 => some (s, [])
  | k + 1 =>
    match allocItems s h n k with
    | none => none
    | some (s, l) => (allocItem s h n).map (fun r => (r.1, l ++ [r.2]))

/-- Grains of a page list for a capacity (R253). -/
def listGrains (capacity : Nat) : Nat := max 1 (cdiv (cdiv capacity 128 * 8) 65536)

/-- Stamps an item: it is in LIMBO from the current epoch on. -/
def retireItem (s : State) (a : Nat) (last : Bool) : State :=
  let i := s.item (grainOf a)
  setItem s (grainOf a) { i with limbo := some s.seqs.epoch, last := last }

/-- Writes entries of a page list and raises its high mark to n. -/
def writeEntries (s : State) (list n : Nat) (es : List (Nat × Nat)) : State :=
  let s := s.forAll es (fun s e => hubStore s (list + 8 * e.1) (leBytes 8 (listEntry e.2)))
  let i := s.item (grainOf list)
  setItem s (grainOf list) { i with high := max i.high n }

/-! Publication (R254). -/

/-- The header of a version record (Table 9.4). -/
def versionHeader (s : State) (h : Nat) (version : Word32) (base length : Nat) : List Byte :=
  leBytes 64 (packBits [(175, 0), (32, version.toNat), (32, base), (32, length), (32, pageCount base length), (32, s.seqs.epoch.toNat), (17, h)])

/-- Writes a version record. -/
def writeVersion (s : State) (a h : Nat) (version : Word32) (base length : Nat) (lists : List Nat) : State :=
  hubStore s a (versionHeader s h version base length ++ lists.flatMap (fun l => leBytes 8 l))

/-- Publishes a version: its record stands at `a`, then the triple of the entry changes as one step and the old record
is retired. -/
def publish (s : State) (h a base length : Nat) (lists : List Nat) : State :=
  let e := s.seq h
  let v := e.version + 1
  let s := writeVersion s a h v base length lists
  let s := if e.versionAddr = 0 then s else retireItem s e.versionAddr.toNat false
  let s := s.setSeq h { e with versionAddr := BitVec.ofNat 48 a, version := v, base := base, length := length }
  { s with seqs := { s.seqs with published := true } }

/-! Reclamation (R264, R271). -/

/-- Some entered walker recorded an epoch at or before e. -/
def walkerBlocks (s : State) (e : Word32) : Bool :=
  s.seqs.walkers.any (fun w =>
    match w.2.epoch with
    | some x => decide ((e - x).toNat < 2 ^ 31)
    | none => false)

def releasePage (s : State) (p : Nat) : State :=
  let s := s.forAll ((List.range (s.page p).grains).map (fun i => pageGrain p + i)) (fun s g => releaseGrain (dropHub s g) g)
  let s := s.setPage p {}
  { s with seqs := { s.seqs with freed := s.seqs.freed ++ [p] } }

def releaseItem (s : State) (g : Nat) : State :=
  let i := s.item g
  let s := s.forAll ((List.range i.grains).map (fun k => g + k)) (fun s g => releaseGrain (dropHub s g) g)
  let s := setItem s g {}
  if i.last then s.setSeq i.handle {} else s

/-- A reclamation pass: every page, list and record in LIMBO that no walker may still read. -/
def reclaim (s : State) : State :=
  let ps := (s.seqs.pages.filter (fun e => e.2.st == 2 && !walkerBlocks s e.2.epoch)).map (·.1)
  let gs := (s.seqs.lists.filter (fun e => match e.2.limbo with
    | some x => !walkerBlocks s x
    | none => false)).map (·.1)
  (s.forAll ps releasePage).forAll gs releaseItem

/-- Tries an allocation, and once more after a reclamation pass. -/
def withReclaim {α : Type} (s : State) (f : State → Option α) : State × Option α :=
  match f s with
  | some r => (s, some r)
  | none => let s := reclaim s; (s, f s)

/-! Creation and the ends of sequences. -/

/-- A new OPEN sequence with version 1 and no page (R255); the entry gives all but its version. -/
def createSeq (s : State) (h : Nat) (e : SeqEntry) : Option State :=
  let s := s.setSeq h { e with st := 1, version := 0, versionAddr := 0 }
  match allocItems s h (listGrains e.capacity) e.layerCount.toNat with
  | none => none
  | some (s, lists) => (allocItem s h 1).map (fun r => publish r.1 h r.2 e.base e.length lists)

/-- Every reference of the current version's lists is dropped, the lists and the record are retired, the entry is RETIRING
(R259).  A list names pages up to its high mark: those of the version, and the unused pages of a visitor (R275). -/
def freeSeq (s : State) (h : Nat) : State :=
  let e := s.seq h
  let lists := seqLists s h
  let pages := (lists.map (fun a => (List.range (s.item (grainOf a)).high).filterMap (fun k => listPage s a k))).flatten
  let s := s.forAll pages dropRef
  let s := s.forAll lists (fun s a => retireItem s a false)
  let s := retireItem s e.versionAddr.toNat true
  s.setSeq h { e with st := 2, freedEpoch := s.seqs.epoch }

/-- Truncation to L (R258, R254): none where the list arena has no room. -/
def truncSeq (s : State) (h l : Nat) : Option State :=
  let e := s.seq h
  let old := verPages s e.versionAddr.toNat
  let new := pageCount e.base l
  let lists := seqLists s h
  let pages := seqPages s h
  if new = old then (allocItem s h 1).map (fun r => publish r.1 h r.2 e.base l lists)
  else
    match allocItems s h (listGrains e.capacity) e.layerCount.toNat with
    | none => none
    | some (s, fresh) =>
      (allocItem s h 1).map (fun r =>
        let s := r.1.forAll (fresh.zip pages) (fun s p =>
          writeEntries s p.1 new ((p.2.take new).zipIdx.map (fun q => (q.2, q.1))))
        let s := publish s h r.2 e.base l fresh
        let s := s.forAll lists (fun s a => retireItem s a false)
        s.forAll (pages.flatMap (fun p => p.drop new)) dropRef)

/-! Forks (R256). -/

/-- A fork starts: the handle leaves FREE, its lists stand, and the references are added; none where a count would pass
65,535 or the list arena has no room. -/
def startFork (s : State) (m : Fin 8) (src h pEnd capacity : Nat) : Option State :=
  let e := s.seq src
  let n := pageCount e.base pEnd
  let pages := (seqPages s src).map (fun l => l.take n)
  let cap := if capacity = 0 then e.capacity else capacity
  if pages.flatten.any (fun p => decide (65535 ≤ (s.page p).refs)) then none
  else
    let x : SeqEntry := { e with st := 1, version := 0, versionAddr := 0, length := pEnd, capacity := cap, freedEpoch := 0, ring := 0xFFF }
    let s := s.setSeq h x
    match allocItems s h (listGrains cap) e.layerCount.toNat with
    | none => none
    | some (s, lists) =>
      (allocItem s h 1).map (fun r =>
        let s := r.1.forAll (lists.zip pages) (fun s p => writeEntries s p.1 n (p.2.zipIdx.map (fun q => (q.2, q.1))))
        let s := s.forAll pages.flatten addRef
        -- the record's place is kept in the entry until FORK_PUBLISHED writes it
        let s := writeVersion s r.2 h 1 e.base pEnd lists
        { s with seqs := { s.seqs with forks := s.seqs.forks ++ [⟨m, src, h⟩], table := tabPut {} s.seqs.table h { x with versionAddr := BitVec.ofNat 48 r.2 } } })

/-- The fork's version is published, under the epoch of this moment. -/
def endFork (s : State) (f : SeqFork) : State :=
  let e := s.seq f.handle
  let s := hubStore s e.versionAddr.toNat (versionHeader s f.handle 1 e.base e.length)
  let s := s.setSeq f.handle { e with version := 1 }
  { s with seqs := { s.seqs with published := true, forks := s.seqs.forks.erase f } }

/-! Words that the hub and the engines write at the end of an operation (R260, R280, R308). -/

/-- Adds k to a counter object. -/
def addObj (s : State) (a : Nat) (k : Word32) : State :=
  let o := s.obj a
  if o.st = 2 then signalDropped s
  else if o.live && o.kind != 1 then changeCounter s a (o.count + k) else s

/-- A word's bytes at an address that its access may write: a mismatch at a sync object is reported where the write names
its source, and otherwise dropped with no event (R260). -/
def wordStore (s : State) (w : HubWrite) : State :=
  let o := s.obj w.addr
  match w.report with
  | some k => (devWrite s w.addr w.bytes k.1 k.2.1 k.2.2).1
  | none => if inHomes w.addr && o.st != 2 && o.kind == 1 then s else (devWrite s w.addr w.bytes 0 0 0).1

/-- Tries a write: the state, and whether the write is over (made, or refused and dropped) rather than held. -/
def hubTry (s : State) (w : HubWrite) : State × Bool :=
  match w.domain with
  | none =>
    let g := grainOf w.addr
    if grainHolds s g then (startBacking s g 0x3FF 4, false)
    else if (s.grain g).st = 9 then (s, true)
    else (devStore s w.addr w.bytes, true)
  | some d =>
    let r := devMeet s w.addr w.bytes.length d.toNat true 4
    match r.2 with
    | .held => (r.1, false)
    | .served => (wordStore r.1 w, true)
    | _ => (r.1, true)

/-- What follows a write once it is visible. -/
def hubAdds (s : State) (w : HubWrite) : State := s.forAll w.adds (fun s a => addObj s a.1 a.2)

/-- A word and what follows it; a held grain holds both. -/
def hubWord (s : State) (w : HubWrite) : State :=
  let r := hubTry s w
  if r.2 then hubAdds r.1 w else holdHub r.1 w

/-- The held writes that need wait no longer, in their order. -/
def serveHub (s : State) : State :=
  s.tiers.hub.foldl (fun s w =>
    let r := hubTry s w
    if r.2 then hubAdds { r.1 with tiers := { r.1.tiers with hub := r.1.tiers.hub.erase w } } w else r.1) s

/-- The result word (Table 9.8), then the signal (R260); the record leaves the window. -/
def finishRec (s : State) (r : WindowRec) (status value : Nat) : State :=
  let s := { s with seqs := { s.seqs with records := s.seqs.records.erase r } }
  let adds := if r.signal = 0 then [] else [(r.signal, (1 : Word32))]
  if r.result = 0 ∨ r.result % 8 ≠ 0 then hubAdds s { addr := 0, bytes := [], adds := adds }
  else hubWord s { addr := r.result, bytes := leBytes 8 (status * 2 ^ 56 + value % 2 ^ 48), domain := some r.domain, adds := adds }

/-- The refusals 1 and 2 of R261, and R276: the status, 0 for none. -/
def recRefusal (s : State) (r : WindowRec) : Nat :=
  let e := s.seq r.handle
  let d := r.num
  if r.op < 1 ∨ 4 < r.op ∨ bits d 127 32 ≠ 0 ∨ bits d 23 17 ≠ 0 then stBadArg
  else if r.result % 8 ≠ 0 then stBadArg
  else if 3 ≤ r.op ∧ r.value ≠ 0 then stBadArg
  else if r.op = 4 then stOk
  else if e.st ≠ 1 then stBadArg
  else if r.op = 1 ∧ (r.value = 0 ∨ 4096 < r.value ∨ e.capacity < e.length + r.value - e.base) then stBadArg
  else if r.op = 2 ∧ (r.value < e.base ∨ e.length < r.value) then stBadArg
  else if isVisitor s r.handle then stDenied
  else if r.domain ≠ e.domain ∧ r.domain ≠ 0x3FF then stDenied
  else stOk

/-- The oldest sequence record of a context, where its op is `op` (a reserved op is anybody's), no operation holds its
handle and no operation on the handle that reached the hub before it is still to be applied (R247). -/
def oldestRec (s : State) (t : Fin 192) (c : Fin 4) (op : Nat) : Option WindowRec :=
  match s.seqs.records.find? (fun r => r.tile == t && r.ctx == c && !r.pass) with
  | none => none
  | some r =>
    let mine := r.op == op || decide (r.op < 1) || decide (4 < r.op)
    if mine && (r.op == 4 || !(seqHeld s r.handle || recAhead s r.handle r.ord || cmdAhead s r.handle r.ord)) then some r else none

/-- Runs one sequence operation on the context's oldest record. -/
def runRec (t : Fin 192) (c : Fin 4) (op : Nat) (s : State) (f : WindowRec → State) : State :=
  match oldestRec s t c op with
  | none => s
  | some r =>
    let st := recRefusal s r
    if st = stOk then f r else finishRec s r st 0

/-- Publishes by f, once more after a reclamation pass; the record ends with v, or for want of resources. -/
def publishOr (s : State) (f : State → Option State) (r : WindowRec) (v : Nat) : State :=
  let w := withReclaim s f
  match w.2 with
  | some s => finishRec s r stOk v
  | none => finishRec w.1 r stNoResource 0

/-! EXTEND (R261 to R265). -/

/-- Page slots that an EXTEND takes: copies (layer, shared page), and fresh pages (layer, index). -/
def extendNeeds (s : State) (h n : Nat) : List (Nat × Nat) × List (Nat × Nat) :=
  let e := s.seq h
  let p0 := pageCount e.base e.length
  let p1 := pageCount e.base (e.length + n)
  let pages := seqPages s h
  let copies := if (e.length - e.base) % 128 = 0 then []
    else pages.zipIdx.filterMap (fun q => (q.1[p0 - 1]?).bind (fun p => if 1 < (s.page p).refs then some (q.2, p) else none))
  (copies, (List.range e.layerCount.toNat).flatMap (fun l => (List.range (p1 - p0)).map (fun i => (l, p0 + i))))

/-- Takes one page for each item of a list. -/
def takePages {α : Type} (s : State) (e : SeqEntry) (l : List α) : State × List (α × Nat) :=
  l.foldl (fun p x => let r := takePage p.1 e; (r.1, p.2 ++ [(x, r.2)])) (s, [])

/-- A layer needs a new list: its shared page is replaced, or an entry below its high mark is (R254). -/
def needsList (s : State) (list p0 : Nat) (copied added : Bool) : Bool :=
  copied || (added && decide (p0 < (s.item (grainOf list)).high))

/-- For each layer, whether an EXTEND with those copies (layer, page and so on) to a length needs a new page list. -/
def newLists {α : Type} (s : State) (h : Nat) (copies : List (Nat × α)) (length : Nat) : List Bool :=
  let e := s.seq h
  let p0 := pageCount e.base e.length
  let p1 := pageCount e.base length
  (seqLists s h).zipIdx.map (fun q => needsList s q.1 p0 (copies.any (fun c => c.1 == q.2)) (decide (p0 < p1)))

/-- The items of the list arena that an EXTEND needs: its new page lists and its version record; none where there is no
room. -/
def takeItems (s : State) (h n : Nat) : Option (State × List Nat × Nat) :=
  match allocItems s h (listGrains (s.seq h).capacity) n with
  | none => none
  | some (s, lists) => (allocItem s h 1).map (fun r => (r.1, lists, r.2))

/-- Publishes an EXTEND: copies (layer, old, new), fresh pages (layer, index, slot), the new length, its new lists and its
record. -/
def publishExtend (s : State) (h : Nat) (copies fresh : List (Nat × Nat × Nat)) (length : Nat) (taken : List Nat) (ver : Nat) : State :=
  let e := s.seq h
  let p0 := pageCount e.base e.length
  let p1 := pageCount e.base length
  let lists := seqLists s h
  let pages := seqPages s h
  let step := fun (acc : State × List Nat × List Nat) (q : (Nat × Bool) × Nat) =>
    let (s, left, out) := acc
    let ((list, new), l) := q
    let added := (fresh.filter (fun f => f.1 == l)).map (fun f => (f.2.1, f.2.2))
    if new then
      let a := left.headD 0
      let kept := ((pages.getD l []).zipIdx.map (fun p =>
        (p.2, match copies.find? (fun c => c.1 == l && c.2.1 == p.1 && p.2 + 1 == p0) with
          | some c => c.2.2
          | none => p.1)))
      (retireItem (writeEntries s a p1 (kept ++ added)) list false, left.drop 1, out ++ [a])
    else (writeEntries s list p1 added, left, out ++ [list])
  let w := ((lists.zip (newLists s h copies length)).zipIdx).foldl step (s, taken, [])
  let s := publish w.1 h ver e.base length w.2.2
  s.forAll copies (fun s c => count (dropRef s c.2.1) 0x0900)

/-- Takes the page slots of an EXTEND: copies first, then fresh pages; answers (layer, page or index, slot). -/
def takeNeeds (s : State) (e : SeqEntry) (need : List (Nat × Nat) × List (Nat × Nat)) :
    State × List (Nat × Nat × Nat) × List (Nat × Nat × Nat) :=
  let a := takePages s e need.1
  let b := takePages a.1 e need.2
  (b.1, a.2.map (fun x => (x.1.1, x.1.2, x.2)), b.2.map (fun x => (x.1.1, x.1.2, x.2)))

/-- `EXTEND` (R261): all it needs is taken at once, or nothing.  Without a copy it is published; else the copies are under
way, and the record stays the context's oldest until they end. -/
def execExtend (t : Fin 192) (c : Fin 4) (s : State) : Outcome :=
  .next (runRec t c 1 s (fun r =>
    let h := r.handle
    let e := s.seq h
    let need := extendNeeds s h r.value
    let total := need.1.length + need.2.length
    let len := e.length + r.value
    let s := if slotsFree s < total then reclaim s else s
    let w := withReclaim s (fun s => takeItems s h ((newLists s h need.1 len).countP id))
    if slotsFree w.1 < total then finishRec w.1 r stNoResource 0
    else match w.2 with
    | none => finishRec w.1 r stNoResource 0
    | some (s, lists, ver) =>
      let p := takeNeeds s e need
      if need.1.isEmpty then finishRec (publishExtend p.1 h [] p.2.2 len lists ver) r stOk len
      else { p.1 with seqs := { p.1.seqs with copies := p.1.seqs.copies ++ [⟨h, p.2.1, p.2.2, len, r, lists, ver⟩] } }))

/-- Byte ranges of a page that hold its first n positions (Table 8.5). -/
def pageRanges (heads fmtK fmtV n : Nat) : List (Nat × Nat) :=
  let part := fun (o fmt : Nat) =>
    [(o, n * lineBytes fmt)] ++ (if fmt = 6 then [(o + 128 * lineBytes fmt, 4 * n)] else [])
  (List.range heads).flatMap (fun i =>
    let o := i * headBytes fmtK fmtV
    part o fmtK ++ part (o + partBytes fmtK) fmtV)

/-- Grains of a page. -/
def pageGrains (s : State) (p : Nat) : List Nat := (List.range (s.page p).grains).map (fun i => pageGrain p + i)

/-- Copies the first n positions of a page (R265). -/
def copyPage (s : State) (e : SeqEntry) (old new n : Nat) : State :=
  s.forAll (pageRanges e.kvHeads.toNat e.fmtK.toNat e.fmtV.toNat n) (fun s r =>
    hubStore s (pageAddr new + r.1) (s.hubRead (pageAddr old + r.1) r.2))

/-- Page slots that are not used after all stand at the head of the free list again. -/
def untakePages (s : State) (l : List Nat) : State :=
  let s := s.forAll l (fun s p => s.setPage p {})
  { s with seqs := { s.seqs with returned := l ++ s.seqs.returned } }

/-- Items of the list arena that are not used after all. -/
def untakeItems (s : State) (l : List Nat) : State := s.forAll l (fun s a => setItem s (grainOf a) {})

/-- The copy of an extension is no longer under way. -/
def dropCopy (s : State) (c : SeqCopy) : State := { s with seqs := { s.seqs with copies := s.seqs.copies.erase c } }

/-- An extension that ends without effect: what it took is free again. -/
def undoCopy (s : State) (c : SeqCopy) (st : Nat) : State :=
  let s := untakePages (dropCopy s c) ((c.copies ++ c.fresh).map (fun x => x.2.2))
  finishRec (untakeItems s (c.lists ++ [c.version])) c.record st 0

/-- Copies that the extension needs when it is applied: another sequence still shares the page.  The last holder of a page
keeps it (R265). -/
def neededCopies (s : State) (c : SeqCopy) : List (Nat × Nat × Nat) := c.copies.filter (fun x => decide (1 < (s.page x.2.1).refs))

/-- The extension is applied: the needed copies are made and it is published; what it took for the others is free again. -/
def endCopy (s : State) (c : SeqCopy) (e : SeqEntry) : State :=
  let copies := neededCopies s c
  let n := (e.length - e.base) % 128
  let lists := (newLists s c.handle copies c.length).countP id
  let s := s.forAll copies (fun s x => copyPage s e x.2.1 x.2.2 n)
  let s := untakePages s ((c.copies.filter (fun x => !copies.contains x)).map (fun x => x.2.2))
  let s := untakeItems s (c.lists.drop lists)
  finishRec (dropCopy (publishExtend s c.handle copies c.fresh c.length (c.lists.take lists) c.version) c) c.record stOk c.length

/-- `PAGE_COPY_DONE` (R265): every shared page is copied, or one of them is poisoned (R261).  A held grain of a shared
page holds the copy. -/
def execPageCopyDone (h : BitVec 17) (s : State) : Outcome :=
  match s.seqs.copies.find? (fun c => c.handle == h.toNat) with
  | none => .next s
  | some c =>
    let gs := (neededCopies s c).flatMap (fun x => pageGrains s x.2.1)
    let e := s.seq c.handle
    if gs.any (fun g => (s.grain g).st == 9) then .next (undoCopy s c stPoisoned)
    else
      let r := gs.foldl (fun (p : State × Bool) g =>
        let m := meetGrain p.1 g e.domain.toNat false true (e.homeDie.castLE (by omega))
        (m.1, p.2 && decide (m.2 = .served))) (s, true)
      .next (if r.2 then endCopy r.1 c e else r.1)

/-! The other window operations. -/

/-- `TRUNCATE` (R258, R261). -/
def execTruncate (t : Fin 192) (c : Fin 4) (s : State) : Outcome :=
  .next (runRec t c 2 s (fun r =>
    publishOr s (fun s => truncSeq s r.handle r.value) r r.value))

/-- `ENTER` (R268): a context that is entered keeps its epoch. -/
def execEnter (t : Fin 192) (c : Fin 4) (s : State) : Outcome :=
  .next (runRec t c 3 s (fun r =>
    let k := tileWalker t c
    let live := (s.ctx t c).st != .empty && (s.ctx t c).st != .faulted
    let s := if live && (tabGet {} s.seqs.walkers k).epoch.isNone then enterWalker s k else s
    finishRec s r stOk (s.seq r.handle).versionAddr.toNat))

/-- `LEAVE` (R268). -/
def execLeave (t : Fin 192) (c : Fin 4) (s : State) : Outcome :=
  .next (runRec t c 4 s (fun r => finishRec (leaveWalker s (tileWalker t c)) r stOk 0))

/-! Epochs (R269, R270). -/

/-- Unit and context items of a walker slot (R270). -/
def walkerItems (k : Nat) : Nat × Nat :=
  if k < 768 then (k / 4, k % 4)
  else if k < 896 then (0x8000 + (k - 768) / 4, (k - 768) % 4)
  else (0x4000 + (k - 896) / 256, (k - 896) % 256)

/-- `EV_SEQ_WALKER_STALL`. -/
def walkerStallEv (k : Nat) (e : Word32) : Ev :=
  { type := 0x2005, severity := 2, scope := 6, items := [(16, (walkerItems k).1), (8, (walkerItems k).2), (32, e.toNat)] }

/-- Reports every walker that has stayed entered for 2^30 epochs, once for its entry. -/
def reportStalls (s : State) : State :=
  s.forAll s.seqs.walkers (fun s w =>
    match w.2.epoch with
    | some x =>
      if !w.2.stalled && decide (2 ^ 30 ≤ (s.seqs.epoch - x).toNat) then
        emit { s with seqs := { s.seqs with walkers := tabPut {} s.seqs.walkers w.1 { w.2 with stalled := true } } }
          (walkerStallEv w.1 x)
      else s
    | none => s)

/-- `EPOCH_TICK` (R269, R270): the epoch advances if a version was published, unless a walker lies too far behind. -/
def execEpochTick (s : State) : Outcome :=
  let u := s.seqs
  let next := u.epoch + 1
  let far := u.walkers.any (fun w => match w.2.epoch with
    | some x => decide (2 ^ 31 - 1 ≤ (next - x).toNat)
    | none => false)
  if u.published && !far then .next (reportStalls { s with seqs := { u with epoch := next, published := false } })
  else .next { s with seqs := { u with published := false } }

/-- `RECLAMATION_PASS` (R264). -/
def execReclamationPass (s : State) : Outcome := .next (reclaim s)

end Sys2Proof.Machine
end

