-- ==== Sys2Proof/Machine/Ae.lean ====
section
/-! DEFINITION. Attention engines (ch. 8): queues, the entry of a descriptor, its walk over groups, the checks of a group,
and its end. -/

namespace Sys2Proof.Machine

/-! AE descriptors (Table 8.1). -/

/-- AE descriptor k of a slot's image. -/
def aeDesc (s : State) (n : Fin 16) (k : Nat) : Nat := secEntry (s.slot n).image 0xC k

def adQ (d : Nat) : Nat := bits d 511 464
def adOut (d : Nat) : Nat := bits d 463 416
def adRow (d : Nat) : Nat := bits d 415 368
def adSeg (d : Nat) : Nat := bits d 367 320
def adAux (d : Nat) : Nat := bits d 319 272
def adScale (d : Nat) : Val := decodeFloat f32 (bits d 271 240)
def adRelease (d : Nat) : Nat := bits d 239 224
def adConsume (d : Nat) : Nat := bits d 223 208
def adRows (d : Nat) : Nat := bits d 207 200
def adSegs (d : Nat) : Nat := bits d 199 192
def adLayer (d : Nat) : Nat := bits d 191 184
def adHead (d : Nat) : Nat := bits d 183 176
def adHeads (d : Nat) : Nat := bits d 175 168
def adMergeCount (d : Nat) : Nat := bits d 167 160
def adFmtQ (d : Nat) : Nat := bits d 159 156
def adFmtK (d : Nat) : Nat := bits d 155 152
def adFmtV (d : Nat) : Nat := bits d 151 148
def adFmtO (d : Nat) : Nat := bits d 147 144
def adKind (d : Nat) : Nat := bits d 143 140
def adPartial (d : Nat) : Bool := bitAt d 139
def adRopeQ (d : Nat) : Bool := bitAt d 138
def adRopeSplit (d : Nat) : Bool := bitAt d 137
def adPairs (d : Nat) : Nat := bits d 136 130
def adQSram (d : Nat) : Bool := bitAt d 129
def adOutSram (d : Nat) : Bool := bitAt d 128

/-! Segment and row entries (Tables 8.2, 8.3). -/

def sgHandle (e : Nat) : Nat := bits e 16 0
def sgCausal (e : Nat) : Bool := bitAt e 64
def sgCands (e : Nat) : Nat := bits e 87 80
def sgStart (e : Nat) : Nat := bits e 127 96
def sgEnd (e : Nat) : Nat := bits e 159 128
def sgTree (e : Nat) : Nat := bits e 207 160
def sgCand (e : Nat) : Nat := bits e 255 208
def rwSegment (e : Nat) : Nat := bits e 7 0
def rwNode (e : Nat) : Nat := bits e 23 16
def rwPos (e : Nat) : Nat := bits e 63 32

/-- The object of a descriptor's release or consume field (R328). -/
def aeObj (s : State) (e : Fin 32) (c : Fin 4) (i : AeIssue) (vid : Nat) : Option Nat :=
  if vid = 0xFFFF then none else vidAddr s i.slot (bindUnitAe e) c.val vid

/-- `AEQ` (R213, R214). -/
def execAeq (u : Issue) (desc : BitVec 16) (ae : Fin 32) (aeCtx : Fin 4) (bnd : Fin 32) (s : State) : Outcome :=
  .next (issue s u (fun x =>
    let y := s.aeCtx ae aeCtx
    match x.slot with
    | none => issueFault s u x 0x01 none
    | some n =>
      if (s.ae ae).failed then issueFault s u x 0x07 (some stNoResource)
      else if y.owner != some n || decide (secCount (s.slot n).image 0xC ≤ desc.toNat) then issueFault s u x 0x01 none
      else if 16 ≤ y.queue.length then
        emit (advance s u.tile u.ctx) { type := 0x1009, severity := 3, scope := 1, items := [(16, u.tile.val), (8, u.ctx.val), (32, x.pc.toNat), (16, ae.val), (8, aeCtx.val), (16, desc.toNat)] }
      else
        let p := nextIssue s
        let i : AeIssue := { desc := desc, slot := n, tile := u.tile, ctx := u.ctx, pc := x.pc, issued := p.2, mLive := (boundOf x bnd 65535).1, zero := boundZero x bnd }
        advance (idleAe (p.1.setAeCtx ae aeCtx { y with queue := y.queue ++ [i] }) ae) u.tile u.ctx))

/-! Errors (R217). -/

/-- The credit take of the head is withdrawn (R508) while it waits, and where `ends` says that the work ends, also once
granted as long as the descriptor has not started. -/
def aeWithdraw (s : State) (e : Fin 32) (c : Fin 4) (ends : Bool) : State :=
  let x := s.aeCtx e c
  match x.queue with
  | i :: _ =>
    match aeObj s e c i (adConsume (aeDesc s i.slot i.desc.toNat)) with
    | some a =>
      if x.credit = .waiting ∨ (ends ∧ x.credit = .granted ∧ x.run.isNone) then
        sendReq s ⟨a, .withdraw (.ae e c i.issued), i.pc, 0⟩
      else s
    | none => s
  | [] => s

/-- The context's queue and run are dropped and its walker slot left. -/
def dropAe (s : State) (e : Fin 32) (c : Fin 4) : State :=
  let s := aeWithdraw s e c true
  let s := leaveWalker s (aeWalker e c)
  let y := s.ae e
  let s := if y.group = some c then s.setAe e { y with group := none, runs := 0 } else s
  aeArrival s e c { (s.aeCtx e c) with queue := [], credit := .notTaken, run := none, heldAt := none, entered := [], stopping := false, saved := false, area := [], left := 0 }

/-- `EV_AE_FAULT`. -/
def aeFaultEv (e : Fin 32) (c : Fin 4) (desc seg addr status : Nat) : Ev :=
  { type := 0x100A, status := status, severity := 3, scope := 2,
    items := [(16, e.val), (8, c.val), (16, desc), (8, seg), (64, addr)] }

/-- The descriptor at the head ends with an error. -/
def aeFault (s : State) (e : Fin 32) (c : Fin 4) (seg addr status : Nat) : State :=
  match (s.aeCtx e c).queue with
  | [] => s
  | i :: _ =>
    let s := emit (dropAe s e c) (aeFaultEv e c i.desc.toNat seg addr status)
    faultIssuer s i.tile i.ctx i.slot i.pc 0x07 status

/-! Accesses. -/

/-- What an AE's access to [a, a + n) meets. -/
def aeMeet (s : State) (e : Fin 32) (a n d : Nat) (write kv : Bool) : State × Access :=
  if n = 0 then (s, .served)
  else if inAperture a then (s, .refused stDenied)
  else if !(inGrains a && inGrains (a + n - 1)) then (s, .refused stBadArg)
  else
    (List.range (grainOf (a + n - 1) + 1 - grainOf a)).foldl (fun p i =>
      if p.2 = .served then meetGrain p.1 (grainOf a + i) d write kv (die5 (aeDie e)) else p) (s, Access.served)

/-- Tile SRAM of an AE: the scratch region of a tile of its die (R15). -/
def aeSram (e : Fin 32) (a n : Nat) : Bool :=
  decide (a < 2 ^ 40) && decide (bits a 31 23 = 0) && decide (saTile a / 48 = e.val / 8) && inRegion 4 (saOff a) n

/-- What an access to tile SRAM meets: the tile's own instructions hold it by R64. -/
def aeMeetSram (s : State) (e : Fin 32) (a n : Nat) (write : Bool) : Access :=
  if n = 0 then .served
  else if !aeSram e a n then .refused stBadArg
  else if (if write then writeHeld s (tileOf a) (saOff a) n else readHeld s (tileOf a) (saOff a) n) then .held
  else .served

/-- What an access by descriptor field meets: tile SRAM or the device range. -/
def aeMeetAt (s : State) (e : Fin 32) (sram : Bool) (a n d : Nat) (write : Bool) : State × Access :=
  if sram then (s, aeMeetSram s e a n write) else aeMeet s e a n d write false

def aeLoad (s : State) (sram : Bool) (a n : Nat) : List Byte :=
  if sram then s.sramRead (tileOf a) (saOff a) n else s.devRead a n

/-- Writes bytes that the access checks have passed. -/
def aeStore (s : State) (sram : Bool) (a : Nat) (l : List Byte) : State :=
  if sram then s.sramWrite (tileOf a) (saOff a) l
  else if l.isEmpty then s else storeAcross s a l

/-- Address of the first grain of a range that holds accesses. -/
def heldGrain (s : State) (a n : Nat) : Option Nat := ((rangeGrains a n).find? (grainHolds s)).map (· * 65536)

/-- Outcome of a series of accesses: done, held (at a grain, if one holds it), or an error at a segment and address. -/
inductive AeMeets (α : Type) where
  | ok (v : α)
  | held (at' : Option Nat)
  | fail (seg addr status : Nat)

/-- Reads a range under a domain. -/
def aeRead (s : State) (e : Fin 32) (sram : Bool) (a n d seg : Nat) : State × AeMeets (List Byte) :=
  let r := aeMeetAt s e sram a n d false
  match r.2 with
  | .served => (r.1, .ok (aeLoad r.1 sram a n))
  | .held => (r.1, .held (if sram then none else heldGrain r.1 a n))
  | o => (r.1, .fail seg a o.status)

/-- Chains two accesses. -/
def aeThen {α β : Type} (p : State × AeMeets α) (f : State → α → State × AeMeets β) : State × AeMeets β :=
  match p with
  | (s, .ok v) => f s v
  | (s, .held a) => (s, .held a)
  | (s, .fail a b c) => (s, .fail a b c)

/-- Runs accesses over a list in order. -/
def aeEach {α β : Type} (s : State) (l : List α) (f : State → α → State × AeMeets β) : State × AeMeets (List β) :=
  l.foldl (fun p x => aeThen p (fun s out => aeThen (f s x) (fun s v => (s, .ok (out ++ [v]))))) (s, .ok [])

/-! Entry of an ATTEND (R222, R237, R239, R266, R267). -/

/-- The sequence entry that a segment walks: that of the entry of R266; for a sequence whose fork was then under way, the
one published since (R256). -/
def enteredSeq (s : State) (entered : Tab SeqEntry) (h : Nat) : SeqEntry :=
  let e := tabGet {} entered h
  if e.st = 1 && e.version = 0 then s.seq h else e

/-- The check of segment k at entry: its sequence handle and version, or an error at its entry in the segment table. -/
def segCheck (s : State) (entered : Tab SeqEntry) (d dom k w : Nat) : AeMeets (Nat × Nat) :=
  let h := sgHandle w
  let e := enteredSeq s entered h
  let a := e.versionAddr.toNat
  let entry := adSeg d + 32 * k
  let bad := AeMeets.fail k entry stBadArg
  if e.st ≠ 1 then bad
  else if dom ≠ e.domain.toNat ∧ dom ≠ 0x3FF then .fail k entry stDenied
  else if sgEnd w < sgStart w ∨ 64 < sgCands w ∨ e.fmtK.toNat ≠ adFmtK d ∨ e.fmtV.toNat ≠ adFmtV d ∨
      e.kvHeads.toNat ≠ adHeads d ∨ adLayer d < e.layerFirst.toNat ∨
      e.layerFirst.toNat + e.layerCount.toNat ≤ adLayer d ∨ sgStart w < verBase s a ∨ verLength s a < sgEnd w then bad
  else .ok (h, a)

/-- The check of a row (R222). -/
def rowCheck (d : Nat) (segs : List Nat) (w : Nat) : Bool :=
  let n := sgCands (segs.getD (rwSegment w) 0)
  decide (rwSegment w < adSegs d) && decide (rwPos w < 2 ^ 31) && (n == 0 || rwNode w == 0xFF || decide (rwNode w < n))

/-- Groups of a segment's span, in the order of the walk, then its candidates. -/
def segGroups (s : State) (k w : Nat) (a : Nat) (rows : List Nat) : List AeGroup :=
  let mine := rows.filter (fun r => rwSegment r == k)
  if mine.isEmpty then []
  else
    let base := verBase s a
    let lo := sgStart w
    let hi := sgEnd w
    let top := mine.foldl (fun m r => max m (rwPos r)) 0
    let pages := if hi ≤ lo then [] else (List.range ((hi - 1 - base) / 128 + 1 - (lo - base) / 128)).map (fun i => (lo - base) / 128 + i)
    let pages := pages.filter (fun p => !sgCausal w || decide (base + 128 * p ≤ top))
    let span := pages.flatMap (fun p => (List.range 4).filterMap (fun g =>
      let f := base + 128 * p + 32 * g
      if overlaps f 32 lo (hi - lo) then some { seg := k, page := p, index := 32 * g, first := f, cand := false } else none))
    span ++ ((List.range 2).filter (fun g => decide (32 * g < sgCands w))).map (fun g =>
      { seg := k, page := sgCand w, index := 32 * g, first := 32 * g, cand := true })

/-- Reads the tables and query rows of an ATTEND and forms its run. -/
def attendEntry (s : State) (e : Fin 32) (i : AeIssue) (entered : Tab SeqEntry) (d : Nat) : State × AeMeets AeRun :=
  let dom := slotDomain s i.slot
  let live := min (adRows d) i.mLive
  aeThen (aeRead s e false (adSeg d) (32 * adSegs d) dom 0xFF) (fun s sb =>
  let segs := (pieces 32 sb).map leNat
  aeThen (aeEach s segs.zipIdx (fun s w =>
    if s.seqs.forks.any (fun f => f.handle == sgHandle w.1) then (s, AeMeets.held none)
    else (s, segCheck s entered d dom w.2 w.1))) (fun s vers =>
  aeThen (aeRead s e false (adRow d) (8 * live) dom 0xFF) (fun s rb =>
  let rows := (pieces 8 rb).map leNat
  if !rows.all (rowCheck d segs) then (s, .fail 0xFF (adRow d + 8 * (rows.takeWhile (rowCheck d segs)).length) stBadArg)
  else
  aeThen (aeEach s segs.zipIdx (fun s w =>
    if sgCands w.1 = 0 then (s, AeMeets.ok [])
    else aeThen (aeRead s e false (sgTree w.1) 64 dom w.2) (fun s t =>
      (s, if treeOk t (sgCands w.1) then .ok t else .fail w.2 (sgTree w.1) stBadArg)))) (fun s trees =>
  aeThen (aeRead s e (adQSram d) (adQ d) (live * 128 * fmtSize (adFmtQ d)) dom 0xFF) (fun s qb =>
  aeThen (if adRopeQ d then aeRead s e false (adAux d) (8 * adPairs d) dom 0xFF else (s, .ok [])) (fun s fb =>
  let raw := pieces (128 * fmtSize (adFmtQ d)) qb
  let freqs := (pieces 8 fb).map leNat
  let qs := if adRopeQ d then (raw.zip rows).map (fun q => elemsBytes (adFmtQ d) (rotateRow (adFmtQ d) (adRopeSplit d) freqs (rwPos q.2) (elemsOf (adFmtQ d) q.1))) else raw
  (s, .ok { versions := vers, segs := segs, rowTab := rows, trees := trees, queries := qs, rows := List.replicate live {}, groups := (segs.zip vers).zipIdx.flatMap (fun w => segGroups s w.2 w.1.1 w.1.2.2 rows) })))))))

/-- The context waits at an access that is held. -/
def holdAe (s : State) (e : Fin 32) (c : Fin 4) (a : Option Nat) : State := s.setAeCtx e c { (s.aeCtx e c) with heldAt := a }

/-- The head of a context's queue starts: an ATTEND that took no credit enters its walker slot (R266), reads its tables and
its query rows; others do nothing yet. -/
def startAe (s : State) (e : Fin 32) (c : Fin 4) (i : AeIssue) (d : Nat) : State :=
  let put := fun (s : State) (r : AeRun) => s.setAeCtx e c { (s.aeCtx e c) with run := some r, heldAt := none }
  let s := if (tabGet {} s.seqs.walkers (aeWalker e c)).epoch.isNone then enterAe s e c else s
  if i.zero || adKind d != 0 then put s {}
  else
    let r := attendEntry s e i (s.aeCtx e c).entered d
    match r.2 with
    | .held a => holdAe r.1 e c a
    | .fail seg a st => aeFault r.1 e c seg a st
    | .ok run => put r.1 run

/-- `AE_DESCRIPTOR_START` (R214, R266): the credit take of the head is sent, or, with the credit here or none needed, the
descriptor starts. -/
def execAeDescriptorStart (ae : Fin 32) (c : Fin 4) (s : State) : Outcome :=
  let x := s.aeCtx ae c
  match x.queue with
  | [] => .next s
  | i :: _ =>
    if x.run.isSome || x.stopping || x.saved || s.sync.reqs.any (fun r => r.act == .withdraw (.ae ae c i.issued)) || (s.ae ae).failed || s.level (aeUnit ae) != 0 then .next s
    else
      let d := aeDesc s i.slot i.desc.toNat
      match aeObj s ae c i (adConsume d), x.credit with
      | none, _ => .next (startAe s ae c i d)
      | some a, .notTaken =>
        .next (sendReq (s.setAeCtx ae c { x with credit := .waiting }) ⟨a, .credit (.ae ae c i.issued), i.pc, 0⟩)
      | some _, .waiting => .next s
      | some a, .abandoned => .next (aeFault s ae c 0xFF a stAbandoned)
      | some _, .granted => .next (startAe s ae c i d)

/-! Groups. -/

/-- The in-page indices of a group that the AE reads: positions of the span, nodes of the block. -/
def groupSpan (g : AeGroup) (w : Nat) : Nat × Nat :=
  if g.cand then (g.index, min (g.index + 32) (sgCands w))
  else
    let lo := max g.first (sgStart w)
    let hi := min (g.first + 32) (sgEnd w)
    (g.index + (lo - g.first), g.index + (hi - g.first))

/-- Row r of a group sees in-page index j of it (R236 to R239). -/
def visible (run : AeRun) (g : AeGroup) (w row j : Nat) : Bool :=
  let r := run.rowTab.getD row 0
  rwSegment r == g.seg &&
    (if g.cand then sgCands w != 0 && rwNode r != 0xFF && (ancestors (run.trees.getD g.seg []) 64 (rwNode r)).contains j
     else !sgCausal w || decide (g.first + (j - g.index) ≤ rwPos r))

/-- The 128 elements of in-page index j of a part (keys or values) of a page. -/
def kvLine (s : State) (part fmt j : Nat) : List Val :=
  let raw := s.devRead (part + j * lineBytes fmt) (lineBytes fmt)
  if fmt = 6 then
    let sc := s.devRead (part + 128 * 64 + 4 * j) 4
    ((pieces 16 raw).zip sc).flatMap (fun p => fp4Block p.2.toNat p.1)
  else elemsOf fmt raw

/-- What reading one part of a group meets: elements, and scales for FP4. -/
def partMeet (s : State) (e : Fin 32) (part fmt lo hi d seg : Nat) : State × AeMeets Unit :=
  aeThen (aeEach s ([(part + lo * lineBytes fmt, (hi - lo) * lineBytes fmt)] ++ (if fmt = 6 then [(part + 128 * 64 + 4 * lo, 4 * (hi - lo))] else [])) (fun s r =>
    let m := aeMeet s e r.1 r.2 d false true
    match m.2 with
    | .served => (m.1, AeMeets.ok ())
    | .held => (m.1, .held (heldGrain m.1 r.1 r.2))
    | o => (m.1, .fail seg r.1 o.status))) (fun s _ => (s, .ok ()))

/-- Address of the page list that a segment's version names for the descriptor's layer. -/
def groupList (s : State) (d : Nat) (run : AeRun) (seg : Nat) : Nat :=
  let v := run.versions.getD seg (0, 0)
  verList s v.2 (adLayer d - (s.seq v.1).layerFirst.toNat)

/-- Address of the page or candidate block of a group, through the version's page list (R253). -/
def groupPage (s : State) (e : Fin 32) (d : Nat) (run : AeRun) (g : AeGroup) : State × AeMeets Nat :=
  if g.cand then (s, .ok g.page)
  else
    let a := groupList s d run g.seg + 8 * g.page
    let m := aeMeet s e a 8 (s.seq (run.versions.getD g.seg (0, 0)).1).domain.toNat false true
    match m.2 with
    | .served =>
      match listPage m.1 (groupList s d run g.seg) g.page with
      | some p => (m.1, .ok (pageAddr p))
      | none => (m.1, .fail g.seg a stBadArg)
    | .held => (m.1, .held (heldGrain m.1 a 8))
    | o => (m.1, .fail g.seg a o.status)

/-- The walk leaves a page: the read foreseen for it within the horizon is past (R205). -/
def leavePage (s : State) (d : Nat) (run : AeRun) (g : AeGroup) (rest : List AeGroup) : State :=
  if g.cand || rest.any (fun h => !h.cand && h.seg == g.seg && h.page == g.page) then s
  else match listPage s (groupList s d run g.seg) g.page with
    | some p => { s with tiers := { s.tiers with near := s.tiers.near.eraseP (fun x => x.1 == p) } }
    | none => s

/-- The rows' states after a group, and how many scores were clamped. -/
def groupRows (s : State) (d page : Nat) (run : AeRun) (g : AeGroup) : List RowState × Nat :=
  let w := run.segs.getD g.seg 0
  let sp := groupSpan g w
  let k0 := page + adHead d * headBytes (adFmtK d) (adFmtV d)
  let v0 := k0 + partBytes (adFmtK d)
  let js := (List.range (sp.2 - sp.1)).map (fun i => sp.1 + i)
  let lines := js.map (fun j => (j, kvLine s k0 (adFmtK d) j, kvLine s v0 (adFmtV d) j))
  run.rows.zipIdx.foldl (fun acc r =>
    let q := elemsOf (adFmtQ d) (run.queries.getD r.2 [])
    let seen := lines.filter (fun l => visible run g w r.2 l.1)
    let sc := seen.map (fun l => (scaledScore (adScale d) q l.2.1, l.2.2))
    (acc.1 ++ [groupStep (adFmtV d) r.1 (sc.map (fun p => (p.1.1, p.2)))], acc.2 + sc.countP (fun p => p.1.2))) ([], 0)

/-- Which of a group's products is not compared (R83, R244): the score product for an infinity or a NaN among the keys
read or the query rows; the value product for one among the visible values, or for a NaN probability (R228). -/
def groupUnchecked (s : State) (d page : Nat) (run : AeRun) (g : AeGroup) : Bool × Bool :=
  let w := run.segs.getD g.seg 0
  let sp := groupSpan g w
  let k0 := page + adHead d * headBytes (adFmtK d) (adFmtV d)
  let v0 := k0 + partBytes (adFmtK d)
  let bad := fun (l : List Val) => l.any (fun v => !vIsFinite v)
  let js := (List.range (sp.2 - sp.1)).map (fun i => sp.1 + i)
  let rows := List.range run.rows.length
  let query := fun (r : Nat) => elemsOf (adFmtQ d) (run.queries.getD r [])
  let nanScore := fun (j r : Nat) =>
    match (scaledScore (adScale d) (query r) (kvLine s k0 (adFmtK d) j)).1 with
    | .nan => true
    | .inf false => true
    | _ => false
  (js.any (fun j => bad (kvLine s k0 (adFmtK d) j)) || rows.any (fun r => bad (query r)),
    js.any (fun j => rows.any (fun r => visible run g w r j && (bad (kvLine s v0 (adFmtV d) j) || nanScore j r))))

/-- Tries the next group of a context: done, held or failed. -/
def tryGroup (s : State) (e : Fin 32) (c : Fin 4) : State × AeMeets Unit :=
  let x := s.aeCtx e c
  match x.queue, x.run with
  | i :: _, some run =>
    match run.groups with
    | [] => (s, .held none)
    | g :: _ =>
      let d := aeDesc s i.slot i.desc.toNat
      let w := run.segs.getD g.seg 0
      let sp := groupSpan g w
      let dom := (s.seq (sgHandle w)).domain.toNat
      aeThen (groupPage s e d run g) (fun s page =>
        let k0 := page + adHead d * headBytes (adFmtK d) (adFmtV d)
        aeThen (partMeet s e k0 (adFmtK d) sp.1 sp.2 dom g.seg) (fun s _ =>
        aeThen (partMeet s e (k0 + partBytes (adFmtK d)) (adFmtV d) sp.1 sp.2 dom g.seg) (fun s _ =>
          let out := groupRows s d page run g
          let no := groupUnchecked s d page run g
          let s := s.setAeCtx e c { x with heldAt := none, run := some { run with awaiting := some out, badScores := no.1, badValues := no.2 } }
          (s.setAe e { (s.ae e) with last := c, group := some c, runs := 0 }, .ok ()))))
  | _, _ => (s, .held none)

/-- Contexts with a next group, in the order of R215: priority of the issuing context, then first after the last. -/
def aeOrder (s : State) (e : Fin 32) : List (Fin 4) :=
  let l := (s.ae e).last.val
  let order : List (Fin 4) := [Fin.ofNat 4 (l + 1), Fin.ofNat 4 (l + 2), Fin.ofNat 4 (l + 3), Fin.ofNat 4 l]
  let ready := order.filter (fun c => let x := s.aeCtx e c
    x.run.any (fun r => !r.groups.isEmpty) && !x.stopping && !x.saved)
  let prio := fun (c : Fin 4) => ((s.aeCtx e c).queue.head?.map (fun i => (s.ctx i.tile i.ctx).prio.toNat)).getD 0
  sortBy (fun a b => decide (prio b ≤ prio a)) ready

/-- `AE_GROUP_BOUNDARY` (R215): the first context whose operands can be read works on its next group; held ones are passed
over, one whose access fails ends its descriptor. -/
def execAeGroupBoundary (ae : Fin 32) (s : State) : Outcome :=
  let y := s.ae ae
  if y.failed || y.group.isSome then .next s
  else
    let r := (aeOrder s ae).foldl (fun (p : State × Bool) c =>
      if p.2 then p
      else
        let m := tryGroup p.1 ae c
        match m.2 with
        | .held a => (holdAe m.1 ae c a, false)
        | .ok _ => (m.1, true)
        | .fail seg a st => (aeFault m.1 ae c seg a st, true)) (s, false)
    .next r.1

/-! Checks (R244, R245). -/

/-- `EV_AE_CHECK`. -/
def aeCheckEv (e : Fin 32) (c : Fin 4) (desc : Nat) (g : AeGroup) (runs : Nat) : Ev :=
  { type := 0x100B, severity := 2, scope := 1,
    items := [(16, e.val), (8, c.val), (16, desc), (32, if g.cand then 2 ^ 31 + g.first else g.first), (32, runs)] }

/-- The group's results are written: the rows change, clamps are counted (R227). -/
def commitGroup (s : State) (e : Fin 32) (c : Fin 4) : State :=
  let x := s.aeCtx e c
  let y := s.ae e
  match x.queue, x.run with
  | i :: _, some run =>
    match run.groups, run.awaiting with
    | g :: rest, some (rows, clamps) =>
      let s := s.setAeCtx e c { x with run := some { run with rows := rows, groups := rest, awaiting := none, badScores := false, badValues := false } }
      let s := leavePage s (aeDesc s i.slot i.desc.toNat) run g rest
      let s := s.setAe e { y with group := none, runs := 0 }
      let s := countN s (0x2300 + e.val) clamps
      if y.runs = 0 then s else emit s (aeCheckEv e c i.desc.toNat g (y.runs + 1))
    | _, _ => s
  | _, _ => s

/-- The AE is declared failed (R245); no access failed, so the address of each event is a free value. -/
def failAe (s : State) (e : Fin 32) : State :=
  let s := s.setAe e { (s.ae e) with failed := true, group := none, runs := 0 }
  let s := s.forAll allCtx (fun s c => aeFault s.bump e c 0xFF s.freeVal stNoResource)
  let s := emit s { type := 0x100C, severity := 4, scope := 5, items := [(16, e.val)] }
  abandonChans s 3 (fun h => h.aeMap.testBit e.val)

/-- `AE_GROUP_CHECK` (R244): whether the comparison of the score product, of the value product, or of the duplicated adders
and the anchor comparison would find a mismatch; a product that is not compared (R83) finds none.  The results of a group
whose check passes are written; a mismatch executes the group again, the third declares the AE failed. -/
def aeGroupCheck (ae : Fin 32) (scores values adders : Bool) (s : State) : State :=
  let y := s.ae ae
  match y.group with
  | none => s
  | some c =>
    let run := (s.aeCtx ae c).run.getD {}
    if !(adders || (scores && !run.badScores) || (values && !run.badValues)) then commitGroup s ae c
    else
      let s := count s (0x2200 + ae.val)
      if 2 ≤ y.runs then (failAe s ae) else (s.setAe ae { (s.ae ae) with runs := y.runs + 1 })

/-! Ends (R232 to R235, R243). -/

/-- The descriptor has ended normally: its release is signalled, it leaves its walker slot and the queue. -/
def finishAe (s : State) (e : Fin 32) (c : Fin 4) (i : AeIssue) (d : Nat) : State :=
  let s := match aeObj s e c i (adRelease d) with
    | some a => sendReq s ⟨a, .release (.ae e c i.issued), i.pc, 0⟩
    | none => s
  let s := leaveWalker s (aeWalker e c)
  let x := s.aeCtx e c
  aeArrival s e c { x with queue := x.queue.drop 1, credit := .notTaken, run := none, heldAt := none, entered := [] }

/-- Writes the descriptor's bytes and ends it; a held grain keeps it. -/
def writeAe (s : State) (e : Fin 32) (c : Fin 4) (i : AeIssue) (d : Nat) (l : List Byte) : State :=
  let m := aeMeetAt s e (adOutSram d) (adOut d) l.length (slotDomain s i.slot) true
  match m.2 with
  | .served => finishAe (aeStore m.1 (adOutSram d) (adOut d) l) e c i d
  | .held => holdAe m.1 e c (if adOutSram d then none else heldGrain m.1 (adOut d) l.length)
  | o => aeFault m.1 e c 0xFF (adOut d) o.status

/-- Finishes rows by R232: partial records or normalised rows. -/
def finishRows (d : Nat) (rows : List RowState) : List Byte :=
  if adPartial d then rows.flatMap partialBytes else rows.flatMap (rowOut (adFmtO d))

/-- The rows of a MERGE (R234). -/
def mergeResult (s : State) (e : Fin 32) (i : AeIssue) (d : Nat) : State × AeMeets (List RowState) :=
  let dom := slotDomain s i.slot
  let live := min (adRows d) i.mLive
  aeThen (aeRead s e false (adAux d) (8 * adMergeCount d) dom 0xFF) (fun s lb =>
    let list := (pieces 8 lb).map leNat
    let ok := fun w => bits w 63 48 == 0
    if !list.all ok then (s, .fail 0xFF (adAux d + 8 * (list.takeWhile ok).length) stBadArg)
    else aeThen (aeEach s list (fun s a => aeRead s e false a (1056 * live) dom 0xFF)) (fun s arrays =>
      (s, .ok ((List.range live).map (fun r =>
        let recs := arrays.map (fun l => partialOf ((l.drop (1056 * r)).take 1056))
        (recs.drop 1).foldl mergeRows (recs.headD {}))))))

/-- The bytes of a ROPE_TABLE (R243). -/
def ropeResult (s : State) (e : Fin 32) (i : AeIssue) (d : Nat) : State × AeMeets (List Byte) :=
  let dom := slotDomain s i.slot
  let live := min (adRows d) i.mLive
  aeThen (aeRead s e false (adRow d) (4 * live) dom 0xFF) (fun s pb =>
    let ps := (pieces 4 pb).map leNat
    let ok := fun p => decide (p < 2 ^ 31)
    if !ps.all ok then (s, .fail 0xFF (adRow d + 4 * (ps.takeWhile ok).length) stBadArg)
    else aeThen (aeRead s e false (adAux d) (8 * adPairs d) dom 0xFF) (fun s fb =>
      let fs := (pieces 8 fb).map leNat
      (s, .ok (ps.flatMap (fun p => fs.flatMap (fun f => elemsBytes 0 [turnCos (angle p f), turnSin (angle p f)]))))))

/-- `AE_DESCRIPTOR_END` (R214, R232, R234, R243, R266): all groups of the descriptor have been processed. -/
def execAeDescriptorEnd (ae : Fin 32) (c : Fin 4) (s : State) : Outcome :=
  let x := s.aeCtx ae c
  match x.queue, x.run with
  | i :: _, some run =>
    let d := aeDesc s i.slot i.desc.toNat
    if !run.groups.isEmpty || run.awaiting.isSome || x.stopping || x.saved then .next s
    else if i.zero then .next (finishAe s ae c i d)
    else match adKind d with
      | 0 => .next (writeAe s ae c i d (finishRows d run.rows))
      | 1 =>
        let r := mergeResult s ae i d
        match r.2 with
        | .ok rows => .next (writeAe r.1 ae c i d (finishRows d rows))
        | .held a => .next (holdAe r.1 ae c a)
        | .fail seg a st => .next (aeFault r.1 ae c seg a st)
      | _ =>
        let r := ropeResult s ae i d
        match r.2 with
        | .ok l => .next (writeAe r.1 ae c i d l)
        | .held a => .next (holdAe r.1 ae c a)
        | .fail seg a st => .next (aeFault r.1 ae c seg a st)
  | _, _ => .next s

/-- `AE_CONTEXT_SAVE` (R216): at its next group boundary a context that is pre-empted writes its rows' states as partial
records, and its place in the walk, to its save area; a credit it waits for is withdrawn. -/
def aeContextSave (ae : Fin 32) (c : Fin 4) (s : State) : State :=
  let x := s.aeCtx ae c
  if x.stopping && (s.ae ae).group != some c then
    let s := aeWithdraw s ae c false
    s.setAeCtx ae c { x with
      stopping := false, saved := true, heldAt := none
      credit := if x.credit = .waiting then .notTaken else x.credit
      area := (x.run.map (fun r => r.rows.flatMap partialBytes)).getD []
      left := (x.run.map (fun r => r.groups.length)).getD 0
      run := x.run.map (fun r => { r with rows := [] }) }
  else s

/-- Restoration (R216): the rows' states are read back and the walk goes on from the next group. -/
def aeRestore (s : State) (e : Fin 32) (c : Fin 4) : State :=
  let x := s.aeCtx e c
  if x.saved then
    s.setAeCtx e c { x with
      saved := false, area := [], left := 0
      run := x.run.map (fun r => { r with rows := (pieces 1056 x.area).map partialOf, groups := r.groups.drop (r.groups.length - x.left) }) }
  else s

end Sys2Proof.Machine
end

