-- ==== Sys2Proof/Machine/NetBase.lean ====
section
/-! DEFINITION. What every arriving fabric packet meets (ch. 13): the ingress check, sealing, and reachability. -/

namespace Sys2Proof.Machine

def pktKindTime : Nat := 6
def pktKindSession : Nat := 9

/-- The ingress check (R360). -/
def ingressOk (s : State) (p : PktHdr) (kind : Nat) : Bool :=
  let d := p.src.toNat
  let self := moduleId s
  (s.fabric.route.any (fun r => r.slice == p.slice) && isMember s d) ||
    ((kind == pktKindTime || kind == pktKindSession) &&
      (isMaster s d || isBackup s d || isMaster s self || isBackup s self))

/-- `DENY` to the source of a WRITE or SIGNAL. -/
def sendDeny (s : State) (p : PktHdr) (status : Nat) : State :=
  if (possibleSet s p.src.toNat).isEmpty then s
  else sendControl s 3 p.src.toNat p.domain.toNat p.xfer p.index.toNat 0 status []

/-- A packet that fails the ingress check: counted, reported at most once per 1 ms per port, answered with DENY if it is
a WRITE or SIGNAL (R360). -/
def sliceRefused (s : State) (p : PktHdr) (kind : Nat) : State :=
  let s := count s 0x1500
  let x := s.port p.port.val
  let now := s.time.now.toNat
  let s := if x.refusedAt.all (fun t => decide (t + 1000000 ≤ now)) then
      emit (s.setPort p.port.val { x with refusedAt := some now }) { type := 0x4001, severity := 3, scope := 1, items := [(8, p.port.val), (16, p.src.toNat), (16, p.slice.toNat)] }
    else s
  if kind = 0 ∨ kind = 1 then sendDeny s p stDenied else s

/-- `EV_SEAL_FAIL`: the peer and the reason, whose codes the manual does not give (a free value). -/
def sealFail (s : State) (peer : Nat) : State :=
  emit s.bump { type := 0x4005, severity := 3, scope := 1, items := [(16, peer), (8, s.freeVal)] }

/-- A session that is gone: sealed packets to the peer need a new handshake. -/
def endSession (s : State) (d : Nat) : State :=
  let x := s.sess d
  s.setSess d { (default' : Session) with gen := x.gen, failedAt := x.failedAt }
where
  default' : Session := {}

/-- A tag failure (R375): counted, reported at most once per 1 ms per peer; sixteen within 1 ms end the session and start
a new handshake. -/
def tagFailure (s : State) (d : Nat) : State :=
  let s := count s 0x1800
  let now := s.time.now.toNat
  let x := s.sess d
  let fails := now :: (x.fails.filter (fun t => decide (now < t + 1000000)))
  let report := x.failedAt.all (fun t => decide (t + 1000000 ≤ now))
  let s := s.setSess d { x with fails := fails, failedAt := if report then some now else x.failedAt }
  let s := if report then sealFail s d else s
  if 16 ≤ fails.length ∧ x.st = 2 then openSession (endSession s d) d x.timeOnly else s

/-- A counter within a window of 4,096 below the highest seen. -/
def replayed (high : Nat) (seen : List Nat) (c : Nat) : Bool := decide (c + 4096 ≤ high) || seen.contains c

/-- The window after a counter has been taken. -/
def windowWith (high : Nat) (seen : List Nat) (c : Nat) : Nat × List Nat :=
  let h := max high c
  (h, c :: seen.filter (fun x => decide (h < x + 4096)))

/-- A sealed packet under its session (R375, R376): dropped as a replay, dropped as a failure, or accepted. -/
def openSealed (s : State) (p : PktHdr) : State × Bool :=
  let d := p.src.toNat
  let x := s.sess d
  let c := p.ctr.toNat
  let cur := x.st == 2 && p.keyGen == x.gen
  let old := x.oldOk && p.keyGen + 1 == x.gen
  if cur && replayed x.high x.seen c || !cur && old && replayed x.oldHigh x.oldSeen c then (count s 0x1700, false)
  else if !(cur || old) || !p.tagOk then (tagFailure s d, false)
  else if cur then
    let w := windowWith x.high x.seen c
    (s.setSess d { x with high := w.1, seen := w.2, newSeen := true }, true)
  else
    let w := windowWith x.oldHigh x.oldSeen c
    (s.setSess d { x with oldHigh := w.1, oldSeen := w.2 }, true)

/-- `EV_FABRIC_UNREACHABLE` with its reachable flag. -/
def unreachableEv (d : Nat) (reachable : Bool) : Ev :=
  { type := 0x4008, severity := if reachable then 0 else 3, scope := if reachable then 0 else 6, items := [(16, d), (8, if reachable then 1 else 0)] }

/-- A packet arrives from a destination: it is reachable again (R380). -/
def heardFrom (s : State) (d : BitVec 12) : State :=
  if s.fabric.unreachable.contains d then
    emit { s with fabric := { s.fabric with unreachable := s.fabric.unreachable.erase d } } (unreachableEv d.toNat true)
  else s

/-! Receive buffers (R362). -/

/-- Units that a message of n bytes takes in a receive buffer, as packets of at most 256 bytes. -/
def messageUnits (n : Nat) (sealed : Bool) : Nat :=
  n / 256 * packetUnits 256 sealed + (if n % 256 = 0 ∧ 0 < n then 0 else packetUnits (max 1 (n % 256)) sealed)

/-- The buffer of a message of n bytes is free again: its credits go back to the switch. -/
def returnCredit (s : State) (p : PktHdr) (n : Nat) : State :=
  { s with out := { s.out with credits := s.out.credits ++ [(p.port, p.cls.toNat, messageUnits n p.sealed)] } }

/-- Header and bytes of what a receive buffer holds. -/
def HeldIn.size : HeldIn → PktHdr × Nat
  | .write p l => (p, l.length)
  | .ring p _ _ _ l => (p, l.length)
  | .coll p _ l => (p, 64 + l.length)

/-- Units of a class that a port's receive buffer holds. -/
def rxUsed (s : State) (port : Fin 8) (cls : Nat) : Nat :=
  (s.fabric.heldIn.map (fun h =>
    let x := h.size
    if x.1.port = port ∧ x.1.cls.toNat = cls then messageUnits x.2 x.1.sealed else 0)).sum

/-- A message finds room in its port's buffer: 8 KiB of its own for each data class and 72 KiB shared by both. -/
def rxRoom (s : State) (h : HeldIn) : Bool :=
  let x := h.size
  let n := fun (c : Nat) => rxUsed s x.1.port c + (if x.1.cls.toNat = c then messageUnits x.2 x.1.sealed else 0) - 128
  decide (n 0 + n 1 ≤ 1152)

/-- A message whose grain is held stays in the receive buffer; one that is there already, or that finds no room (its switch
had no credit for it), leaves nothing. -/
def holdIn (s : State) (h : HeldIn) : State :=
  if s.fabric.heldIn.contains h then returnCredit s h.size.1 h.size.2
  else if !rxRoom s h then s
  else { s with fabric := { s.fabric with heldIn := s.fabric.heldIn ++ [h] } }

/-- What an arriving packet of a kind meets: the state, and whether it is accepted.  A data-class packet wakes its port's die
from I3 (Table 17.4).  A packet whose pair must be sealed (R373) and is not is treated as a tag failure. -/
def admitPacket (s : State) (p : PktHdr) (kind : Nat) : State × Bool :=
  let s := if p.cls.toNat < 2 then wakeDie s (p.port.val / 2) else s
  if !ingressOk s p kind then (sliceRefused s p kind, false)
  else
    let r := if p.sealed then openSealed s p
      else if kind != pktKindSession && p.src.toNat / 64 != moduleId s / 64 then (tagFailure s p.src.toNat, false)
      else (s, true)
    if r.2 then (heardFrom r.1 p.src, true) else r

/-- The same of a packet that nothing can hold in its buffer: its credit goes back at once. -/
def ingress (s : State) (p : PktHdr) (kind : Nat) : State × Bool :=
  let r := admitPacket s p kind
  (returnCredit r.1 p (p.length.toNat + 1), r.2)

end Sys2Proof.Machine
end

