-- ==== Sys2Proof/Machine/Sha.lean ====
section
/-! DEFINITION. SHA-384, which the manual names for digests (R273, R302, R429); its definition is that of FIPS 180-4
(log entry 20): the constants are fractions of the cube and square roots of the first primes. -/

namespace Sys2Proof.Machine

/-- The first 80 primes. -/
def shaPrimes : List Nat := ((List.range 410).filter (fun n => decide (2 ≤ n) && (List.range (isqrt n)).all (fun d => d = 0 || n % (d + 1) != 0))).take 80

/-- The integer cube root, bit by bit. -/
def icbrtFrom (n : Nat) : Nat → Nat → Nat
  | 0, r => if (r + 1) * (r + 1) * (r + 1) ≤ n then r + 1 else r
  | b + 1, r =>
    let q := r + 2 ^ (b + 1)
    icbrtFrom n b (if q * q * q ≤ n then q else r)

/-- Round constants: 64 fraction bits of the cube roots. -/
def shaK : List Word64 := shaPrimes.map (fun p => BitVec.ofNat 64 (icbrtFrom (p * 2 ^ 192) 68 0))

/-- Initial words of SHA-384: 64 fraction bits of the square roots of the ninth to sixteenth primes. -/
def shaInit : List Word64 := ((shaPrimes.drop 8).take 8).map (fun p => BitVec.ofNat 64 (isqrt (p * 2 ^ 128)))

def shaS0 (x : Word64) : Word64 := x.rotateRight 1 ^^^ x.rotateRight 8 ^^^ (x >>> 7)
def shaS1 (x : Word64) : Word64 := x.rotateRight 19 ^^^ x.rotateRight 61 ^^^ (x >>> 6)
def shaE0 (x : Word64) : Word64 := x.rotateRight 28 ^^^ x.rotateRight 34 ^^^ x.rotateRight 39
def shaE1 (x : Word64) : Word64 := x.rotateRight 14 ^^^ x.rotateRight 18 ^^^ x.rotateRight 41

/-- The message schedule, latest word first, extended by n words. -/
def shaExtend : Nat → List Word64 → List Word64
  | 0, w => w
  | n + 1, w => shaExtend n ((shaS1 (w.getD 1 0) + w.getD 6 0 + shaS0 (w.getD 14 0) + w.getD 15 0) :: w)

/-- The eight working words. -/
structure ShaWords where
  a : Word64
  b : Word64
  c : Word64
  d : Word64
  e : Word64
  f : Word64
  g : Word64
  h : Word64
  deriving DecidableEq, Repr

def shaRound (v : ShaWords) (kw : Word64) : ShaWords :=
  let t1 := v.h + shaE1 v.e + ((v.e &&& v.f) ^^^ (~~~v.e &&& v.g)) + kw
  let t2 := shaE0 v.a + ((v.a &&& v.b) ^^^ (v.a &&& v.c) ^^^ (v.b &&& v.c))
  ⟨t1 + t2, v.a, v.b, v.c, v.d + t1, v.e, v.f, v.g⟩

def ShaWords.add (v w : ShaWords) : ShaWords :=
  ⟨v.a + w.a, v.b + w.b, v.c + w.c, v.d + w.d, v.e + w.e, v.f + w.f, v.g + w.g, v.h + w.h⟩

/-- One block of 128 bytes. -/
def shaBlock (v : ShaWords) (l : List Byte) : ShaWords :=
  let w := (shaExtend 64 ((pieces 8 l).map (fun b => BitVec.ofNat 64 (beNat b))).reverse).reverse
  ShaWords.add v (((shaK.zip w).map (fun p => p.1 + p.2)).foldl shaRound v)

/-- The padded message. -/
def shaPad (l : List Byte) : List Byte :=
  l ++ [0x80#8] ++ List.replicate ((128 - (l.length + 17) % 128) % 128) 0#8 ++ beBytes 16 (8 * l.length)

/-- The 48-byte digest. -/
def sha384 (l : List Byte) : List Byte :=
  let i := fun (k : Nat) => shaInit.getD k 0
  let v := (pieces 128 (shaPad l)).foldl shaBlock ⟨i 0, i 1, i 2, i 3, i 4, i 5, i 6, i 7⟩
  [v.a, v.b, v.c, v.d, v.e, v.f].flatMap (fun x => beBytes 8 x.toNat)

/-- The check value of a ring or group (R273, R302): the first 64 bits of the digest of its number, its member count and
the members' module IDs, 2 bytes each, little-endian; read with byte 0 as the least significant (R101). -/
def checkValue (id : Nat) (members : List Nat) : BitVec 64 :=
  BitVec.ofNat 64 (leNat ((sha384 ((id :: members.length :: members).flatMap (leBytes 2))).take 8))

end Sys2Proof.Machine
end

