-- ==== Sys2Proof/Machine/TileSys.lean ====
section
/-! DEFINITION. Fabric time as tiles read it, SGET and END (R114, R126, R365, R372). -/

namespace Sys2Proof.Machine

/-- The step period in use, as n of 2^n ns: the one a source fixed or announced, else the table's own (R372); 10 where
there is neither (log entry 12). -/
def stepLog2 (s : State) : Nat := (s.time.step.orElse (fun _ => s.fabric.route.map (·.stepLog2))).getD 10

/-- The global step counter (R372). -/
def globalStep (s : State) : Nat := s.time.now.toNat / 2 ^ stepLog2 s % 2 ^ 48

/-- Step g has been reached (R372). -/
def stepReached (s : State) (g : Nat) : Bool := decide ((globalStep s + 2 ^ 48 - g % 2 ^ 48) % 2 ^ 48 < 2 ^ 47)

/-- A source of SGET (Table 4.19); none for a reserved code. -/
def sgetSrc (s : State) (u : Issue) (x : Ctx) (src : Nat) : Option Word64 :=
  if src < 8 then some ((x.getX src).setWidth 64)
  else if src = 8 then some (BitVec.ofNat 64 u.tile.val)
  else if src = 9 then some (BitVec.ofNat 64 u.ctx.val)
  else if src = 10 then some (BitVec.ofNat 64 (u.tile.val / 48))
  else if src = 11 then some (BitVec.ofNat 64 (moduleId s))
  else if src = 12 then some (BitVec.ofNat 64 (((x.slot.bind s.launch).map (·.number.toNat)).getD 0))
  else if src = 13 then some s.time.now
  else if src = 14 then some (BitVec.ofNat 64 (globalStep s))
  else if 16 ≤ src ∧ src < 32 then some (x.getA (Fin.ofNat 16 (src - 16)))
  else if 32 ≤ src ∧ src < 40 then some ((x.getL (src - 32)).setWidth 64)
  else none

/-- `SGET` (R114). -/
def execSget (u : Issue) (sd : Fin 32) (src : BitVec 6) (s : State) : Outcome :=
  .next (issue s u (fun x =>
    match sgetSrc s u x src.toNat with
    | some v => advance (s.setCtx u.tile u.ctx (x.setS sd v)) u.tile u.ctx
    | none => issueFault s u x 0x03 none))

/-- `END` (R126): the context becomes EMPTY once every instruction it has issued has completed. -/
def execEnd (u : Issue) (s : State) : Outcome := .next (issue s u (fun _ => endCtx s u))

end Sys2Proof.Machine
end

