-- ==== Sys2Proof/Machine/Ring.lean ====
section
/-! DEFINITION. Carousel (ch. 10): rings, bindings, passes of the ring movers, their messages, and the requests at sync
homes that a mover watches. -/

namespace Sys2Proof.Machine

/-! Tables. -/

def State.ring (s : State) (i : Nat) : RingEntry := tabGet {} s.rings.table i
def State.setRing (s : State) (i : Nat) (x : RingEntry) : State :=
  { s with rings := { s.rings with table := tabPut {} s.rings.table i x } }
def State.bind (s : State) (b : Nat) : Binding := tabGet {} s.rings.binds b
def State.setBind (s : State) (b : Nat) (x : Binding) : State :=
  { s with rings := { s.rings with binds := tabPut {} s.rings.binds b x } }

/-- The table entry of a ring ID. -/
def ringIx (s : State) (id : BitVec 12) : Option Nat := (s.rings.table.find? (fun e => e.2.st != 0 && e.2.id == id)).map (·.1)
def ringOf (s : State) (id : BitVec 12) : Option RingEntry := (ringIx s id).map s.ring

/-- The binding of a sequence, and that of a ring and tag. -/
def bindOfSeq (s : State) (h : Nat) : Option Nat := (s.rings.binds.find? (fun e => e.2.used && e.2.handle == h)).map (·.1)
def bindOfTag (s : State) (id : BitVec 12) (tag : BitVec 16) : Option Nat :=
  (s.rings.binds.find? (fun e => e.2.used && e.2.ring == id && e.2.tag == tag)).map (·.1)

/-- Sequences bound to a ring. -/
def ringBound (s : State) (id : BitVec 12) : Nat := (s.rings.binds.filter (fun e => e.2.used && e.2.ring == id)).length

def RingEntry.n (r : RingEntry) : Nat := r.members.length
/-- Module ID of member i (mod N). -/
def RingEntry.mem (r : RingEntry) (i : Nat) : Nat := ((r.members[i % r.members.length]?).map (·.toNat)).getD 0xFFF
def RingEntry.succ (r : RingEntry) : Nat := r.mem (r.index + 1)
def RingEntry.pred (r : RingEntry) : Nat := r.mem (r.index + r.n - 1)
/-- The other members' module IDs. -/
def RingEntry.others (r : RingEntry) : List Nat := (r.members.eraseIdx r.index).map (·.toNat)

/-! Pass records (Table 10.4). -/

def prArrive (d : Nat) : Nat := bits d 1023 976
def prDone (d : Nat) : Nat := bits d 975 928
def prQ (d : Nat) : Nat := bits d 927 880
def prStage (d : Nat) : Nat := bits d 879 832
def prPart (d : Nat) : Nat := bits d 831 784
def prOut (d : Nat) : Nat := bits d 783 736
def prResult (d : Nat) : Nat := bits d 735 688
def prRole (d : Nat) : Nat := bits d 687 640
def prG (d : Nat) : Nat := bits d 639 592
def prStepNs (d : Nat) : Nat := bits d 591 560
def prSlackNs (d : Nat) : Nat := bits d 559 528
def prQBytes (d : Nat) : Nat := bits d 527 496
def prHeadBytes (d : Nat) : Nat := bits d 495 472
def prOutBytes (d : Nat) : Nat := bits d 471 448
def prHeads (d : Nat) : Nat := bits d 447 440
def prOrigin (d : Nat) : Nat := bits d 439 432
def prLayer (d : Nat) : Nat := bits d 431 424
def prSpread (d : Nat) : Bool := bitAt d 416
def prOp (d : Nat) : Nat := bits d 31 24
def prHandle (d : Nat) : Nat := bits d 16 0

def Pass.num (p : Pass) : Nat := p.data.toNat
def Pass.rotates (p : Pass) : Bool := prOp p.num == 0x11

/-! Geometry of a pass. -/

/-- Merge member of a head (R289). -/
def mergeMember (d n h : Nat) : Nat := if prSpread d then h * n / prHeads d else prOrigin d
/-- Heads that member i merges. -/
def mergeHeads (d n i : Nat) : List Nat := (List.range (prHeads d)).filter (fun h => mergeMember d n h == i)
/-- Relative index of member i (R288). -/
def relIndex (d n i : Nat) : Nat := (i + n - prOrigin d % n) % n
/-- Member with relative index r. -/
def absIndex (d n r : Nat) : Nat := (r + prOrigin d) % n
/-- Members that member i forwards query rows to. -/
def queryChildren (d n i : Nat) : List Nat :=
  let r := relIndex d n i
  ([2 * r + 1, 2 * r + 2].filter (fun x => decide (x < n))).map (absIndex d n)

/-- Member m sends data of the pass to member i (R281). -/
def sendsTo (d n m i : Nat) : Bool :=
  m != i && (if prOp d == 0x11 then (m + 1) % n == i
    else (queryChildren d n m).contains i || !(mergeHeads d n i).isEmpty || (i == prOrigin d && !(mergeHeads d n m).isEmpty))

/-- Chunks of 64 KiB in n bytes. -/
def chunks (n : Nat) : Nat := cdiv n 65536

/-- Layers of a bound sequence, from its layer number. -/
def seqLayer (e : SeqEntry) (layer : Nat) : Nat := layer - e.layerFirst.toNat

/-- Visitor of step k. -/
def Binding.visitor (x : Binding) (k : Nat) : Nat :=
  match k % 3 with
  | 0 => x.visitor0
  | 1 => x.visitor1
  | _ => x.visitor2

/-- Base and length of the shard of step k, once known. -/
def shardOf (s : State) (p : Pass) (k : Nat) : Option (Nat × Nat) :=
  if k = 0 then some (verBase s p.version, verLength s p.version)
  else (p.shards.find? (fun e => e.1 == k)).map (·.2)

/-- Address of chunk c of page j of the shard of step k. -/
def shardAddr (s : State) (x : Binding) (p : Pass) (k j c : Nat) : Nat :=
  let e := s.seq x.handle
  let v := if k = 0 then p.version else (s.seq (x.visitor k)).versionAddr.toNat
  match listPage s (verList s v (seqLayer e (prLayer p.num))) j with
  | some pg => pageAddr pg + 65536 * c
  | none => 0

/-- Bytes of chunk c of a block of n bytes. -/
def chunkLen (n c : Nat) : Nat := min 65536 (n - 65536 * c)

/-- Chunks of the shard of a step: pages times chunks; an empty shard is announced by one empty chunk. -/
def shardChunks (s : State) (x : Binding) (k : Nat) (bl : Nat × Nat) : List RingData :=
  let e := s.seq x.handle
  let n := pageCount bl.1 bl.2
  if n = 0 then [.shard k 0 0]
  else (List.range n).flatMap (fun j => (List.range e.pageGrains.toNat).map (fun c => RingData.shard k j c))

/-- Address and length of a chunk at this member; where `recv`, at the receiver. -/
def chunkPlace (s : State) (x : Binding) (p : Pass) (n : Nat) (recv : Bool) : RingData → Nat × Nat
  | .shard k j c =>
    let e := s.seq x.handle
    let bytes := pageBytes e.kvHeads.toNat e.fmtK.toNat e.fmtV.toNat
    let empty := match shardOf s p k with
      | some bl => pageCount bl.1 bl.2 == 0
      | none => false
    (shardAddr s x p (if recv then max k 1 else k - 1) j c, if empty then 0 else chunkLen bytes c)
  | .query c => (prQ p.num + 65536 * c, chunkLen (prQBytes p.num) c)
  | .part h m c =>
    ((if recv then prPart p.num + (h * n + m) * prHeadBytes p.num else prStage p.num + h * prHeadBytes p.num) + 65536 * c, chunkLen (prHeadBytes p.num) c)
  | .output h c => (prOut p.num + h * prOutBytes p.num + 65536 * c, chunkLen (prOutBytes p.num) c)

/-! Counters of a pass. -/

/-- Advances of the done counter since acceptance (R282). -/
def doneOf (s : State) (p : Pass) : Nat :=
  let k := ((s.obj (prDone p.num)).count - p.d0).toNat
  if k < 2 ^ 31 then k else 0

/-! Messages. -/

/-- Kinds of ring message. -/
def rmChunk : Nat := 0
def rmFree : Nat := 1
def rmAck : Nat := 2
def rmHold : Nat := 3
def rmResume : Nat := 4
def rmAbandon : Nat := 5
def rmBroken : Nat := 6

/-- The items of a RingData, as the model lays them out in a message. -/
def ringDataItems : RingData → List (Nat × Nat)
  | .shard k j c => [(8, 0), (32, k), (32, j), (32, c)]
  | .query c => [(8, 1), (32, 0), (32, 0), (32, c)]
  | .part h m c => [(8, 2), (32, h), (32, m), (32, c)]
  | .output h c => [(8, 3), (32, h), (32, 0), (32, c)]

/-- What every message of a pass carries (R273, R281). -/
def ringItems (r : RingEntry) (tag : BitVec 16) (d kind : Nat) : List (Nat × Nat) :=
  [(8, kind), (12, r.id.toNat), (64, r.check.toNat), (16, tag.toNat), (48, prG d), (8, prLayer d), (8, prOp d)]

/-- A ring control message to a module; not sent where the egress check refuses the module (R358). -/
def sendRing (s : State) (dst : Nat) (domain : Nat) (items : List (Nat × Nat)) : State :=
  if isMember s dst && !(possibleSet s dst).isEmpty then sendControl s 4 dst domain 0 0 0 0 items else s

/-- A control message of a binding's pass. -/
def sendPass (s : State) (r : RingEntry) (x : Binding) (p : Pass) (kind dst : Nat) (extra : List (Nat × Nat)) : State :=
  sendRing s dst p.domain.toNat (ringItems r x.tag p.num kind ++ extra)

/-- The items of a first chunk (R281). -/
def firstItems (s : State) (x : Binding) (p : Pass) (k : Nat) : List (Nat × Nat) :=
  let e := s.seq x.handle
  let d := p.num
  let bl := (shardOf s p (k - 1)).getD (0, 0)
  [(32, prStepNs d), (32, prSlackNs d), (4, e.fmtK.toNat), (4, e.fmtV.toNat), (6, e.kvHeads.toNat), (10, e.domain.toNat), (8, prOrigin d), (8, prHeads d), (1, b2n (prSpread d)), (32, prQBytes d), (24, prHeadBytes d), (32, bl.1), (32, bl.2)]

/-- The packets of a chunk: what every message of the pass carries, then the chunk's bytes. -/
def chunkPackets (s : State) (r : RingEntry) (b : Nat) (x : Binding) (p : Pass) (dst : BitVec 12) (d : RingData) : List Packet :=
  let place := chunkPlace s x p r.n false d
  let first := match d with
    | .shard k 0 0 => firstItems s x p k
    | .query 0 => firstItems s x p 1
    | .part _ _ 0 => firstItems s x p 1
    | .output _ 0 => firstItems s x p 1
    | _ => []
  splitPacket { kind := 4, dst := dst, cls := if r.cls then 1 else 0, domain := p.domain, chunk := some (.ring (Fin.ofNat 16384 b) dst d) }
    (itemBytes (ringItems r x.tag p.num rmChunk ++ ringDataItems d ++ first) ++ s.devRead place.1 place.2)

/-! Ends of passes (R280). -/

/-- Arrival advances of a whole pass. -/
def passF (d n : Nat) : Nat := if prOp d = 0x11 then n + 1 else 5

/-- Progress item of the result word. -/
def passProgress (s : State) (p : Pass) (n : Nat) : Nat := if p.rotates then min n (doneOf s p) else p.reached

/-- Ends the pass of a binding: the result word, then the addition to the arrival counter. -/
def endPass (s : State) (b : Nat) (status : Nat) : State :=
  let x := s.bind b
  match x.pass with
  | none => s
  | some p =>
    let n := ((ringOf s x.ring).map (·.n)).getD 1
    let prog := passProgress s p n
    let s := leaveWalker s p.walker
    let s := s.setBind b { x with pass := none }
    let s := { s with fabric := { s.fabric with waiting := s.fabric.waiting.filter (fun k => match k.chunk with
      | some (.ring j _ _) => j.val != b
      | _ => true) } }
    let a := prArrive p.num
    hubWord s { addr := prResult p.num, bytes := leBytes 8 (status * 2 ^ 56 + prog % 2 ^ 16 * 2 ^ 32 + p.late % 2 ^ 32), domain := some p.domain, report := some (0, p.tile.val, p.ctx.val), adds := [(a, p.a0 + BitVec.ofNat 32 (passF p.num n) - (s.obj a).count)] }

/-- `EV_RING_FAULT` (R273, R281). -/
def ringFault (s : State) (status src : Nat) : State :=
  emit s { type := 0x3001, status := status, severity := 3, scope := 1, items := [(16, src)] }

/-- A member that detects a mismatch, or cannot write what it receives, ends its pass and tells every member (R281). -/
def abandonPass (s : State) (b status : Nat) : State :=
  let x := s.bind b
  match x.pass, ringOf s x.ring with
  | some p, some r =>
    let s := s.forAll r.others (fun s m => sendPass s r x p rmAbandon m [])
    endPass s b status
  | _, _ => s

/-! Sending chunks. -/

/-- The slot-free messages of a source for a visitor. -/
def freesOf (p : Pass) (src : Nat) (v : Nat) : Nat := p.frees.countP (fun f => f.1.toNat == src && f.2.val == v)

/-- A page of the shard of step k is wholly present at this member. -/
def pageHere (s : State) (x : Binding) (p : Pass) (k j : Nat) : Bool :=
  k == 0 || (List.range (s.seq x.handle).pageGrains.toNat).all (fun c => p.got.contains (.shard k j c))

/-- The chunks that a pass may send now, with their destinations, in order. -/
def sendable (s : State) (r : RingEntry) (x : Binding) (p : Pass) : List (BitVec 12 × RingData) :=
  let n := r.n
  let d := p.num
  let toward := fun (m : Nat) => BitVec.ofNat 12 (r.mem m)
  let ready := fun (m : Nat) => decide (0 < freesOf p (r.mem m) 0)
  if p.begun.isNone then []
  else if p.rotates then
    (List.range (n - 1)).flatMap (fun k =>
      match shardOf s p k with
      | none => []
      | some bl =>
        let v := (k + 1) % 3
        let turn := if v = 0 then (k + 1) / 3 else (k + 1) / 3 + 1
        if freesOf p r.succ v < turn then []
        else (shardChunks s x (k + 1) bl).filterMap (fun c => match c with
          | .shard _ j _ => if pageCount bl.1 bl.2 = 0 || pageHere s x p k j then some (toward (r.index + 1), c) else none
          | _ => none))
  else
    let i := r.index
    let q := if i == prOrigin d || (List.range (chunks (prQBytes d))).all (fun c => p.got.contains (.query c)) then
        (queryChildren d n i).flatMap (fun m => if ready m then (List.range (chunks (prQBytes d))).map (fun c => (toward m, RingData.query c)) else [])
      else []
    let parts := if 1 ≤ doneOf s p then
        (List.range (prHeads d)).flatMap (fun h =>
          let m := mergeMember d n h
          if m != i && ready m then (List.range (chunks (prHeadBytes d))).map (fun c => (toward m, RingData.part h i c)) else [])
      else []
    let outs := if 2 ≤ doneOf s p && i != prOrigin d && ready (prOrigin d) then
        (mergeHeads d n i).flatMap (fun h => (List.range (chunks (prOutBytes d))).map (fun c => (toward (prOrigin d), RingData.output h c)))
      else []
    q ++ parts ++ outs

/-- A mover reads a chunk's bytes: served, held or refused. -/
def moverRead (s : State) (p : Pass) (die : Fin 5) (d : RingData) (a n dom : Nat) : State × Access :=
  match d with
  | .shard _ _ _ => if n = 0 then (s, .served) else meetGrain s (grainOf a) dom false true die
  | _ => if n = 0 then (s, .served) else devMeet s a n p.domain.toNat false die

/-- The compute die whose mover runs the passes of a binding: the home die of its sequence (R278). -/
def moverDie (s : State) (x : Binding) : Fin 5 := die5 (s.seq x.handle).homeDie

/-- The mover of a binding waits at a held access, or waits no longer (R189). -/
def holdPass (s : State) (b : Nat) (a : Option Nat) : State :=
  let x := s.bind b
  s.setBind b { x with pass := x.pass.map (fun p => { p with heldAt := a }) }

/-- Sends one chunk if at most 4 MiB to its destination are unacknowledged (R298) and its bytes can be read. -/
def sendChunk (s : State) (r : RingEntry) (b : Nat) (c : BitVec 12 × RingData) : State :=
  let x := s.bind b
  match x.pass with
  | none => s
  | some p =>
    if p.sent.contains c || decide (64 ≤ p.unacked.countP (fun u => u.dst == c.1)) || !isMember s c.1.toNat then s
    else
      let place := chunkPlace s x p r.n false c.2
      let m := moverRead s p (moverDie s x) c.2 place.1 place.2 (s.seq x.handle).domain.toNat
      match m.2 with
      | .served =>
        let s := m.1.setBind b { x with pass := some { p with heldAt := none, sent := p.sent ++ [c], unacked := p.unacked ++ [{ dst := c.1, data := c.2 }] } }
        s.forAll (chunkPackets s r b x p c.1 c.2) sendPacket
      | .held => holdPass m.1 b (heldGrain m.1 place.1 place.2)
      | o => abandonPass m.1 b o.status

/-- Sends everything that can go. -/
def pump (s : State) (b : Nat) : State :=
  let x := s.bind b
  match x.pass, ringOf s x.ring with
  | some p, some r => s.forAll (sendable s r x p) (fun s c => sendChunk s r b c)
  | _, _ => s

/-! Progress of a pass. -/

/-- Writes the bytes of a chunk at an address: served, held, or refused. -/
def moverWrite (s : State) (p : Pass) (die : Fin 5) (d : RingData) (a dom : Nat) (l : List Byte) : State × Access :=
  if l.isEmpty then (s, .served)
  else
    let r := match d with
      | .shard _ _ _ => meetGrain s (grainOf a) dom true true die
      | _ => devMeet s a l.length p.domain.toNat true die
    if r.2 ≠ .served then r
    else
      let w := devWrite r.1 a l 0 p.tile.val p.ctx.val
      (w.1, if w.2 then .served else .refused stBadArg)

/-- This member's own partials of the heads it merges go to the partial area (R290). -/
def localParts (s : State) (r : RingEntry) (b : Nat) : State :=
  let x := s.bind b
  match x.pass with
  | none => s
  | some p =>
    let d := p.num
    if p.rotates || doneOf s p < 1 then s
    else
      s.forAll ((mergeHeads d r.n r.index).flatMap (fun h => (List.range (chunks (prHeadBytes d))).map (fun c => RingData.part h r.index c))) (fun s c =>
        let x := s.bind b
        match x.pass with
        | none => s
        | some p =>
          if p.got.contains c then s
          else
            let src := chunkPlace s x p r.n false c
            let dst := chunkPlace s x p r.n true c
            let die := moverDie s x
            let m := moverRead s p die c src.1 src.2 0x3FF
            match m.2 with
            | .served =>
              let w := moverWrite m.1 p die c dst.1 0x3FF (m.1.devRead src.1 src.2)
              match w.2 with
              | .served => w.1.setBind b { x with pass := some { p with heldAt := none, got := p.got ++ [c] } }
              | .held => holdPass w.1 b (heldGrain w.1 dst.1 src.2)
              | o => abandonPass w.1 b o.status
            | .held => holdPass m.1 b (heldGrain m.1 src.1 src.2)
            | o => abandonPass m.1 b o.status)

/-- Chunks to send of this member's partials or outputs have all been acknowledged. -/
def allAcked (p : Pass) (l : List (BitVec 12 × RingData)) : Bool :=
  l.all (fun c => p.sent.contains c && !p.unacked.any (fun u => u.dst == c.1 && u.data == c.2))

/-- The query rows have gone to every child, and have been acknowledged (R288). -/
def rowsForwarded (r : RingEntry) (p : Pass) : Bool :=
  (queryChildren p.num r.n r.index).all (fun m =>
    allAcked p ((List.range (chunks (prQBytes p.num))).map (fun c => (BitVec.ofNat 12 (r.mem m), RingData.query c))))

/-- The next event of a CIRCULATE pass has been reached (Table 10.9). -/
def circReached (s : State) (r : RingEntry) (p : Pass) : Bool :=
  let d := p.num
  let n := r.n
  let i := r.index
  let toward := fun (m : Nat) => BitVec.ofNat 12 (r.mem m)
  match p.reached with
  | 0 => i == prOrigin d || (List.range (chunks (prQBytes d))).all (fun c => p.got.contains (.query c))
  | 1 => decide (1 ≤ doneOf s p) && (List.range (prHeads d)).all (fun h =>
      let m := mergeMember d n h
      (List.range (chunks (prHeadBytes d))).all (fun c =>
        if m == i then p.got.contains (.part h i c) else allAcked p [(toward m, .part h i c)]))
  | 2 => (mergeHeads d n i).all (fun h => (List.range n).all (fun m =>
      (List.range (chunks (prHeadBytes d))).all (fun c => p.got.contains (.part h m c))))
  | 3 => decide (2 ≤ doneOf s p) &&
      (if i == prOrigin d then
        (List.range (prHeads d)).all (fun h => mergeMember d n h == i || (List.range (chunks (prOutBytes d))).all (fun c => p.got.contains (.output h c)))
      else (mergeHeads d n i).all (fun h => allAcked p ((List.range (chunks (prOutBytes d))).map (fun c => (toward (prOrigin d), RingData.output h c)))))
  | _ => false

/-- Publishes the visitor of step k with the shard's base and length (R285). -/
def publishVisitor (s : State) (x : Binding) (k : Nat) (bl : Nat × Nat) : Option State :=
  let h := x.visitor k
  (withReclaim s (fun s => allocItem s h 1)).2.map (fun r => publish r.1 h r.2 bl.1 bl.2 (seqLists s h))

/-- The next arrival of a ROTATE pass (R284, R285): step 0 at the start, later steps once their shard is present and the
visitor published; none while it is not. -/
def rotateArrival (s : State) (x : Binding) (p : Pass) : Option State :=
  let k := p.reached
  if k = 0 then some s
  else
    match shardOf s p k with
    | none => none
    | some bl =>
      if (shardChunks s x k bl).all p.got.contains then publishVisitor s x k bl else none

/-- Steps whose visitor can be freed now (R286). -/
def freeable (s : State) (r : RingEntry) (x : Binding) (p : Pass) : List Nat :=
  (List.range (r.n - 1)).filter (fun k => !p.freed.contains k && decide (k + 1 ≤ doneOf s p) &&
    (match shardOf s p k with
    | some bl => allAcked p ((shardChunks s x (k + 1) bl).map (fun c => (BitVec.ofNat 12 r.succ, c)))
    | none => false))

/-- One event of a pass, if one has happened. -/
def passEvent (s : State) (b : Nat) : Option State :=
  let x := s.bind b
  match x.pass, ringOf s x.ring with
  | some p, some r =>
    if p.begun.isNone then none
    else
      let step := fun (s : State) =>
        addObj (s.setBind b { (s.bind b) with pass := some { p with reached := p.reached + 1 } }) (prArrive p.num) 1
      if p.rotates then
        match if p.reached < r.n then rotateArrival s x p else none with
        | some s => some (step s)
        | none =>
          match freeable s r x p with
          | k :: _ =>
            some (sendPass (s.setBind b { x with pass := some { p with freed := p.freed ++ [k] } }) r x p rmFree r.pred [(8, k % 3)])
          | [] => if p.reached = r.n ∧ r.n ≤ doneOf s p ∧ p.unacked.isEmpty ∧ p.freed.length + 1 = r.n then some (endPass s b stOk) else none
      else if circReached s r p then some (step s)
      else if p.reached = 4 ∧ p.unacked.isEmpty ∧ rowsForwarded r p then some (endPass s b stOk)
      else none
  | _, _ => none

/-- Takes events and sends chunks until nothing more happens. -/
def settlePassN : Nat → State → Nat → State
  | 0, s, _ => s
  | f + 1, s, b =>
    let s := match (s.bind b).pass, ringOf s (s.bind b).ring with
      | some _, some r => localParts (pump s b) r b
      | _, _ => s
    match passEvent s b with
    | some s => settlePassN f s b
    | none => s

/-- Settles the pass of a binding. -/
def settlePass (s : State) (b : Nat) : State :=
  settlePassN (2 * (((ringOf s (s.bind b).ring).map (·.n)).getD 0) + 8) s b

/-- Settles every active pass: a counter that a mover watches may have changed. -/
def settleRings (s : State) : State := s.forAll (s.rings.binds.map (·.1)) settlePass

/-! Acceptance (R279, R281, R286, R290). -/

/-- Walker slots that the passes of a die's mover may use. -/
def moverSlots (die : Fin 4) : List Nat := (List.range 256).map (fun i => 896 + die.val * 256 + i)

/-- The free walker slot of a mover; none while it runs 256 passes. -/
def moverSlot (s : State) (die : Fin 4) : Option Nat :=
  (moverSlots die).find? (fun k => !s.rings.binds.any (fun e => e.2.pass.any (fun p => p.walker == k)))

/-- The refusal of a pass record (R279): 0 for none. -/
def passRefusal (s : State) (w : WindowRec) : Nat :=
  let d := w.num
  let e := s.seq (prHandle d)
  match bindOfSeq s (prHandle d) with
  | none => stBadArg
  | some b =>
    match ringOf s (s.bind b).ring with
    | none => stBadArg
    | some r =>
      if prOp d ≠ 0x11 ∧ prOp d ≠ 0x12 ∨ bits d 423 417 ≠ 0 ∨ bits d 415 32 ≠ 0 ∨ bits d 23 17 ≠ 0 then stBadArg
      else if e.st ≠ 1 ∨ prLayer d < e.layerFirst.toNat ∨ e.layerFirst.toNat + e.layerCount.toNat ≤ prLayer d then stBadArg
      else if prResult d % 8 ≠ 0 ∨ prRole d % 8 ≠ 0 ∨ prArrive d % 16 ≠ 0 ∨ prDone d % 16 ≠ 0 then stBadArg
      else if prOp d = 0x12 ∧ (prHeads d = 0 ∨ 32 < prHeads d ∨ r.n ≤ prOrigin d ∨ prQBytes d = 0 ∨ 4194304 < prQBytes d ∨
          prHeadBytes d = 0 ∨ prHeadBytes d % 1056 ≠ 0 ∨ 8 * 135168 < prHeadBytes d) then stBadArg
      else if prOp d = 0x11 ∧ r.maxShard < e.length - e.base then stBadArg
      else if w.domain ≠ e.domain ∧ w.domain ≠ 0x3FF then stDenied
      else if (s.bind b).pass.isSome ∨ (moverSlot s e.homeDie).isNone then stBusy
      else if r.st = 2 then stAbandoned
      else stOk

/-- The MERGE lists of Table 10.8 for the heads a member merges. -/
def mergeLists (d n i : Nat) : List (Nat × List Byte) :=
  let hb := prHeadBytes d
  let p := prHeads d * n * hb
  let lists := 1 + cdiv (n - 64) 63
  (mergeHeads d n i).flatMap (fun h => (List.range (cdiv hb 135168)).flatMap (fun b => (List.range lists).map (fun j =>
    let part := fun (m : Nat) => prPart d + (h * n + m) * hb + b * 135168
    let run := fun (j : Nat) => prPart d + p + prHeads d * 20480 + ((h * 8 + b) * 4 + j) * 135168
    let es := if j = 0 then (List.range (min n 64)).map part
      else run (j - 1) :: ((List.range 63).filterMap (fun k => let m := 64 + 63 * (j - 1) + k; if m < n then some (part m) else none))
    (prPart d + p + ((h * 8 + b) * 5 + j) * 512, es.flatMap (leBytes 8)))))

/-- Bytes that the mover writes at acceptance under the issuing context's domain (R279, R290). -/
def moverWord (s : State) (w : WindowRec) (a : Nat) (l : List Byte) : State :=
  hubWord s { addr := a, bytes := l, domain := some w.domain, report := some (0, w.tile.val, w.ctx.val) }

/-- The role word (Table 10.5). -/
def roleWord (d n i : Nat) : Nat :=
  if prOp d = 0x11 then packBits [(32, 0), (1, 0), (7, 0), (8, n - 1), (8, i)]
  else packBits [(32, ((mergeHeads d n i).map (fun h => 2 ^ h)).sum), (1, b2n (i == prOrigin d)), (7, 0), (8, n - 1), (8, i)]

/-- Slot-free messages that came before this member's record. -/
def takeEarly (s : State) (x : Binding) (d : Nat) : List (BitVec 12 × Fin 3) :=
  (s.rings.early.filter (fun e => e.header.ring == x.ring && e.header.tag == x.tag && e.header.gStart.toNat == prG d &&
    e.header.layer.toNat == prLayer d && e.header.op.toNat == prOp d)).map (fun e => (e.src, e.visitor))

/-- HOLDs that came before this member's record and stand. -/
def takeHolds (s : State) (x : Binding) (d : Nat) : List (BitVec 12) :=
  (s.rings.earlyHolds.filter (fun e => e.2.ring == x.ring && e.2.tag == x.tag && e.2.gStart.toNat == prG d &&
    e.2.layer.toNat == prLayer d && e.2.op.toNat == prOp d)).map (·.1)

/-- The mover accepts a record. -/
def acceptPass (s : State) (w : WindowRec) (b : Nat) (r : RingEntry) : State :=
  let d := w.num
  let x := s.bind b
  let e := s.seq x.handle
  let n := r.n
  let slot := (moverSlot s e.homeDie).getD 0
  let p : Pass := { data := w.data, tile := w.tile, ctx := w.ctx, slot := w.slot, domain := w.domain, walker := slot, version := e.versionAddr.toNat, a0 := (s.obj (prArrive d)).count, d0 := (s.obj (prDone d)).count, acceptedAt := s.time.now.toNat, frees := takeEarly s x d, heldBy := takeHolds s x d }
  let s := { s with rings := { s.rings with
    early := s.rings.early.filter (fun f => !(f.header.ring == x.ring && f.header.tag == x.tag))
    earlyHolds := s.rings.earlyHolds.filter (fun f => !(f.2.ring == x.ring && f.2.tag == x.tag)) } }
  let s := moverWord s w (prRole d) (leBytes 8 (roleWord d n r.index))
  let s := s.setBind b { x with pass := some p }
  let s := match ringIx s x.ring with
    | some i => s.setRing i { (s.ring i) with lastG := BitVec.ofNat 48 (prG d) }
    | none => s
  let s := enterWalker s slot
  if p.rotates then
    if n ≤ 1 then s
    else sendPass (sendPass s r x p rmFree r.pred [(8, 1)]) r x p rmFree r.pred [(8, 2)]
  else
    let s := s.forAll (mergeLists d n r.index) (fun s l => moverWord s w l.1 l.2)
    s.forAll ((List.range n).filter (fun m => sendsTo d n m r.index)) (fun s m => sendPass s r x p rmFree (r.mem m) [(8, 0)])

/-- A refused record writes its word and advances its counter (R280); where no ring is known, by how much is not stated
(a free value). -/
def refusePass (s : State) (w : WindowRec) (status : Nat) : State :=
  let d := w.num
  let n := (bindOfSeq s (prHandle d)).bind (fun b => (ringOf s (s.bind b).ring).map (·.n))
  let f := match n, decide (prOp d = 0x11) with
    | some n, true => BitVec.ofNat 32 (n + 1)
    | none, true => BitVec.ofNat 32 s.freeVal
    | _, false => 5
  let s := if n.isNone ∧ prOp d = 0x11 then s.bump else s
  if prResult d % 8 ≠ 0 then addObj s (prArrive d) f
  else hubWord s { addr := prResult d, bytes := leBytes 8 (status * 2 ^ 56), domain := some w.domain, report := some (0, w.tile.val, w.ctx.val), adds := [(prArrive d, f)] }

/-- A pass record of a context whose op is `op` (a reserved op is anybody's): the oldest of its pass records. -/
def runPass (t : Fin 192) (c : Fin 4) (op : Nat) (s : State) : State :=
  match s.seqs.records.find? (fun w => w.tile == t && w.ctx == c && w.pass) with
  | none => s
  | some w =>
    let o := prOp w.num
    if o ≠ op ∧ (o = 0x11 ∨ o = 0x12) then s
    else
      let s := { s with seqs := { s.seqs with records := s.seqs.records.erase w } }
      let st := passRefusal s w
      if st ≠ stOk then refusePass s w st
      else match bindOfSeq s (prHandle w.num) with
        | none => s
        | some b =>
          match ringOf s (s.bind b).ring with
          | none => s
          | some r => settlePass (acceptPass s w b r) b

/-- `ROTATE` (R278, R279, R284). -/
def execRotate (t : Fin 192) (c : Fin 4) (s : State) : Outcome := .next (runPass t c 0x11 s)

/-- `CIRCULATE` (R278, R279, R288). -/
def execCirculate (t : Fin 192) (c : Fin 4) (s : State) : Outcome := .next (runPass t c 0x12 s)

/-- Fabric time at which the global step counter reached g. -/
def stepTime (s : State) (g : Nat) : Nat :=
  let n := stepLog2 s
  let ahead := (globalStep s + 2 ^ 48 - g % 2 ^ 48) % 2 ^ 48
  (s.time.now.toNat / 2 ^ n - ahead) * 2 ^ n

/-- `PASS_BEGIN` (R282): the counter has reached g_start. -/
def execPassBegin (b : Fin 16384) (s : State) : Outcome :=
  let x := s.bind b.val
  match x.pass with
  | none => .next s
  | some p =>
    if p.begun.isSome || !stepReached s (prG p.num) then .next s
    else .next (settlePass (s.setBind b.val { x with pass := some { p with begun := some (max p.acceptedAt (stepTime s (prG p.num))) } }) b.val)

/-! Messages that arrive. -/

/-- The ring of a message that the ingress has met: its entry, unless it is unknown, or the message is dropped for its
check value (R273). -/
def ringMsg (i : State × Bool) (p : PktHdr) (h : RingHdr) : State × Option RingEntry :=
  if !i.2 then (i.1, none)
  else match ringOf i.1 h.ring with
    | none => (i.1, none)
    | some r => if r.check ≠ h.check then (ringFault (count i.1 0x0A00) stConflict p.src.toNat, none) else (i.1, some r)

/-- The binding whose active pass a message is of (R281). -/
def passOf (s : State) (h : RingHdr) : Option Nat :=
  (bindOfTag s h.ring h.tag).filter (fun b => (s.bind b).pass.any (fun p =>
    prG p.num == h.gStart.toNat && prLayer p.num == h.layer.toNat && prOp p.num == h.op.toNat))

/-- What the header check finds (R281): 0, `ST_DENIED` or `ST_CONFLICT`. -/
def firstCheck (s : State) (x : Binding) (p : Pass) (f : RingFirst) : Nat :=
  let e := s.seq x.handle
  let d := p.num
  if f.domain ≠ e.domain then stDenied
  else if f.stepNs.toNat ≠ prStepNs d ∨ f.slackNs.toNat ≠ prSlackNs d ∨ f.fmtK ≠ e.fmtK ∨ f.fmtV ≠ e.fmtV ∨ f.kvHeads ≠ e.kvHeads then stConflict
  else if !p.rotates && (f.origin.toNat != prOrigin d || f.heads.toNat != prHeads d || f.spread != prSpread d ||
      f.qBytes.toNat != prQBytes d || f.headBytes.toNat != prHeadBytes d) then stConflict
  else stOk

/-- The chunk is one that this pass can receive. -/
def chunkKnown (s : State) (r : RingEntry) (x : Binding) (p : Pass) (d : RingData) (n : Nat) : Bool :=
  let e := s.seq x.handle
  match d with
  | .shard k j c => p.rotates && decide (1 ≤ k) && decide (k < r.n) && decide (j < max 1 (cdiv r.maxShard 128)) &&
      decide (c < e.pageGrains.toNat) && decide (n ≤ 65536)
  | .query c => !p.rotates && decide (c < chunks (prQBytes p.num)) && n == chunkLen (prQBytes p.num) c
  | .part h m c => !p.rotates && decide (h < prHeads p.num) && decide (m < r.n) && decide (c < chunks (prHeadBytes p.num)) && n == chunkLen (prHeadBytes p.num) c
  | .output h c => !p.rotates && decide (h < prHeads p.num) && decide (c < chunks (prOutBytes p.num)) && n == chunkLen (prOutBytes p.num) c

/-- A chunk of a known ring: it is written, acknowledged and counted once; one whose grain is held is held too.  Answers
whether it is held. -/
def takeRingChunk (s : State) (r : RingEntry) (p : PktHdr) (h : RingHdr) (d : RingData) (first : Option RingFirst) (bytes : List Byte) :
    State × Bool :=
  match passOf s h with
  | none => (s, false)
  | some b =>
    let x := s.bind b
    match x.pass with
    | none => (s, false)
    | some q =>
      if !chunkKnown s r x q d bytes.length then (s, false)
      else
        let st := match first with
          | some f => firstCheck s x q f
          | none => stOk
        if st ≠ stOk then (abandonPass (ringFault s st p.src.toNat) b st, false)
        else
          let shards := match first, d with
            | some f, .shard k _ _ => if q.shards.any (fun e => e.1 == k) then q.shards else q.shards ++ [(k, f.base.toNat, f.length.toNat)]
            | _, _ => q.shards
          let place := chunkPlace s x q r.n true d
          let w := moverWrite s q (moverDie s x) d place.1 (s.seq x.handle).domain.toNat bytes
          match w.2 with
          | .held => (w.1, true)
          | .served =>
            let dup := q.got.contains d
            let s := w.1.setBind b { x with pass := some { q with shards := shards, got := if dup then q.got else q.got ++ [d] } }
            let s := if dup then count s 0x0B00 else s
            let s := sendPass s r x q rmAck p.src.toNat (ringDataItems d)
            (settlePass s b, false)
          | o => (abandonPass w.1 b o.status, false)

/-- A chunk reaches its mover, from the fabric or from the receive buffer that held it. -/
def ringChunk (m : State × Option RingEntry) (p : PktHdr) (h : RingHdr) (d : RingData) (first : Option RingFirst) (bytes : List Byte) :
    State × Bool :=
  match m.2 with
  | some r => takeRingChunk m.1 r p h d first bytes
  | none => (m.1, false)

/-- `RING_CHUNK_ARRIVAL` (R273, R281, R283, R285): a chunk whose grain is held stays in the receive buffer. -/
def execRingChunkArrival (p : PktHdr) (h : RingHdr) (d : RingData) (first : Option RingFirst) (bytes : List Byte)
    (s : State) : Outcome :=
  let r := ringChunk (ringMsg (admitPacket s p 4) p h) p h d first bytes
  .next (if r.2 then holdIn r.1 (.ring p h d first bytes) else returnCredit r.1 p bytes.length)

/-- `SLOT_FREE` (R281, R285): the sender has accepted its record, and may receive into the visitor. -/
def execSlotFree (p : PktHdr) (h : RingHdr) (visitor : Fin 3) (s : State) : Outcome :=
  let m := ringMsg (ingress s p 4) p h
  let s := m.1
  match m.2 with
  | none => .next s
  | some _ =>
    match passOf s h with
    | some b =>
      let x := s.bind b
      match x.pass with
      | some q => .next (settlePass (s.setBind b { x with pass := some { q with frees := q.frees ++ [(p.src, visitor)] } }) b)
      | none => .next s
    | none =>
      if (bindOfTag s h.ring h.tag).isNone then .next s
      else
        let keep := s.rings.early.filter (fun e => !(e.src == p.src && e.header.ring == h.ring && e.header.tag == h.tag && e.header != h))
        .next { s with rings := { s.rings with early := keep ++ [⟨p.src, h, visitor⟩] } }

/-- `RING_ACK` (R283): the chunk need not be kept. -/
def execRingAck (p : PktHdr) (h : RingHdr) (d : RingData) (s : State) : Outcome :=
  let m := ringMsg (ingress s p 4) p h
  let s := m.1
  match m.2, passOf s h with
  | some _, some b =>
    let x := s.bind b
    match x.pass with
    | none => .next s
    | some q =>
      .next (settlePass (s.setBind b { x with pass := some { q with unacked := q.unacked.filter (fun u => !(u.dst == p.src && u.data == d)) } }) b)
  | _, _ => .next s

/-- Whether the HOLD of a message's source stands; for a pass that this member has not accepted yet, from its acceptance
on. -/
def holdChange (p : PktHdr) (h : RingHdr) (s : State) (on : Bool) : State :=
  let m := ringMsg (ingress s p 4) p h
  let s := m.1
  let put := fun (l : List (BitVec 12)) => l.filter (· != p.src) ++ (if on then [p.src] else [])
  match m.2, passOf s h with
  | some _, some b =>
    let x := s.bind b
    s.setBind b { x with pass := x.pass.map (fun q => { q with heldBy := put q.heldBy }) }
  | some _, none =>
    { s with rings := { s.rings with earlyHolds := s.rings.earlyHolds.filter (fun e => e != (p.src, h)) ++ (if on then [(p.src, h)] else []) } }
  | none, _ => s

/-- `HOLD` (R297). -/
def execHold (p : PktHdr) (h : RingHdr) (s : State) : Outcome := .next (holdChange p h s true)

/-- `RESUME` (R297). -/
def execResume (p : PktHdr) (h : RingHdr) (s : State) : Outcome := .next (holdChange p h s false)

/-- `RING_ABANDON` (R281): the pass ends; the ring stays FORMED. -/
def execRingAbandon (p : PktHdr) (h : RingHdr) (s : State) : Outcome :=
  let m := ringMsg (ingress s p 4) p h
  match m.2, passOf m.1 h with
  | some _, some b => .next (endPass m.1 b stAbandoned)
  | _, _ => .next m.1

/-! Broken rings (R299). -/

/-- The ring becomes BROKEN and every active pass of it ends. -/
def setBroken (s : State) (id : BitVec 12) : State :=
  match ringIx s id with
  | none => s
  | some i =>
    let s := s.setRing i { (s.ring i) with st := 2 }
    s.forAll ((s.rings.binds.filter (fun e => e.2.used && e.2.ring == id)).map (·.1)) (fun s b => endPass s b stAbandoned)

/-- This member declares the ring BROKEN: the event, a broken message to every member it can reach, the passes end. -/
def breakRing (s : State) (r : RingEntry) (suspect : Nat) : State :=
  let s := emit s { type := 0x3003, severity := 3, scope := 3, items := [(16, r.id.toNat), (16, r.index), (16, suspect)] }
  let s := s.forAll r.others (fun s m => sendRing s m 0x3FF [(8, rmBroken), (12, r.id.toNat), (64, r.check.toNat)])
  setBroken s r.id

/-- `BROKEN_MESSAGE` (R299). -/
def execBrokenMessage (p : PktHdr) (h : RingHdr) (s : State) : Outcome :=
  let m := ringMsg (ingress s p 4) p h
  match m.2 with
  | some r => .next (setBroken m.1 r.id)
  | none => .next m.1

/-- The neighbour that a pass without progress waits for: the successor where its acknowledgement or slot-free message is
missing, else the predecessor. -/
def suspectOf (r : RingEntry) (p : Pass) : Nat := if p.unacked.any (fun u => u.dst.toNat == r.succ) then r.succ else r.pred

/-- `RING_BREAK_TIMER` (R299): break_us without progress while no HOLD stands. -/
def execRingBreakTimer (b : Fin 16384) (s : State) : Outcome :=
  let x := s.bind b.val
  match x.pass, ringOf s x.ring with
  | some p, some r => if p.heldBy.isEmpty then .next (breakRing s r (suspectOf r p)) else .next s
  | _, _ => .next s

/-- A destination is unreachable: rings with that neighbour are BROKEN (R299, R380). -/
def ringUnreachable (s : State) (d : Nat) : State :=
  s.forAll ((s.rings.table.filter (fun e => e.2.st == 1 && decide (2 ≤ e.2.n) && (e.2.succ == d || e.2.pred == d))).map (·.2)) (fun s r => breakRing s r d)

/-! Late steps (R295, R296). -/

/-- The step (or event) that falls due next, its due time, whether it is complete, and whether its data is here. -/
def dueState (s : State) (p : Pass) (t : Nat) : Nat × Nat × Bool × Bool :=
  let d := p.num
  let k := doneOf s p
  if p.rotates then
    (p.due, t + (p.due + 1) * prStepNs d + prSlackNs d, decide (p.due + 1 ≤ k), decide (p.due + 1 ≤ p.reached))
  else (4, t + prStepNs d + prSlackNs d, decide (4 ≤ p.reached),
    (p.reached == 1 && decide (k < 1)) || (p.reached == 3 && decide (k < 2)))

/-- The power controller holds the issue rate of some die below full by R21 to R24. -/
def rateHeld (s : State) : Bool := s.power.moduleRate != 16 || !s.power.dieRate.isEmpty

/-- `RING_DUE_TIME` (R295, R296): the due time of the next step, or of E4, passes. -/
def execRingDueTime (b : Fin 16384) (s : State) : Outcome :=
  let x := s.bind b.val
  match x.pass, ringOf s x.ring with
  | some p, some r =>
    match p.begun with
    | none => .next s
    | some t =>
      if (if p.rotates then r.n ≤ p.due else 1 ≤ p.due) then .next s
      else
        let q := dueState s p t
        let p' := { p with due := p.due + 1, preempted := p.holding, throttled := rateHeld s, rerouted := false }
        if q.2.2.1 then .next (s.setBind b.val { x with pass := some p' })
        else
          let cause := if p.preempted || p.holding then 3 else if p.throttled || rateHeld s then 4 else if p.rerouted then 5 else if q.2.2.2 then 2 else 1
          let s := count (s.setBind b.val { x with pass := some { p' with late := p.late + 1, reported := true } }) 0x0C00
          if p.reported then .next s
          else .next (emit s { type := 0x3002, severity := 2, scope := 1, items := [(16, x.ring.toNat), (16, x.tag.toNat), (16, prLayer p.num), (64, prG p.num), (32, q.1), (16, r.index), (64, q.2.1), (64, s.time.now.toNat), (8, cause)] })
  | _, _ => .next s

/-! Pre-emption, throttling, lost planes (R296 to R298, R479). -/

/-- The active passes that satisfy q change by f. -/
def State.modPasses (s : State) (q : Pass → Bool) (f : Pass → Pass) : State :=
  s.forAll (s.rings.binds.map (·.1)) (fun s b =>
    let x := s.bind b
    s.setBind b { x with pass := x.pass.map (fun p => if q p then f p else p) })

/-- Sends HOLD or RESUME to both neighbours for every active pass of a launch (R297). -/
def holdLaunch (s : State) (n : Fin 16) (on : Bool) : State :=
  s.forAll (s.rings.binds.map (·.1)) (fun s b =>
    let x := s.bind b
    match x.pass, ringOf s x.ring with
    | some p, some r =>
      if p.slot = n ∧ p.holding ≠ on then
        let s := s.setBind b { x with pass := some { p with holding := on, preempted := true } }
        s.forAll ([r.pred, r.succ].eraseDups.filter (fun m => m != r.mem r.index)) (fun s m => sendPass s r x p (if on then rmHold else rmResume) m [])
      else s
    | _, _ => s)

/-- Sends an unacknowledged chunk again, on the next plane; none of a chunk that has not left at all. -/
def resendRing (s : State) (b : Nat) (u : RingSent) : State :=
  let x := s.bind b
  match x.pass, ringOf s x.ring with
  | some p, some r =>
    if u.planes = 0 then s
    else s.forAll ((chunkPackets s r b x p u.dst u.data).map (fun k => { k with plane := u.plane })) relaunch
  | _, _ => s

/-- The modules that this member exchanges a pass's data with. -/
def passPeers (r : RingEntry) (d : Nat) : List Nat :=
  ((List.range r.n).filter (fun m => sendsTo d r.n m r.index || sendsTo d r.n r.index m)).map r.mem

/-- A plane toward some destinations is lost: the passes that use it are noted (R296), and unacknowledged chunks sent on it
go again (R298). -/
def ringPlaneLost (s : State) (plane : Nat) (dst : BitVec 12 → Bool) : State :=
  s.forAll (s.rings.binds.map (·.1)) (fun s b =>
    let x := s.bind b
    match x.pass, ringOf s x.ring with
    | some p, some r =>
      let used := (passPeers r p.num).any (fun m => dst (BitVec.ofNat 12 m) && (entryOf s m).getLsbD plane)
      let s := s.setBind b { x with pass := some { p with rerouted := p.rerouted || used } }
      s.forAll (p.unacked.filter (fun u => u.planes.getLsbD plane && dst u.dst)) (fun s u => resendRing s b u)
    | _, _ => s)

/-! Bindings (R275 to R277). -/

/-- UNBIND: the visitors are freed and the ring field cleared. -/
def unbind (s : State) (b : Nat) : State :=
  let x := s.bind b
  let s := s.forAll [x.visitor0, x.visitor1, x.visitor2] freeSeq
  let s := s.setSeq x.handle { (s.seq x.handle) with ring := 0xFFF }
  s.setBind b {}

/-- `SEQ_FREE` of a sequence, which first ends its binding (R259, R277). -/
def freeSequence (s : State) (h : Nat) : State :=
  match bindOfSeq s h with
  | some b => freeSeq (unbind (endPass s b stAbandoned) b) h
  | none => freeSeq s h

/-- One visitor: a sequence like the bound one with n pages per layer held. -/
def makeVisitor (s : State) (e : SeqEntry) (n : Nat) : Option (State × Nat) :=
  match freeHandle s with
  | none => none
  | some h =>
    let x : SeqEntry := { e with st := 1, version := 0, versionAddr := 0, length := e.base, freedEpoch := 0, capacity := 128 * n }
    (createSeq s h x).map (fun s =>
      let lists := seqLists s h
      let s := s.forAll lists (fun s l =>
        let r := takePages s x (List.range n)
        writeEntries r.1 l n r.2)
      (s, h))

/-- BIND's effect (R275): none where the list arena has no room. -/
def makeBinding (s : State) (id : BitVec 12) (tag : BitVec 16) (h b n : Nat) : Option State :=
  let e := { (s.seq h) with ring := id }
  let s := s.setSeq h e
  match makeVisitor s e n with
  | none => none
  | some (s, v0) =>
    match makeVisitor s e n with
    | none => none
    | some (s, v1) =>
      (makeVisitor s e n).map (fun r =>
        r.1.setBind b { used := true, ring := id, tag := tag, handle := h, visitor0 := v0, visitor1 := v1, visitor2 := r.2 })

end Sys2Proof.Machine
end

