-- ==== Sys2Proof/Machine/Coll.lean ====
section
/-! DEFINITION. Collectives (ch. 11): groups and their subgroups, plans, instances, chunks with credits and CRC-64, folds
and deliveries. -/

namespace Sys2Proof.Machine

def State.group (s : State) (g : Nat) : GroupEntry := tabGet {} s.colls.groups g
def State.setGroup (s : State) (g : Nat) (x : GroupEntry) : State :=
  { s with colls := { s.colls with groups := tabPut {} s.colls.groups g x } }
def GroupEntry.n (g : GroupEntry) : Nat := g.members.length
def GroupEntry.id (g : GroupEntry) (m : Nat) : Nat := (g.members.getD m 0xFFF).toNat

/-- Member index of a module. -/
def GroupEntry.index (g : GroupEntry) (d : BitVec 12) : Option Nat := g.members.findIdx? (· == d)

/-- The active instance of a group and sequence number. -/
def collOf (s : State) (g : Nat) (seq : Word32) : Option Coll := s.colls.active.find? (fun i => i.group == g && i.seq == seq)

/-- Replaces an instance. -/
def setColl (s : State) (i : Coll) : State :=
  { s with colls := { s.colls with active := s.colls.active.map (fun j => if j.group = i.group ∧ j.seq = i.seq then i else j) } }

/-- Active instances of a group. -/
def groupActive (s : State) (g : Nat) : Nat := (s.colls.active.filter (fun i => i.group == g)).length

/-! Subgroups (R303). -/

/-- What the module IDs of a stage-L subgroup share. -/
def stageKey (l id : Nat) : Nat := if l = 2 then id / 8 else if l = 3 then id / 64 else 0

/-- S_L(x), as ascending member indices. -/
def subgroup (g : GroupEntry) (l x : Nat) : List Nat :=
  (List.range g.n).filter (fun m => stageKey l (g.id m) == stageKey l (g.id x))

/-- The stage-L subgroups within a list of members, ordered by their lowest member. -/
def childrenOf (g : GroupEntry) (l : Nat) (ms : List Nat) : List (List Nat) :=
  ((ms.map (fun m => stageKey l (g.id m))).eraseDups).map (fun k => ms.filter (fun m => stageKey l (g.id m) == k))

/-- stage_mask (R303). -/
def stageMask (g : GroupEntry) : Nat :=
  b2n (decide (1 < (subgroup g 2 g.self).length)) + 2 * b2n (decide (1 < (childrenOf g 2 (subgroup g 3 g.self)).length)) +
    4 * b2n (decide (1 < (childrenOf g 3 (subgroup g 4 g.self)).length))

/-- leader(p, S) at stage 2, 3 and 4 (R310). -/
def leader2 (p : Nat) (ms : List Nat) : Nat := if ms.contains p then p else ms.getD (p % ms.length) 0
def leader3 (g : GroupEntry) (p : Nat) (ms : List Nat) : Nat :=
  if ms.contains p then p else let c := childrenOf g 2 ms; leader2 p (c.getD (p % c.length) [])
def leader4 (g : GroupEntry) (p : Nat) (ms : List Nat) : Nat :=
  if ms.contains p then p else let c := childrenOf g 3 ms; leader3 g p (c.getD (p % c.length) [])

/-- Leader of the stage-L subgroup of x for piece p. -/
def leaderAt (g : GroupEntry) (l p x : Nat) : Nat :=
  match l with
  | 2 => leader2 p (subgroup g 2 x)
  | 3 => leader3 g p (subgroup g 3 x)
  | _ => leader4 g p (subgroup g 4 x)

/-- The members whose results are the terms of stage L at its leader x, in order. -/
def termsAt (g : GroupEntry) (l p x : Nat) : List Nat :=
  match l with
  | 2 => subgroup g 2 x
  | 3 => (childrenOf g 2 (subgroup g 3 x)).map (leader2 p)
  | _ => (childrenOf g 3 (subgroup g 4 x)).map (leader3 g p)

/-- The sends of piece m in an all-gather (R312): from, stage, to. -/
def spread2 (g : GroupEntry) (h : Nat) : List (Nat × Nat × Nat) := ((subgroup g 2 h).filter (· != h)).map (fun x => (h, 2, x))
def spread3 (g : GroupEntry) (h m : Nat) : List (Nat × Nat × Nat) :=
  ((childrenOf g 2 (subgroup g 3 h)).filter (fun t => !t.contains h)).flatMap (fun t =>
    let r := t.getD (m % t.length) 0
    (h, 3, r) :: spread2 g r) ++ spread2 g h
def spread4 (g : GroupEntry) (m : Nat) : List (Nat × Nat × Nat) :=
  ((childrenOf g 3 (subgroup g 4 m)).filter (fun t => !t.contains m)).flatMap (fun t =>
    let r := t.getD (m % t.length) 0
    (m, 4, r) :: spread3 g r m) ++ spread3 g m m

/-- Delivery order of an all-gather at member x (R313). -/
def lambda (g : GroupEntry) (x m : Nat) : Nat :=
  if m = x then 1 else if (subgroup g 2 x).contains m then 2 else if (subgroup g 3 x).contains m then 3 else 4
def deliveryOrder (g : GroupEntry) : List Nat :=
  [1, 2, 3, 4].flatMap (fun l => (List.range g.n).filter (fun m => lambda g g.self m == l))

/-! Plans (Table 11.3). -/

def cpSrc (d : Nat) : Nat := bits d 511 464
def cpDst (d : Nat) : Nat := bits d 463 416
def cpResult (d : Nat) : Nat := bits d 415 368
def cpOrder (d : Nat) : Nat := bits d 367 320
def cpStride (d : Nat) : Nat := bits d 319 272
def cpElems (d : Nat) : Nat := bits d 271 240
def cpRelease (d : Nat) : Nat := bits d 239 224
def cpConsume (d : Nat) : Nat := bits d 223 208
def cpPieces (d : Nat) : Nat := bits d 207 192
def cpGroup (d : Nat) : Nat := bits d 191 180
def cpMembersM1 (d : Nat) : Nat := bits d 179 168
def cpKind (d : Nat) : Nat := bits d 167 164
def cpOp (d : Nat) : Nat := bits d 163 160
def cpFmtSrc (d : Nat) : Nat := bits d 159 156
def cpFmtDst (d : Nat) : Nat := bits d 155 152
def cpWire (d : Nat) : Bool := bitAt d 151
def cpLocalM1 (d : Nat) : Nat := bits d 150 149
def cpClass (d : Nat) : Bool := bitAt d 148

def Coll.d (i : Coll) : Nat := i.plan.toNat
def Coll.gathers (i : Coll) : Bool := cpKind i.d == 1

/-- Wire format code and its element size; an all-gather's wire is its source bytes. -/
def wireFmt (d : Nat) : Nat := if cpWire d then 1 else 0
def wireSize (d : Nat) : Nat := if cpKind d = 1 then fmtSize (cpFmtSrc d) else fmtSize (wireFmt d)

/-- Chunks of a piece, and elements of chunk c: first and count (R314). -/
def collChunks (d : Nat) : Nat := cdiv (cpElems d * wireSize d) 16384
def chunkElems (d c : Nat) : Nat × Nat :=
  let k := 16384 / wireSize d
  (c * k, min k (cpElems d - c * k))

/-- Plan k of a slot's image. -/
def collPlan (s : State) (n : Fin 16) (k : Nat) : Nat := secEntry (s.slot n).image 0xD k

/-! CRC-64 (R314). -/

/-- One byte into the reflected CRC-64. -/
def crc64Byte (c : Word64) (b : Byte) : Word64 :=
  (List.range 8).foldl (fun v _ => if v.getLsbD 0 then (v >>> 1) ^^^ 0xC96C5795D7870F42#64 else v >>> 1) (c ^^^ b.setWidth 64)

/-- The CRC-64 of a byte string: polynomial 0x42F0E1EBA9EA3693 reflected, all ones in and out. -/
def crc64 (l : List Byte) : Word64 := ~~~(l.foldl crc64Byte (BitVec.allOnes 64))

/-- A chunk header (Table 11.6) without its CRC. -/
def chunkHeader (g : GroupEntry) (i : Coll) (q : CollPart) (len : Nat) : Nat :=
  packBits [(257, 0), (1, b2n (cpWire i.d)), (4, cpKind i.d), (10, i.domain.toNat), (16, len), (4, q.stage), (12, i.group), (12, g.self), (12, q.piece), (24, q.chunk), (32, i.seq.toNat), (64, g.check.toNat)]

/-- The CRC of a chunk: over the payload, then header bytes 0 to 55. -/
def chunkCrc (header : Nat) (payload : List Byte) : Word64 := crc64 (payload ++ leBytes 56 header)

/-! Messages (Table 11.7). -/

def cmGrant : Nat := 1
def cmAck : Nat := 2
def cmNak : Nat := 3
def cmAbandon : Nat := 4

/-- Sends a control message of an instance to a module. -/
def sendColl (s : State) (dst : Nat) (group : Nat) (seq : Word32) (check : BitVec 64) (domain kind : Nat) (items : List (Nat × Nat)) : State :=
  if isMember s dst && !(possibleSet s dst).isEmpty then
    sendControl s 5 dst domain 0 0 0 0 ([(8, kind), (12, group), (32, seq.toNat), (64, check.toNat)] ++ items)
  else s

def sendCollTo (s : State) (i : Coll) (peer kind : Nat) (items : List (Nat × Nat)) : State :=
  let g := s.group i.group
  sendColl s (g.id peer) i.group i.seq g.check i.domain.toNat kind items

def partItems (q : CollPart) : List (Nat × Nat) := [(8, q.stage), (16, q.piece), (32, q.chunk)]

/-- What the first GRANT carries of the plan. -/
def planItems (i : Coll) : List (Nat × Nat) :=
  [(4, cpKind i.d), (4, cpOp i.d), (1, b2n (cpWire i.d)), (32, cpElems i.d), (4, cpFmtSrc i.d), (4, cpFmtDst i.d), (10, i.domain.toNat)]

/-- `EV_COLL_FAULT` (R302, R316). -/
def collFault (s : State) (status group : Nat) (seq : Word32) (src : Nat) : State :=
  emit s { type := 0x3005, status := status, severity := 3, scope := 1, items := [(16, group), (32, seq.toNat), (16, src)] }

/-! Who exchanges what. -/

/-- Chunks this member sends to others in a reduce-scatter, in order: its stage-(L − 1) results to other leaders. -/
def rsSends (g : GroupEntry) (d : Nat) : List CollPart :=
  [2, 3, 4].flatMap (fun l => (List.range g.n).flatMap (fun p =>
    let mine := l == 2 || leaderAt g (l - 1) p g.self == g.self
    let toward := leaderAt g l p g.self
    if mine && toward != g.self then (List.range (collChunks d)).map (fun c => CollPart.mk toward l p c) else []))

/-- Chunks this member receives in a reduce-scatter, in fold order. -/
def rsReceives (g : GroupEntry) (d : Nat) : List CollPart :=
  [2, 3, 4].flatMap (fun l => (List.range g.n).flatMap (fun p =>
    if leaderAt g l p g.self == g.self then
      (List.range (collChunks d)).flatMap (fun c => ((termsAt g l p g.self).filter (· != g.self)).map (fun m => CollPart.mk m l p c))
    else []))

def agSends (g : GroupEntry) (d : Nat) : List CollPart :=
  (List.range g.n).flatMap (fun m => ((spread4 g m).filter (fun e => e.1 == g.self)).flatMap (fun e =>
    (List.range (collChunks d)).map (fun c => CollPart.mk e.2.2 e.2.1 m c)))
def agReceives (g : GroupEntry) (d : Nat) : List CollPart :=
  (List.range g.n).flatMap (fun m => ((spread4 g m).filter (fun e => e.2.2 == g.self)).flatMap (fun e =>
    (List.range (collChunks d)).map (fun c => CollPart.mk e.1 e.2.1 m c)))

def collSends (g : GroupEntry) (i : Coll) : List CollPart := if i.gathers then agSends g i.d else rsSends g i.d
def collReceives (g : GroupEntry) (i : Coll) : List CollPart := if i.gathers then agReceives g i.d else rsReceives g i.d

/-- The members an instance exchanges chunks with. -/
def collPeers (g : GroupEntry) (i : Coll) : List Nat := ((collSends g i ++ collReceives g i).map (·.peer)).eraseDups

/-! Ends of instances (R308, R319). -/

def accOf (i : Coll) (l p c : Nat) : Option CollAcc := i.accs.find? (fun a => a.stage == l && a.piece == p && a.chunk == c)

/-- Chunk c of this member's own contribution to piece p has been folded or sent: the stage-2 leader is another member and
has been sent it, or this one's running sum has reached its own term. -/
def localDone (g : GroupEntry) (i : Coll) (p c : Nat) : Bool :=
  let to' := leaderAt g 2 p g.self
  if to' = g.self then
    match accOf i 2 p c with
    | some a => decide ((termsAt g 2 p g.self).findIdx (· == g.self) < a.terms)
    | none => false
  else i.sent.contains ⟨to', 2, p, c⟩

/-- Stage l has nothing left to do for this member.  Stage 1 of a reduce-scatter is the fold of its own contributions; an
all-gather's is the copy of the own piece. -/
def stageDone (g : GroupEntry) (i : Coll) (l : Nat) : Bool :=
  if l = 1 then
    if i.gathers then i.copied
    else i.begun && (List.range g.n).all (fun p => (List.range (collChunks i.d)).all (localDone g i p))
  else
    (collReceives g i).all (fun q => q.stage != l || i.got.contains q) && !i.held.any (fun h => h.1.stage == l) &&
      (collSends g i).all (fun q => q.stage != l || (i.sent.contains q && !i.unacked.any (fun u => u.part == q)))

/-- The highest stage completed: every stage up to it is. -/
def highestStage (g : GroupEntry) (i : Coll) : Nat := ([1, 2, 3, 4].takeWhile (stageDone g i)).length

/-- Notes how instance s of a group ended (Table 11.1 outcome). -/
def setOutcome (s : State) (group : Nat) (seq : Word32) (bad : Bool) : State :=
  let g := s.group group
  let m := 1#64 <<< (seq.toNat % 64)
  s.setGroup group { g with outcome := if bad then g.outcome ||| m else g.outcome &&& ~~~m }

/-- The take of an instance that ends before it reads a source byte is withdrawn (R508). -/
def collWithdraw (s : State) (i : Coll) : State :=
  match decide (i.credit = .waiting ∨ (i.credit = .granted ∧ !i.begun)), i.consume with
  | true, some a => sendReq s ⟨a, .withdraw (.coll i.group i.seq.toNat), 0, 0⟩
  | _, _ => s

/-- Ends an instance: result word, piece object, release (R308); ABANDON to `tell` where it ends other than with `ST_OK`. -/
def endCollTo (s : State) (i : Coll) (status : Nat) (tell : List Nat) : State :=
  let g := s.group i.group
  let s := collWithdraw s i
  let s := { s with colls := { s.colls with active := s.colls.active.filter (fun j => !(j.group == i.group && j.seq == i.seq)) } }
  let s := { s with fabric := { s.fabric with waiting := s.fabric.waiting.filter (fun k => match k.chunk with
    | some (.coll gr q _ _ _ _) => !(gr.toNat == i.group && q == i.seq)
    | _ => true) } }
  let s := if status = stOk then s else s.forAll tell (fun s m => sendCollTo s i m cmAbandon [(8, status)])
  let s := setOutcome s i.group i.seq (status != stOk)
  let stage := if status = stOk then 4 else highestStage g i
  let word := packBits [(32, i.seq.toNat), (16, min i.resent 0xFFFF), (4, 0), (4, stage), (8, status)]
  let piece := i.pieces.toList.map (fun a => (a, BitVec.ofNat 32 (g.n - i.delivered)))
  let rel := i.release.toList.map (fun a => (a, (1 : Word32)))
  hubWord s { addr := cpResult i.d, bytes := leBytes 8 word, domain := some i.domain, report := some (2, 0, 0), adds := piece ++ rel }

def endColl (s : State) (i : Coll) (status : Nat) : State := endCollTo s i status (collPeers (s.group i.group) i)

/-! Accesses (R308). -/

/-- What an access of the collective engine of a die meets: grains, one by one; sync objects by Table 12.3; engine
registers and the host aperture are denied (Table 12.1, R184). -/
def collMeet (s : State) (die : Fin 5) (a n d : Nat) (write : Bool) : State × Access :=
  if n = 0 then (s, .served)
  else if inGrains a && inGrains (a + n - 1) then
    (rangeGrains a n).foldl (fun p g => if p.2 = .served then meetGrain p.1 g d write false die else p) (s, Access.served)
  else if inHomes a then (s, syncAccess s a n)
  else if inAperture a || inEngineRegs a then (s, .refused stDenied)
  else (s, .refused stBadArg)

/-- Writes bytes of an access that is served; a mismatch at a sync object is reported with the engine's die and is not
accepted (R342). -/
def collStore (s : State) (die : Fin 5) (a : Nat) (l : List Byte) : State × Bool :=
  if l.isEmpty then (s, true)
  else if inHomes a then plainWrite s a l.length (leNat l) 2 die.val 0
  else (storeAcross s a l, true)

/-- The collective engine of chunk c (R314). -/
def collDie (c : Nat) : Fin 5 := die5 (Fin.ofNat 4 c)

/-- A step of an instance: it changes, waits, or ends with a status. -/
inductive CollStep where
  | go (s : State)
  | wait (s : State)
  | fail (s : State) (status : Nat)

/-- The instance waits at a held access, or waits no longer (R189). -/
def holdColl (s : State) (i : Coll) (a : Option Nat) : State :=
  match collOf s i.group i.seq with
  | some j => setColl s { j with heldAt := a }
  | none => s

/-- What an access met, as a step: on served, f goes on. -/
def collMet (m : State × Access) (i : Coll) (a n : Nat) (f : State → CollStep) : CollStep :=
  match m.2 with
  | .served => f m.1
  | .held => .wait (holdColl m.1 i (heldGrain m.1 a n))
  | o => .fail m.1 o.status

/-- Chains an access of an engine into a step. -/
def collAccess (s : State) (i : Coll) (die : Fin 5) (a n : Nat) (write : Bool) (f : State → CollStep) : CollStep :=
  collMet (collMeet s die a n i.domain.toNat write) i a n f

/-- Writes bytes by an engine, and goes on. -/
def collPut (s : State) (i : Coll) (die : Fin 5) (a : Nat) (l : List Byte) (f : State → State) : CollStep :=
  collAccess s i die a l.length true (fun s =>
    let w := collStore s die a l
    if w.2 then .go (f w.1) else .fail w.1 stBadArg)

/-! Folds (R310, R311). -/

/-- combine on two lists of wire elements. -/
def combineBytes (d : Nat) (a b : List Byte) : List Byte :=
  let f := wireFmt d
  elemsBytes f (((elemsOf f a).zip (elemsOf f b)).map (fun p =>
    match cpOp d with
    | 0 => vAdd p.1 p.2
    | 1 => vMax p.1 p.2
    | _ => vMin p.1 p.2))

/-- Address and length of contribution k to chunk c of piece p. -/
def localPlace (i : Coll) (p c k : Nat) : Nat × Nat :=
  let e := chunkElems i.d c
  let z := fmtSize (cpFmtSrc i.d)
  (i.src + k * cpStride i.d + (p * cpElems i.d + e.1) * z, e.2 * z)

/-- local(m, p) for chunk c: the fold of the contributions in the wire format. -/
def localBytes (s : State) (i : Coll) (p c : Nat) : List Byte :=
  let t := fun (k : Nat) =>
    let r := localPlace i p c k
    elemsBytes (wireFmt i.d) (elemsOf (cpFmtSrc i.d) (s.devRead r.1 r.2))
  (List.range (cpLocalM1 i.d)).foldl (fun a k => combineBytes i.d a (t (k + 1))) (t 0)

/-- What reading all contributions to a chunk meets. -/
def localMeet (s : State) (i : Coll) (p c : Nat) : State × Access :=
  (List.range (cpLocalM1 i.d + 1)).foldl (fun (q : State × Access) k =>
    if q.2 = .served then
      let r := localPlace i p c k
      collMeet q.1 (collDie c) r.1 r.2 i.domain.toNat false
    else q) (s, Access.served)

/-- The grain that holds the reading of the contributions to a chunk. -/
def localHeld (s : State) (i : Coll) (p c : Nat) : Option Nat :=
  (List.range (cpLocalM1 i.d + 1)).findSome? (fun k => let r := localPlace i p c k; heldGrain s r.1 r.2)

/-- A term of a fold: its bytes, or none while it is not here. -/
def termBytes (g : GroupEntry) (i : Coll) (l p c m : Nat) : Option (Bool × List Byte) :=
  if m = g.self then
    if l = 2 then some (true, [])
    else match accOf i (l - 1) p c with
      | some a => if a.terms = (termsAt g (l - 1) p g.self).length then some (false, a.bytes) else none
      | none => none
  else (i.held.find? (fun h => h.1 == ⟨m, l, p, c⟩)).map (fun h => (false, h.2))

/-- A term of member m joins the running sum of (l, p, c), as its term k. -/
def putTerm (s : State) (i : Coll) (l p c m k : Nat) (b : List Byte) : CollStep :=
  let sum := match accOf i l p c with
    | some a => combineBytes i.d a.bytes b
    | none => b
  let rest := i.accs.filter (fun a => !(a.stage == l && a.piece == p && a.chunk == c))
  .go (setColl s { i with heldAt := none, accs := rest ++ [⟨l, p, c, k + 1, sum⟩], held := i.held.filter (fun h => h.1 != ⟨m, l, p, c⟩) })

/-- The term after the k-th is here, or there is none: a running sum that begins with a term of this member is opened only
then, so that the two buffers reserved for the instance always hold the sum and its next term (R315). -/
def nextHere (g : GroupEntry) (i : Coll) (l p c k : Nat) : Bool :=
  match (termsAt g l p g.self)[k + 1]? with
  | some m => (termBytes g i l p c m).isSome
  | none => true

/-- Folds the next term of (l, p, c) into its running sum, if it is here. -/
def foldNext (s : State) (g : GroupEntry) (i : Coll) (l p c : Nat) : Option CollStep :=
  let ts := termsAt g l p g.self
  let k := ((accOf i l p c).map (·.terms)).getD 0
  if ts.length ≤ k then none
  else
    let m := ts.getD k 0
    match termBytes g i l p c m with
    | none => none
    | some (own, b) =>
      if k = 0 ∧ m = g.self ∧ !nextHere g i l p c 0 then none
      else if own then
        let r := localMeet s i p c
        match r.2 with
        | .served => some (putTerm r.1 i l p c m k (localBytes r.1 i p c))
        | .held => some (.wait (holdColl r.1 i (localHeld r.1 i p c)))
        | o => some (.fail r.1 o.status)
      else some (putTerm s i l p c m k b)

/-- The folds this member has to make. -/
def foldWork (g : GroupEntry) (d : Nat) : List (Nat × Nat × Nat) :=
  [2, 3, 4].flatMap (fun l => (List.range g.n).flatMap (fun p =>
    if leaderAt g l p g.self == g.self then (List.range (collChunks d)).map (fun c => (l, p, c)) else []))

/-! Steps of an instance. -/

/-- The first step that a list of candidates offers. -/
def firstStep {α : Type} (l : List α) (f : α → Option CollStep) : Option CollStep := l.findSome? f

/-- The credit is here: the order array is written (R308, R313). -/
def collBegin (s : State) (g : GroupEntry) (i : Coll) : Option CollStep :=
  if i.begun then none
  else if i.credit = .abandoned then some (.fail s stAbandoned)
  else if i.consume.isSome && i.credit != .granted then none
  else
    let go := fun (s : State) => setColl s { i with begun := true, heldAt := none }
    if i.gathers && cpOrder i.d != 0 then some (collPut s i 0 (cpOrder i.d) ((deliveryOrder g).flatMap (leBytes 2)) go)
    else some (.go (go s))

/-- Bytes of one piece of an all-gather, and its place. -/
def pieceLen (i : Coll) : Nat := cpElems i.d * fmtSize (cpFmtSrc i.d)
def piecePlace (i : Coll) (m : Nat) : Nat := i.dst + m * pieceLen i

/-- The own piece goes to its place (R312). -/
def collCopy (s : State) (g : GroupEntry) (i : Coll) : Option CollStep :=
  if !i.begun || !i.gathers || i.copied then none
  else
    let n := pieceLen i
    let a := piecePlace i g.self
    let done := fun (s : State) => setColl s { i with copied := true, heldAt := none }
    if a = i.src then some (.go (done s))
    else some (collAccess s i 0 i.src n false (fun s => collPut s i 0 a (s.devRead i.src n) done))

/-- The owner writes a finished chunk of its piece, converted once (R310, R311). -/
def collWrite (s : State) (g : GroupEntry) (i : Coll) (c : Nat) : Option CollStep :=
  if i.written.contains c then none
  else match accOf i 4 g.self c with
    | none => none
    | some a =>
      if a.terms ≠ (termsAt g 4 g.self g.self).length then none
      else
        let out := elemsBytes (cpFmtDst i.d) (elemsOf (wireFmt i.d) a.bytes)
        let at' := i.dst + (chunkElems i.d c).1 * fmtSize (cpFmtDst i.d)
        some (collPut s i (collDie c) at' out (fun s => setColl s { i with written := i.written ++ [c], heldAt := none }))

/-- The bytes of a chunk to send, once they are here: the result of the stage before, or the piece held; with the grain
that holds the reading. -/
def sendBytes (s : State) (g : GroupEntry) (i : Coll) (q : CollPart) : Option (State × Access × List Byte × Option Nat) :=
  if i.gathers then
    let here := if q.piece = g.self then i.begun else i.got.any (fun r => r.piece == q.piece && r.chunk == q.chunk)
    if !here then none
    else
      let z := fmtSize (cpFmtSrc i.d)
      let e := chunkElems i.d q.chunk
      let a := (if q.piece = g.self then i.src else piecePlace i q.piece) + e.1 * z
      let m := collMeet s (collDie q.chunk) a (e.2 * z) i.domain.toNat false
      some (m.1, m.2, m.1.devRead a (e.2 * z), heldGrain m.1 a (e.2 * z))
  else if q.stage = 2 then
    if !i.begun then none
    else
      let m := localMeet s i q.piece q.chunk
      some (m.1, m.2, if m.2 = .served then localBytes m.1 i q.piece q.chunk else [], localHeld m.1 i q.piece q.chunk)
  else match accOf i (q.stage - 1) q.piece q.chunk with
    | some a => if a.terms = (termsAt g (q.stage - 1) q.piece g.self).length then some (s, .served, a.bytes, none) else none
    | none => none

/-- The packets of a chunk: its 64-byte header, then its payload (R314). -/
def collPackets (g : GroupEntry) (i : Coll) (q : CollPart) (l : List Byte) : List Packet :=
  let h := chunkHeader g i q l.length
  splitPacket { kind := 5, dst := BitVec.ofNat 12 (g.id q.peer), cls := if cpClass i.d then 1 else 0, domain := i.domain, chunk := some (.coll (BitVec.ofNat 12 i.group) i.seq (BitVec.ofNat 12 (g.id q.peer)) q.stage q.piece q.chunk) }
    (leBytes 64 (h + 2 ^ 448 * (chunkCrc h l).toNat) ++ l)

/-- Sends one granted chunk. -/
def collSend (s : State) (g : GroupEntry) (i : Coll) (q : CollPart) : Option CollStep :=
  if i.sent.contains q || !i.grants.contains q then none
  else match sendBytes s g i q with
    | none => none
    | some (s, .served, l, _) =>
      let s := setColl s { i with heldAt := none, sent := i.sent ++ [q], unacked := i.unacked ++ [{ part := q }] }
      some (.go (if isMember s (g.id q.peer) then s.forAll (collPackets g i q l) sendPacket else s))
    | some (s, .held, _, a) => some (.wait (holdColl s i a))
    | some (s, o, _, _) => some (.fail s o.status)

/-- Sends a chunk again, on the next plane, once its bytes can be read (R317, R318). -/
def collResend (s : State) (g : GroupEntry) (i : Coll) (q : CollPart) : Option CollStep :=
  match i.unacked.find? (fun u => u.part == q), sendBytes s g i q with
  | some u, some (s, .served, l, _) =>
    let s := setColl s { i with heldAt := none, resent := i.resent + 1, owed := i.owed.erase q }
    some (.go (s.forAll ((collPackets g i q l).map (fun k => { k with plane := u.plane })) relaunch))
  | some _, some (s, .held, _, a) => some (.wait (holdColl s i a))
  | some _, some (s, o, _, _) => some (.fail s o.status)
  | _, _ => some (.go (setColl s { i with owed := i.owed.erase q }))

/-- Chunk buffers that an instance holds in one engine (R315): granted, held and running sums. -/
def collBuffers (g : GroupEntry) (i : Coll) (e : Nat) : Nat :=
  i.granted.countP (fun q => q.chunk % 4 == e) + i.held.countP (fun h => h.1.chunk % 4 == e) +
    i.accs.countP (fun a => a.chunk % 4 == e && decide (a.terms < (termsAt g a.stage a.piece g.self).length))

/-- Shared buffers of an engine in use. -/
def sharedUsed (s : State) (e : Nat) : Nat := (s.colls.active.map (fun i => collBuffers (s.group i.group) i e - 2)).sum

/-- Grants one chunk, in order, where a buffer is held for it (R315). -/
def collGrant (s : State) (g : GroupEntry) (i : Coll) (q : CollPart) : Option CollStep :=
  if i.granted.contains q || i.got.contains q then none
  else if 16 ≤ i.granted.countP (fun r => r.peer == q.peer) then none
  else if 2 ≤ collBuffers g i (q.chunk % 4) ∧ 256 ≤ sharedUsed s (q.chunk % 4) then none
  else
    let first := !i.greeted.contains q.peer
    let s := setColl s { i with granted := i.granted ++ [q], greeted := if first then i.greeted ++ [q.peer] else i.greeted }
    some (.go (sendCollTo s i q.peer cmGrant ([(8, q.stage), (16, q.piece), (32, q.chunk), (32, 1)] ++ (if first then planItems i else []))))

/-- Grants keep the fold order of each chunk: a term is granted once every earlier term of it is. -/
def grantable (i : Coll) (rs : List CollPart) (q : CollPart) : Bool :=
  (rs.takeWhile (· != q)).all (fun r => !(r.stage == q.stage && r.piece == q.piece && r.chunk == q.chunk) || i.granted.contains r || i.got.contains r)

/-- A piece is wholly here. -/
def pieceHere (g : GroupEntry) (i : Coll) (m : Nat) : Bool :=
  if m = g.self then i.copied
  else (List.range (collChunks i.d)).all (fun c => i.got.any (fun r => r.piece == m && r.chunk == c))

/-- The piece object advances once for the next position whose piece is here (R313). -/
def collDeliver (s : State) (g : GroupEntry) (i : Coll) : Option CollStep :=
  if !i.gathers || !i.begun then none
  else match (deliveryOrder g)[i.delivered]? with
    | none => none
    | some m =>
      if pieceHere g i m then
        let s := setColl s { i with delivered := i.delivered + 1 }
        some (.go (match i.pieces with
          | some a => addObj s a 1
          | none => s))
      else none

/-- The destination is written and every chunk sent is acknowledged. -/
def collComplete (g : GroupEntry) (i : Coll) : Bool :=
  i.begun && i.unacked.isEmpty && (collSends g i).all i.sent.contains &&
    (if i.gathers then decide (g.n ≤ i.delivered) else (List.range (collChunks i.d)).all i.written.contains)

/-- The next thing an instance does. -/
def collStep (s : State) (i : Coll) : Option CollStep :=
  let g := s.group i.group
  let rs := collReceives g i
  (collBegin s g i).orElse (fun _ =>
  (firstStep i.owed (collResend s g i)).orElse (fun _ =>
  (firstStep rs (fun q => if grantable i rs q then collGrant s g i q else none)).orElse (fun _ =>
  (collCopy s g i).orElse (fun _ =>
  (if i.begun && !i.gathers then firstStep (foldWork g i.d) (fun w => foldNext s g i w.1 w.2.1 w.2.2) else none).orElse (fun _ =>
  (if i.gathers then none else firstStep (List.range (collChunks i.d)) (collWrite s g i)).orElse (fun _ =>
  (firstStep (collSends g i) (collSend s g i)).orElse (fun _ =>
  (collDeliver s g i).orElse (fun _ =>
  if collComplete g i then some (.go (endColl s i stOk)) else none))))))))

/-- Runs an instance until it waits or has ended. -/
def settleCollN : Nat → State → Nat → Word32 → State
  | 0, s, _, _ => s
  | f + 1, s, g, q =>
    match collOf s g q with
    | none => s
    | some i =>
      match collStep s i with
      | none => s
      | some (.wait s) => s
      | some (.fail s st) => endColl s ((collOf s g q).getD i) st
      | some (.go s) => settleCollN f s g q

/-- Settles one instance. -/
def settleColl (s : State) (g : Nat) (q : Word32) : State :=
  match collOf s g q with
  | none => s
  | some i =>
    let x := s.group g
    settleCollN (16 + 8 * (x.n + 1) * (x.n + 1) * (collChunks i.d + 1)) s g q

/-- Settles every instance, oldest first. -/
def settleColls (s : State) : State := s.forAll (s.colls.active.map (fun i => (i.group, i.seq))) (fun s p => settleColl s p.1 p.2)

/-- `SYNC_REQUEST` (R326): request k reaches its home, once no earlier request of its source to the same object is
under way and every SMT it must follow is complete (R12, R333); movers and collective instances go on with what it
changed. -/
def execSyncRequest (k : Nat) (s : State) : Outcome :=
  match s.sync.reqs[k]? with
  | none => .next s
  | some r =>
    if r.after ≠ 0 || (s.sync.reqs.take k).any (fun q => q.obj == r.obj && q.act.unit == r.act.unit) then .next s
    else .next (settleColls (settleRings (applyReq { s with sync := { s.sync with reqs := s.sync.reqs.eraseIdx k } } r)))

/-! Starting (R307). -/

/-- Grants of chunks first to first + count − 1. -/
def addGrants (i : Coll) (peer stage piece first count : Nat) : Coll :=
  let new := (List.range count).map (fun k => CollPart.mk peer stage piece (first + k))
  { i with grants := i.grants ++ new.filter (fun q => !i.grants.contains q) }

/-- What the comparison of a peer's plan finds (R316): 0, `ST_DENIED` or `ST_CONFLICT`. -/
def planCheck (i : Coll) (p : CollPlanItems) : Nat :=
  if p.domain ≠ i.domain then stDenied
  else if p.kind.toNat ≠ cpKind i.d ∨ p.op.toNat ≠ cpOp i.d ∨ p.wire ≠ cpWire i.d ∨ p.pieceElems.toNat ≠ cpElems i.d ∨
      p.fmtSrc.toNat ≠ cpFmtSrc i.d ∨ p.fmtDst.toNat ≠ cpFmtDst i.d then stConflict
  else stOk

/-- A GRANT reaches an active instance. -/
def takeGrant (s : State) (i : Coll) (src : BitVec 12) (m : CollMsg) (first count : Nat) (plan : Option CollPlanItems) : State :=
  match (s.group i.group).index src with
  | none => s
  | some peer =>
    let st := match plan with
      | some p => planCheck i p
      | none => stOk
    if st ≠ stOk then endColl (collFault s st i.group i.seq src.toNat) i st
    else setColl s (addGrants i peer m.stage m.piece first (min count 16))

/-- Grants that came before the instance started; one whose check value is not the group's own is dropped (R302). -/
def takeEarlyGrants (s : State) (g : Nat) (q : Word32) : State :=
  let mine := s.colls.early.filter (fun e => e.msg.group.toNat == g && e.msg.seq == q)
  let s := { s with colls := { s.colls with early := s.colls.early.filter (fun e => !(e.msg.group.toNat == g && e.msg.seq == q)) } }
  s.forAll mine (fun s e => match collOf s g q with
    | some i =>
      if e.msg.check ≠ (s.group g).check then collFault (count s 0x0D00) stConflict g q e.src.toNat
      else takeGrant s i e.src e.msg e.first e.count e.plan
    | none => s)

/-- `COLL` (R127, R307): the instance takes the group's next number and a slot, or ends at once with `ST_BUSY`. -/
def execColl (u : Issue) (plan : BitVec 16) (aSrc : Option (Fin 16)) (aDst : Option (Fin 16)) (s : State) : Outcome :=
  .next (issue s u (fun x =>
    match x.slot with
    | none => issueFault s u x 0x01 none
    | some n =>
      let d := collPlan s n plan.toNat
      let gid := cpGroup d
      let g := s.group gid
      if secCount (s.slot n).image 0xD ≤ plan.toNat ∨ g.set = false then issueFault s u x 0x01 none
      else
        let reg := fun (a : Option (Fin 16)) => match a with
          | some i => (x.getA i).toNat
          | none => 0
        let obj := fun (v : Nat) => if v = 0xFFFF then none else ctxVid s u.tile u.ctx v
        let i : Coll := { group := gid, seq := g.nextSeq, plan := BitVec.ofNat 512 d, slot := n, tile := u.tile, ctx := u.ctx, domain := BitVec.ofNat 10 (slotDomain s n), src := (cpSrc d + reg aSrc) % 2 ^ 64, dst := (cpDst d + reg aDst) % 2 ^ 64, release := obj (cpRelease d), consume := obj (cpConsume d), pieces := if cpKind d = 1 then obj (cpPieces d) else none }
        let s := setOutcome (s.setGroup gid { g with nextSeq := g.nextSeq + 1 }) gid i.seq false
        let s := advance s u.tile u.ctx
        if 256 ≤ s.colls.active.length then
          let s := endCollTo s i stBusy ((List.range g.n).filter (· != g.self))
          emit s { type := 0x3004, severity := 3, scope := 1, items := [(16, u.tile.val), (8, u.ctx.val), (32, x.pc.toNat), (16, gid), (32, i.seq.toNat)] }
        else
          let i := { i with credit := if i.consume.isSome then .waiting else .notTaken }
          let s := { s with colls := { s.colls with active := s.colls.active ++ [i] } }
          let s := match i.consume with
            | some a => sendReq s ⟨a, .credit (.coll gid i.seq.toNat), x.pc, 0⟩
            | none => s
          settleColls (takeEarlyGrants s gid i.seq)))

/-! Messages that arrive. -/

/-- A message for an instance that the module does not hold (R319). -/
def lateMsg (s : State) (src : BitVec 12) (g : Nat) (q : Word32) (reply : Bool) : State :=
  let x := s.group g
  let back := (x.nextSeq - q).toNat
  if 1 ≤ back ∧ back ≤ 64 then
    if x.outcome.getLsbD (q.toNat % 64) && reply then sendColl s src.toNat g q x.check 0x3FF cmAbandon [(8, stAbandoned)] else s
  else count s 0x1000

/-- What a collective message that the ingress has met meets then: dropped by its check value (R302; a FREE entry's is 0) or
for want of its group. -/
def collMsg (i : State × Bool) (p : PktHdr) (group : BitVec 12) (seq : Word32) (check : BitVec 64) : State × Bool :=
  let g := i.1.group group.toNat
  if !i.2 then (i.1, false)
  else if g.check ≠ check then (collFault (count i.1 0x0D00) stConflict group.toNat seq p.src.toNat, false)
  else if !g.set then (count i.1 0x1000, false)
  else (i.1, true)

/-- `GRANT` (R315, R316, R319): one for an instance not started yet waits for it. -/
def execGrant (p : PktHdr) (g : CollMsg) (firstChunk count' : Nat) (plan : Option CollPlanItems) (s : State) : Outcome :=
  let m := collMsg (ingress s p 5) p g.group g.seq g.check
  let s := m.1
  if !m.2 then .next s
  else match collOf s g.group.toNat g.seq with
    | some i => .next (settleColls (takeGrant s i p.src g firstChunk count' plan))
    | none =>
      let ahead := (g.seq - (s.group g.group.toNat).nextSeq).toNat
      if ahead < 2 ^ 31 then
        .next { s with colls := { s.colls with early := s.colls.early ++ [⟨p.src, g, firstChunk, count', plan⟩] } }
      else .next (lateMsg s p.src g.group.toNat g.seq true)

/-- Fields of an arriving chunk header. -/
def chCrc (h : Nat) : Nat := bits h 511 448
def chCheck (h : Nat) : Nat := bits h 447 384
def chSeq (h : Nat) : Nat := bits h 383 352
def chChunk (h : Nat) : Nat := bits h 351 328
def chPiece (h : Nat) : Nat := bits h 327 316
def chSender (h : Nat) : Nat := bits h 315 304
def chGroup (h : Nat) : Nat := bits h 303 292
def chStage (h : Nat) : Nat := bits h 291 288
def chLength (h : Nat) : Nat := bits h 287 272

/-- A chunk that fails its CRC: NAK, counted; the third failing resend ends the instance (R317). -/
def crcFailed (s : State) (i : Coll) (q : CollPart) (src : Nat) : State :=
  let k := ((i.crcFails.find? (fun e => e.1 == q)).map (·.2)).getD 0
  let s := count s 0x0E00
  if 3 ≤ k then
    let s := emit s { type := 0x3006, status := stPoisoned, severity := 3, scope := 1, items := [(16, i.group), (32, i.seq.toNat), (8, q.stage), (16, q.piece), (32, q.chunk), (16, src)] }
    endColl s i stPoisoned
  else
    let s := setColl s { i with crcFails := i.crcFails.filter (fun e => e.1 != q) ++ [(q, k + 1)] }
    sendCollTo s i q.peer cmNak (partItems q)

/-- An accepted chunk: its grant is used up, and it is acknowledged. -/
def acceptChunk (i : Coll) (q : CollPart) : Coll :=
  { i with granted := i.granted.filter (· != q), got := i.got ++ [q], crcFails := i.crcFails.filter (fun e => e.1 != q) }

/-- A chunk reaches its engine: it is checked, held for its fold or written, and acknowledged; one that came already is
acknowledged and dropped; one whose destination grain is held is held too.  Answers whether it is held. -/
def collChunk (m : State × Bool) (p : PktHdr) (header : BitVec 512) (payload : List Byte) : State × Bool :=
  let h := header.toNat
  let seq : Word32 := BitVec.ofNat 32 (chSeq h)
  let s := m.1
  if !m.2 then (s, false)
  else match collOf s (chGroup h) seq with
    | none => (lateMsg s p.src (chGroup h) seq true, false)
    | some i =>
      let q : CollPart := ⟨chSender h, chStage h, chPiece h, chChunk h⟩
      if (s.group i.group).id q.peer ≠ p.src.toNat then (lateMsg s p.src (chGroup h) seq false, false)
      else if chCrc h ≠ (chunkCrc (h % 2 ^ 448) payload).toNat ∨ payload.length ≠ chLength h then (settleColls (crcFailed s i q p.src.toNat), false)
      else if i.got.contains q then (sendCollTo (count s 0x0F00) i q.peer cmAck (partItems q), false)
      else if !i.granted.contains q then (s, false)
      else
        let ack := fun (s : State) (i : Coll) => settleColls (sendCollTo (setColl s i) i q.peer cmAck (partItems q))
        if i.gathers then
          match collPut s i (collDie q.chunk) (piecePlace i q.piece + 16384 * q.chunk) payload (fun s => ack s { acceptChunk i q with heldAt := none }) with
          | .go s => (s, false)
          | .wait s => (s, true)
          | .fail s st => (settleColls (endColl s i st), false)
        else
          let j := acceptChunk i q
          (ack s { j with held := j.held ++ [(q, payload)] }, false)

/-- The group, sequence number and check value of a chunk, after the ingress has met its packets. -/
def chunkMsg (i : State × Bool) (p : PktHdr) (header : BitVec 512) : State × Bool :=
  let h := header.toNat
  collMsg i p (BitVec.ofNat 12 (chGroup h)) (BitVec.ofNat 32 (chSeq h)) (BitVec.ofNat 64 (chCheck h))

/-- `COLL_CHUNK_ARRIVAL` (R302, R314, R317, R318): a chunk whose grain is held stays in the receive buffer. -/
def execCollChunkArrival (p : PktHdr) (header : BitVec 512) (payload : List Byte) (s : State) : Outcome :=
  let r := collChunk (chunkMsg (admitPacket s p 5) p header) p header payload
  .next (if r.2 then holdIn r.1 (.coll p header payload) else returnCredit r.1 p (64 + payload.length))

/-- The part that an ACK or NAK is about. -/
def msgPart (s : State) (p : PktHdr) (g : CollMsg) (chunk : Nat) : Option CollPart :=
  ((s.group g.group.toNat).index p.src).map (fun m => ⟨m, g.stage, g.piece, chunk⟩)

/-- `COLL_ACK` (R315, R318): the chunk need not be kept; the instance may complete. -/
def execCollAck (p : PktHdr) (g : CollMsg) (chunk : Nat) (s : State) : Outcome :=
  let m := collMsg (ingress s p 5) p g.group g.seq g.check
  let s := m.1
  match m.2, collOf s g.group.toNat g.seq, msgPart s p g chunk with
  | true, some i, some q =>
    .next (settleColls (setColl s { i with unacked := i.unacked.filter (fun u => u.part != q) }))
  | _, _, _ => .next s

/-- An unacknowledged chunk is to go again; none that has not left at all. -/
def resendColl (s : State) (i : Coll) (u : CollSent) : State :=
  if u.planes = 0 || i.owed.contains u.part then s else settleColls (setColl s { i with owed := i.owed ++ [u.part] })

/-- `NAK` (R317). -/
def execNak (p : PktHdr) (g : CollMsg) (chunk : Nat) (s : State) : Outcome :=
  let m := collMsg (ingress s p 5) p g.group g.seq g.check
  let s := m.1
  match m.2, collOf s g.group.toNat g.seq, msgPart s p g chunk with
  | true, some i, some q =>
    match i.unacked.find? (fun u => u.part == q) with
    | some u => .next (resendColl s i u)
    | none => .next s
  | _, _, _ => .next s

/-- `ABANDON` (R319). -/
def execAbandon (p : PktHdr) (g : CollMsg) (_status : BitVec 8) (s : State) : Outcome :=
  let m := collMsg (ingress s p 5) p g.group g.seq g.check
  match m.2, collOf m.1 g.group.toNat g.seq with
  | true, some i => .next (settleColls (endColl m.1 i stAbandoned))
  | _, _ => .next m.1

/-! Timers (R320, R479) and lost planes. -/

/-- Member indices from which a GRANT or a granted chunk is outstanding, lowest first. -/
def collOutstanding (g : GroupEntry) (i : Coll) : List Nat :=
  let owe := fun (m : Nat) => i.granted.any (fun q => q.peer == m) ||
    (collSends g i).any (fun q => q.peer == m && !i.sent.contains q && !i.grants.contains q)
  ((List.range g.n).filter owe).take 8

/-- `COLL_STALL_TIMER` (R320): reported once; the instance stays active. -/
def execCollStallTimer (group : BitVec 12) (seq : BitVec 32) (s : State) : Outcome :=
  match collOf s group.toNat seq with
  | none => .next s
  | some i =>
    if i.stalled then .next s
    else
      let g := s.group i.group
      let ms := collOutstanding g i
      let others := (s.colls.active.filter (fun j => !(j.group == i.group && j.seq == i.seq))).take 8
      .next (emit (setColl s { i with stalled := true }) { type := 0x3007, severity := 2, scope := 1, items := [(16, i.group), (32, i.seq.toNat), (8, min 4 (highestStage g i + 1)), (8, ms.length)] ++ ms.map (fun m => (16, m)) ++ [(8, others.length)] ++ others.flatMap (fun j => [(16, j.group), (32, j.seq.toNat)]) })

/-- `CHUNK_RESEND_TIMER` (R479): a chunk unacknowledged for 100 µs goes again on the next plane. -/
def execChunkResendTimer (u : ChunkId) (s : State) : Outcome :=
  match u with
  | .ring b dst d =>
    match (s.bind b.val).pass.bind (fun p => p.unacked.find? (fun v => v.dst == dst && v.data == d)) with
    | some v => .next (resendRing s b.val v)
    | none => .next s
  | .coll g q dst stage piece chunk =>
    match collOf s g.toNat q, (s.group g.toNat).index dst with
    | some i, some m =>
      match i.unacked.find? (fun v => v.part == ⟨m, stage, piece, chunk⟩) with
      | some v => .next (resendColl s i v)
      | none => .next s
    | _, _ => .next s

/-- A plane is lost: unacknowledged chunks sent on it go again (R318). -/
def collPlaneLost (s : State) (plane : Nat) (dst : BitVec 12 → Bool) : State :=
  s.forAll s.colls.active (fun s i =>
    let g := s.group i.group
    s.forAll (i.unacked.filter (fun u => u.planes.getLsbD plane && dst (BitVec.ofNat 12 (g.id u.part.peer)))) (fun s u =>
      match collOf s i.group i.seq with
      | some j => resendColl s j u
      | none => s))

/-- Every instance of an unbound launch ends with `ST_ABANDONED` (R308). -/
def abandonColls (s : State) (n : Fin 16) : State :=
  s.forAll (s.colls.active.filter (fun i => i.slot == n)) (fun s i =>
    match collOf s i.group i.seq with
    | some j => endColl s j stAbandoned
    | none => s)

end Sys2Proof.Machine
end

