-- ==== Sys2Proof/Machine/Arrive.lean ====
section
/-! DEFINITION. What arrives from the fabric and writes memory: WRITE packets (R355), and the receive buffers that hold what
waits for a grain (R362). -/

namespace Sys2Proof.Machine

/-- Passes and instances see the counters as they now stand. -/
def settleEngines (s : State) : State := settleColls (settleRings s)

/-! Receiving remote transfers (R355). -/

def inXfer (s : State) (p : PktHdr) : InXfer :=
  (s.fabric.inbound.find? (fun i => i.src == p.src && i.xfer == p.xfer)).getD { src := p.src, xfer := p.xfer }

def dropInXfer (s : State) (i : InXfer) : State :=
  { s with fabric := { s.fabric with inbound := s.fabric.inbound.filter (fun j => !(j.src == i.src && j.xfer == i.xfer)) } }

def setInXfer (s : State) (i : InXfer) : State :=
  let s := dropInXfer s i
  { s with fabric := { s.fabric with inbound := s.fabric.inbound ++ [i] } }

/-- The numbers of the last completed transfers of a source. -/
def completed (s : State) (p : PktHdr) : Bool := (tabGet ([] : List (BitVec 16)) s.fabric.complete p.src.toNat).contains p.xfer

def sendAck (s : State) (e : AckHeld) : State :=
  sendControl s 2 e.src.toNat 0x3FF e.xfer e.first 0 (e.count + if e.signal then 2 ^ 24 else 0) []

/-- Acknowledges a packet: joined to the ACK held back for the packets before it; an ACK of 32 packets leaves at once. -/
def ackWrite (s : State) (p : PktHdr) : State :=
  let i := p.index.toNat
  let next := fun (e : AckHeld) => e.src == p.src && e.xfer == p.xfer && e.first + e.count == i
  match s.fabric.acks.find? next with
  | some e =>
    let e' := { e with count := e.count + 1 }
    let rest := s.fabric.acks.filter (fun f => f != e)
    if 32 ≤ e'.count then sendAck { s with fabric := { s.fabric with acks := rest } } e'
    else { s with fabric := { s.fabric with acks := rest ++ [e'] } }
  | none => { s with fabric := { s.fabric with acks := s.fabric.acks ++ [⟨p.src, p.xfer, i, 1, false⟩] } }

def ackSignal (s : State) (src : BitVec 12) (xfer : BitVec 16) : State := sendAck s ⟨src, xfer, 0, 0, true⟩

/-- Applies a SIGNAL whose packets are all visible, acknowledges it and records the transfer as complete. -/
def settleIn (s : State) (i : InXfer) : State :=
  match i.signal with
  | none => s
  | some (a, _, n) =>
    if n ≤ i.got.length then
      let s := settleEngines (dstSignal (dropInXfer s i) a i.src.toNat)
      let s := ackSignal s i.src i.xfer
      let l := i.xfer :: tabGet ([] : List (BitVec 16)) s.fabric.complete i.src.toNat
      { s with fabric := { s.fabric with complete := tabPut [] s.fabric.complete i.src.toNat (l.take 256) } }
    else s

/-- A WRITE reaches memory through its port's die; true while its grain is held. -/
def takeWrite (s : State) (p : PktHdr) (payload : List Byte) : State × Bool :=
  if completed s p then (ackWrite (count s 0x1400) p, false)
  else
    let m := devMeet s p.address.toNat payload.length p.domain.toNat true (die5 (Fin.ofNat 4 (p.port.val / 2)))
    match m.2 with
    | .held => (m.1, true)
    | .served =>
      let w := devWrite m.1 p.address.toNat payload 3 p.src.toNat 0
      if !w.2 then (sendDeny (dropInXfer w.1 (inXfer w.1 p)) p stBadArg, false)
      else
        let i := inXfer w.1 p
        let i := if i.got.contains p.index.toNat then i else { i with got := p.index.toNat :: i.got }
        (settleIn (ackWrite (setInXfer (settleEngines w.1) i) p) i, false)
    | o => (sendDeny (dropInXfer m.1 (inXfer m.1 p)) p o.status, false)

/-- What a receive buffer holds is tried again. -/
def tryHeld (s : State) : HeldIn → State × Bool
  | .write p l => takeWrite s p l
  | .ring p h d first l => ringChunk (ringMsg (s, true) p h) p h d first l
  | .coll p header l => collChunk (chunkMsg (s, true) p header) p header l

/-- The receive buffers give up what need wait no longer, in order of arrival. -/
def serveArrivals (s : State) : State :=
  s.forAll s.fabric.heldIn (fun s h =>
    let r := tryHeld s h
    if r.2 then r.1
    else returnCredit { r.1 with fabric := { r.1.fabric with heldIn := r.1.fabric.heldIn.erase h } } h.size.1 h.size.2)

end Sys2Proof.Machine
end

