-- ==== Sys2Proof/Machine/HostLink.lean ====
section
/-! DEFINITION. The host link (ch. 14): BAR0 registers, BAR2, pokes, mailboxes, event queues, and the events of memory
after which waiting BAR2 accesses end. -/

namespace Sys2Proof.Machine

/-! The host port's queue (R385, R386). -/

/-- Rings the doorbell of a mailbox (R391): the tail as written, bits at and above n ignored. -/
def ringBell (s : State) (m : Fin 8) (v : BitVec 12) : State :=
  let x := s.mbx m
  s.setMbx m { x with tail := v.toNat % 2 ^ x.log2 }

/-- Performs a poke with the operation and address of SYNC_POKE_ADDR (R343). -/
def doPoke (s : State) (v : Word64) : State := settleEngines (poke s s.host.pokeOp.toNat s.host.pokeAddr.toNat v)

/-- A BAR2 write among what waits. -/
def HostItem.bar2Write : HostItem → Bool
  | .access x => x.writes
  | _ => false

/-- A held access backs its UNBACKED grains (R190, R192). -/
def backBar2 (s : State) (x : Bar2Access) : State := (rangeGrains x.addr x.len).foldl (fun s g => startBacking s g s.host.bar2Domain.toNat 4) s

/-- Ends what need wait no longer, in order of arrival. -/
def serveHost (s : State) : State :=
  s.host.held.foldl (fun s i =>
    let drop := fun (s : State) => { s with host := { s.host with held := s.host.held.erase i } }
    let behind := (s.host.held.takeWhile (fun j => j != i)).any (·.bar2Write)
    match i with
    | .access x =>
      match x.meet s with
      | .held => backBar2 s x
      | m => bar2End (drop s) x m
    | .tail m v => if behind then s else ringBell (drop s) m v
    | .poke v => if behind then s else doPoke (drop s) v) s

/-- Something reaches the host port behind what waits there. -/
def enqueueHost (s : State) (i : HostItem) : State := { s with host := { s.host with held := s.host.held ++ [i] } }

/-- A BAR2 access arrives (R385): it ends, or waits for its grain; an UNBACKED one is backed.  At I4 it starts the exit
and ends as one still held after 1 ms does (R462). -/
def bar2Arrive (s : State) (x : Bar2Access) : State :=
  if s.idle.module && decide (x.meet s ≠ .untrusted) then
    let s := hostError (wakeModule s) 4 x.addr
    if x.writes then s else answerHost s .abort
  else match x.meet s with
  | .held => enqueueHost (backBar2 s x) (.access x)
  | m => bar2End s x m

/-- `BAR2_READ` (R384, R385): byte `off` of BAR2 is device address HOST_BAR2_BASE + off. -/
def execBar2Read (off len : Nat) (s : State) : Outcome := .next (bar2Arrive s (.read (s.host.bar2Base.toNat + off) len))

/-- `BAR2_WRITE` (R384, R385). -/
def execBar2Write (off : Nat) (bytes : List Byte) (s : State) : Outcome :=
  .next (bar2Arrive s (.write (s.host.bar2Base.toNat + off) bytes))

/-- `BAR2_HOLD_TIMEOUT` (R385): item k of those that wait, a BAR2 access, has waited for 1 ms. -/
def execBar2HoldTimeout (k : Nat) (s : State) : Outcome :=
  match s.host.held[k]? with
  | some (.access x) =>
    let s := hostError { s with host := { s.host with held := s.host.held.eraseIdx k } } 4 x.addr
    .next (serveHost (if x.writes then s else answerHost s .abort))
  | _ => .next s

/-! Memory events after which held accesses go on: the hub's, the receive buffers', those of the passes and instances, and the
host's (Table 14.2). -/

def serveHeld (s : State) : State := serveHost (settleEngines (serveArrivals (serveHub s)))

/-- `BACKING_COMPLETE` (R190). -/
def execBackingComplete (g : BitVec 28) (s : State) : Outcome := .next (serveHeld (backingCompleted g s))
/-- `PROMOTION_COMPLETE` (R190). -/
def execPromotionComplete (g : BitVec 28) (s : State) : Outcome := .next (serveHeld (promotionCompleted g s))
/-- `MOVE_COMPLETE` (R190). -/
def execMoveComplete (g : BitVec 28) (s : State) : Outcome := .next (serveHeld (moveCompleted g s))
/-- `UNCORRECTABLE_ERROR` (R208, R483). -/
def execUncorrectableError (g : BitVec 28) (e : CopyError) (s : State) : Outcome := .next (serveHeld (uncorrectable g e s))
/-- `RESTORE_COMPLETE` (R209, R210). -/
def execRestoreComplete (g : BitVec 28) (r : RestoreResult) (s : State) : Outcome := .next (serveHeld (restoreCompleted g r s))
/-- `RESTORE_TIMEOUT` (R209). -/
def execRestoreTimeout (g : BitVec 28) (s : State) : Outcome := .next (serveHeld (restoreTimedOut g s))
/-- `CHANNEL_CRC_FAIL` (R485). -/
def execChannelCrcFail (stack : Fin 24) (channel : Fin 4) (g : BitVec 28) (write : Option (Fin 1024 × List Byte)) (failures : Fin 6)
    (s : State) : Outcome :=
  .next (serveHeld (channelFails stack channel g write failures s))
/-- `STACK_UNRESPONSIVE` (R485). -/
def execStackUnresponsive (stack : Fin 24) (s : State) : Outcome := .next (serveHeld (stackFails stack s))
/-- `CXL_LINK_DOWN` (R486). -/
def execCxlLinkDown (port : Fin 2) (s : State) : Outcome := .next (serveHeld (portOut s port 3))
/-- `CXL_REQUEST_TIMEOUT` (R486). -/
def execCxlRequestTimeout (port : Fin 2) (g : BitVec 28) (s : State) : Outcome := .next (serveHeld (cxlTimesOut port g s))

/-! TDISP (R436, R437). -/

def Tdisp.code : Tdisp → Nat
  | .unlocked => 0
  | .locked => 1
  | .run => 2
  | .error => 3

/-- A change of TDISP state (R437); ERROR discards the stream keys. -/
def setTdisp (s : State) (t : Tdisp) (cause : Nat) : State :=
  let old := s.prot.tdisp
  if old = t then s
  else
    let s := { s with prot := { s.prot with tdisp := t, keyed := s.prot.keyed && t != .error } }
    emit s { type := 0x7002, severity := if cause = 0 then 0 else 3, scope := if cause = 0 then 0 else 6, items := [(8, old.code), (8, t.code), (8, cause)] }

/-- A write to a frozen register: ignored, and the function goes to ERROR (R437). -/
def frozenWrite (s : State) : State := setTdisp s .error 1

/-- A write to a register that TDISP freezes. -/
def lockedWrite (s : State) (f : State → State) : State := if s.prot.tdisp = .unlocked then f s else frozenWrite s

/-! BAR0 registers (Table 14.3). -/

/-- `ID_DEVICE` (Table 14.4): the interface version of the firmware that runs. -/
def bankImage (s : State) (b : Nat) : Option FwImage := tabGet none s.prot.banks b
def fwMajor (s : State) : Nat := ((bankImage s s.prot.bank.val).map (·.major.toNat)).getD 1
def fwMinor (s : State) : Nat := ((bankImage s s.prot.bank.val).map (·.minor.toNat)).getD 4
def idDevice (s : State) : Nat := packBits [(16, 0x1536), (8, 1), (8, 0x42), (16, fwMinor s), (16, fwMajor s)]

def TimeSt.code : TimeSt → Nat
  | .free => 0
  | .acquiring => 1
  | .locked => 2
  | .holdover => 3

/-- `ID_STATE` (Table 14.5). -/
def idState (s : State) : Nat :=
  packBits [(32, 0), (3, s.cmd.module.val), (3, s.time.st.code), (1, b2n s.trusted), (1, b2n s.cmd.bound), (12, s.cmd.slice.toNat), (12, moduleId s)]

/-- `ID_CAPACITY` (Table 14.6). -/
def idCapacity (s : State) : Nat :=
  let port := fun p => let x := s.port p
    if x.st = 2 ∨ s.idle.module then 0 else x.width.val
  let cxl := fun p => let x := s.cxl p
    if x.inService then x.width.val else 0
  packBits ([(8, 0), (4, cxl 0), (4, cxl 1)] ++ (List.range 8).map (fun p => (3, port p)) ++
    [(5, 0), (5, ((List.range 24).filter (stackUp s)).length), (6, (allAes.filter (fun e => !(s.ae e).failed)).length), (8, (allTiles.filter (fun t => !(s.tile t).failed)).length)])

/-- `MBX_RING_SIZE` and `MBX_STATUS` (Tables 14.9, 14.10). -/
def Mailbox.size (x : Mailbox) : Nat := packBits [(4, x.log2), (58, 0), (1, b2n x.stopped), (1, b2n x.enable)]
def Mailbox.statusReg (x : Mailbox) : Nat := packBits [(8, x.status.toNat), (8, x.error), (20, 0), (12, x.index), (16, x.tag.toNat)]

/-- `EVQ_CTL` (Table 14.15). -/
def EvQueue.ctl (q : EvQueue) : Nat :=
  packBits [(1, b2n q.irqMask), (1, b2n q.armed), (2, 0), (4, q.vector.val), (24, 0), (12, q.modCount), (16, q.modTime), (3, 0), (1, b2n q.enable)]

/-- The value of the named sync object as a host read of `SYNC_POKE_VAL` gives it; none where the manual states no
value (no object there, or not host-visible). -/
def pokeRead (s : State) : Option Word64 :=
  let o := s.obj s.host.pokeAddr.toNat
  if o.st != 3 && o.hostVisible then some o.value else none

/-- A BAR0 register by its offset, a multiple of 8 (R388). -/
def bar0Reg (s : State) (o : Nat) : Nat :=
  if o = 0 then idDevice s
  else if o = 8 then idState s
  else if o = 0x10 then idCapacity s
  else if o = 0x40 then s.host.bar2Base.toNat
  else if o = 0x48 then s.host.bar2Domain.toNat
  else if o = 0x50 then s.host.aperture.toNat
  else if o = 0x58 then s.host.error.toNat
  else if 0x1000 ≤ o ∧ o < 0x1800 then
    let x := s.mbx (Fin.ofNat 8 ((o - 0x1000) / 0x100))
    match o % 0x100 with
    | 0 => x.ringBase | 8 => x.size | 0x10 => x.tail | 0x18 => x.head | 0x20 => x.statusReg | _ => 0
  else if 0x2000 ≤ o ∧ o < 0x2400 then
    let q := s.evq ((o - 0x2000) / 0x100)
    match o % 0x100 with
    | 0 => q.base | 8 => q.log2 | 0x10 => q.prod.toNat | 0x18 => q.cons.toNat | 0x20 => q.ctl | 0x28 => q.lost.toNat | _ => 0
  else if o = 0x2400 then s.host.route.toNat
  else if o = 0x3000 then packBits [(48, s.host.pokeAddr.toNat), (14, 0), (2, s.host.pokeOp.toNat)]
  else if o = 0x3008 then ((pokeRead s).map (·.toNat)).getD 0
  else if o = 0x4000 then s.time.now.toNat
  else if 0x8000 ≤ o ∧ o < 0x8100 then
    let e := s.msix (Fin.ofNat 16 ((o - 0x8000) / 16))
    if o % 16 = 0 then e.addr.toNat else packBits [(32, e.data.toNat), (32, e.control.toNat)]
  else if o = 0x9000 then packBits ((List.finRange 16).map (fun v => (1, b2n (s.msix v).pending)))
  else 0

/-- A write of `HOST_BAR2_BASE` (R384, Table 14.7). -/
def bar2BaseWrite (s : State) (v : Word64) : State :=
  let a := v.toNat % 2 ^ 48
  let w := 2 ^ s.host.bar2Log2
  if a % w = 0 ∧ a + w ≤ 0x100000000000 then { s with host := { s.host with bar2Base := BitVec.ofNat 48 a } }
  else hostError s 0 0x40

/-- A write of `MBX_RING_SIZE` (R390). -/
def mbxSizeWrite (s : State) (m : Fin 8) (enable : Bool) (log2 : Nat) : State :=
  let x := s.mbx m
  if x.enable then if enable then s else s.setMbx m { x with enable := false }
  else
    let x := { x with log2 := log2 }
    if !enable then s.setMbx m x
    else if 6 ≤ log2 ∧ log2 ≤ 12 then
      s.setMbx m { x with enable := true, head := 0, tail := 0, stopped := false, error := 0, status := 0 }
    else
      emit (s.setMbx m { x with stopped := true, error := 2 }) { type := 0x0002, severity := 3, scope := 1, items := [(8, m.val), (16, 0)] }

/-- A write of `EVQ_CTL` (R398). -/
def evqCtlWrite (s : State) (i : Nat) (v : Nat) : State :=
  let q := s.evq i
  let enable := bitAt v 63
  let y := { q with modTime := bits v 59 44, modCount := bits v 43 32, vector := Fin.ofNat 16 (bits v 7 4), irqMask := bitAt v 0 }
  if enable && !q.enable then
    if 6 ≤ q.log2 ∧ q.log2 ≤ 16 then
      s.setEvq i { y with enable := true, prod := 0, cons := 0, lost := 0, seq := 0, lossFlag := false, dropped := 0, armed := true, timing := false }
    else hostError (s.setEvq i y) 0 (0x2020 + 0x100 * i)
  else testQueue (s.setEvq i { y with enable := enable }) i

/-- A write of `EVQ_CONS` (R400, R406). -/
def evqConsWrite (s : State) (i : Nat) (v : Word32) : State :=
  let q := s.evq i
  if (v - q.cons).toNat ≤ (q.prod - q.cons).toNat then
    testQueue (s.setEvq i { q with cons := v, armed := true, timing := v != q.prod }) i
  else hostError s 0 (0x2018 + 0x100 * i)

/-- A write to the MSI-X table: word 0 the address, word 1 data and the mask bit of the vector control, whose other bits are
reserved (R7); unmasking delivers a pending interrupt. -/
def msixWrite (s : State) (e : Fin 16) (word : Nat) (v : Word64) : State :=
  let x := s.msix e
  if word = 0 then s.setMsix e { x with addr := v }
  else
    let y := { x with data := v.truncate 32, control := (v >>> 32).truncate 32 &&& 1 }
    if x.pending && !y.control.getLsbD 0 then raiseVector (s.setMsix e { y with pending := false }) e else s.setMsix e y

/-- A write to a mailbox register. -/
def mbxRegWrite (s : State) (m : Fin 8) (r : Nat) (v : Word64) : State :=
  let x := s.mbx m
  if r = 0 then if x.enable then s else s.setMbx m { x with ringBase := v.toNat / 4096 * 4096 }
  else if r = 8 then mbxSizeWrite s m (v.getLsbD 63) (v.toNat % 16)
  else if r = 0x10 then serveHost (enqueueHost s (.tail m (v.truncate 12)))
  else s

/-- A write to an event queue register. -/
def evqRegWrite (s : State) (i : Nat) (r : Nat) (v : Word64) : State :=
  let q := s.evq i
  if r = 0 then if q.enable then s else s.setEvq i { q with base := v.toNat / 4096 * 4096 }
  else if r = 8 then if q.enable then s else s.setEvq i { q with log2 := v.toNat % 16 }
  else if r = 0x18 then evqConsWrite s i (v.truncate 32)
  else if r = 0x20 then evqCtlWrite s i v.toNat
  else s

/-- A write of a whole register (RW1C: the bits written as 1). -/
def bar0Put (s : State) (o : Nat) (v : Word64) : State :=
  if o = 0x40 then lockedWrite s (fun s => bar2BaseWrite s v)
  else if o = 0x48 then lockedWrite s (fun s => { s with host := { s.host with bar2Domain := v.truncate 10 } })
  else if o = 0x50 then lockedWrite s (fun s => { s with host := { s.host with aperture := BitVec.ofNat 64 (v.toNat / 4096 * 4096) } })
  else if o = 0x58 then { s with host := { s.host with error := s.host.error &&& ~~~(v.truncate 6) } }
  else if 0x1000 ≤ o ∧ o < 0x1800 then mbxRegWrite s (Fin.ofNat 8 ((o - 0x1000) / 0x100)) (o % 0x100) v
  else if 0x2000 ≤ o ∧ o < 0x2400 then evqRegWrite s ((o - 0x2000) / 0x100) (o % 0x100) v
  else if o = 0x2400 then { s with host := { s.host with route := v.truncate 16 } }
  else if o = 0x3000 then { s with host := { s.host with pokeOp := (v >>> 62).truncate 2, pokeAddr := v.truncate 48 } }
  else if o = 0x3008 then serveHost (enqueueHost s (.poke v))
  else if 0x8000 ≤ o ∧ o < 0x8100 then lockedWrite s (fun s => msixWrite s (Fin.ofNat 16 ((o - 0x8000) / 16)) (o % 16 / 8) v)
  else s

/-- Registers of which a half that is not written counts as 0: RW1C bits and the poke value. -/
def zeroHalf (o : Nat) : Bool := o == 0x58 || o == 0x3008

/-- `MBX_TAIL` and `EVQ_CONS`: a write of the upper half alone reaches reserved bits only (R7). -/
def lowOnly (o : Nat) : Bool :=
  decide (0x1000 ≤ o ∧ o < 0x1800 ∧ o % 0x100 = 0x10) || decide (0x2000 ≤ o ∧ o < 0x2400 ∧ o % 0x100 = 0x18)

/-- A BAR0 write access: aligned, of 8 or 4 bytes; any other sets `HOST_ERROR`.bad_access (R388). -/
def bar0Write (s : State) (off size : Nat) (v : Word64) : State :=
  if size = 8 ∧ off % 8 = 0 then bar0Put s off v
  else if size = 4 ∧ off % 4 = 0 then
    let o := off / 8 * 8
    if off % 8 = 4 && lowOnly o then s
    else
    let old := if zeroHalf o then 0 else bar0Reg s o
    let w := v.toNat % 2 ^ 32
    bar0Put s o (BitVec.ofNat 64 (if off % 8 = 0 then packBits [(32, w), (32, old / 2 ^ 32)] else packBits [(32, old), (32, w)]))
  else hostError s 0 off

/-- A write of firmware to a stream queue register (Tables 6.6 to 6.8). -/
def stqWrite (s : State) (q : Fin 256) (reg : Nat) (v : Word64) : State :=
  let r := s.queue q
  if reg = 0 then
    let s := s.setQueue q { r with limit := (v >>> 48).truncate 16 }
    if v.getLsbD 0 then s.modQueue q (fun r => { r with enable := true }) else (abortQueue s q).modQueue q (fun r => { r with enable := false })
  else if reg = 8 then
    s.setQueue q { r with rearmRefused := r.rearmRefused && !v.getLsbD 19, deadlineMissed := r.deadlineMissed && !v.getLsbD 18 }
  else s

/-- `REGISTER_WRITE` (R6, R388, R162). -/
def execRegisterWrite (a : RegAccess) (s : State) : Outcome :=
  match a with
  | .bar0 off size v => .next (bar0Write s off size v)
  | .stq q reg v => .next (stqWrite s q reg v)

/-- `HOST_BAR2_BASE_WRITE` (R384). -/
def execHostBar2BaseWrite (v : Word64) (s : State) : Outcome := .next (lockedWrite s (fun s => bar2BaseWrite s v))

/-- `RESIZABLE_BAR_WRITE` (R381, R384): 64 GiB to 2 TiB. -/
def execResizableBarWrite (log2Size : Fin 6) (s : State) : Outcome :=
  .next (lockedWrite s (fun s =>
    let n := 36 + log2Size.val
    let base := if s.host.bar2Base.toNat % 2 ^ n = 0 then s.host.bar2Base else 0
    { s with host := { s.host with bar2Log2 := n, bar2Base := base } }))

/-- `FROZEN_REGISTER_WRITE` (R437): in CONFIG_UNLOCKED, where nothing is frozen, it is the write. -/
def execFrozenRegisterWrite (r : FrozenReg) (v : BitVec 64) (s : State) : Outcome :=
  match r with
  | .bar2Base => .next (bar0Put s 0x40 v)
  | .bar2Domain => .next (bar0Put s 0x48 v)
  | .apertureBase => .next (bar0Put s 0x50 v)
  | .msixTable e w => .next (bar0Put s (0x8000 + 16 * e.val + 8 * w.val) v)
  | .resizableBar => execResizableBarWrite (Fin.ofNat 6 v.toNat) s

/-! Pokes (R343). -/

/-- `POKE_ADD`: a write of `SYNC_POKE_VAL` while op is ADD. -/
def execPokeAdd (v : BitVec 64) (s : State) : Outcome :=
  if s.host.pokeOp = 0 then .next (bar0Put s 0x3008 v) else .next s
/-- `POKE_SET`. -/
def execPokeSet (v : BitVec 64) (s : State) : Outcome :=
  if s.host.pokeOp = 1 then .next (bar0Put s 0x3008 v) else .next s
/-- `POKE_PUT`. -/
def execPokePut (v : BitVec 64) (s : State) : Outcome :=
  if s.host.pokeOp = 2 then .next (bar0Put s 0x3008 v) else .next s

/-- `SYNC_POKE_VAL_READ` (R343): the object's value; a free value where it states none. -/
def execSyncPokeValRead (s : State) : Outcome :=
  match pokeRead s with
  | some v => .next (answerHost s (.data (leBytes 8 v.toNat)))
  | none => .next (answerHost s.bump (.data (leBytes 8 s.freeVal)))

/-! Mailboxes (R390 to R396). -/

/-- `MBX_TAIL_WRITE` (R386, R391). -/
def execMbxTailWrite (m : Fin 8) (v : BitVec 12) (s : State) : Outcome := .next (serveHost (enqueueHost s (.tail m v)))

/-- `MBX_ENABLE` (R390). -/
def execMbxEnable (m : Fin 8) (log2 : BitVec 4) (s : State) : Outcome := .next (mbxSizeWrite s m true log2.toNat)

/-- `MBX_DISABLE` (R390): log2_entries stays as it is. -/
def execMbxDisable (m : Fin 8) (s : State) : Outcome := .next (mbxSizeWrite s m false (s.mbx m).log2)

/-! Command descriptors (Table 14.11). -/


/-- The response header (Table 14.12). -/
def respHeader (k : Taken) (m index status len : Nat) : List Byte :=
  leBytes 16 (packBits [(1, 1), (23, 0), (12, index), (4, m), (8, status), (16, k.tag), (32, 0), (32, len)])

/-- A command completes (R396): body, header, `MBX_STATUS`, `EV_CMD_DONE`, in this order.  A body that does not fit is not
written beyond what fits. -/
def finish (s : State) (m : Fin 8) (status : Nat) (body : List Byte) : State :=
  let x := s.mbx m
  match x.taken with
  | none => s
  | some k =>
    let body := if k.respLen = 0 then [] else body.take (k.respLen - 16)
    let s := if k.silent ∨ k.respLen = 0 then s
      else (s.hostWrite (k.respAddr + 16) body).hostWrite k.respAddr (respHeader k m.val x.index status body.length)
    let s := s.setMbx m { x with taken := none, status := if k.silent then x.status else BitVec.ofNat 8 status }
    if k.silent ∨ k.quiet then s
    else emitTo s k.evq { type := 0x0001, status := status, items := [(16, k.tag), (8, m.val), (16, x.index), (32, body.length)] }

/-- A refusal without a body. -/
def refuse (s : State) (m : Fin 8) (status : Nat) : State := finish s m status []

/-- Completes with a fixed body and entries, of which as many are written as fit (R410). -/
def finishList (s : State) (m : Fin 8) (fixed : Nat → List Byte) (entries : List (List Byte)) : State :=
  match (s.mbx m).taken with
  | none => s
  | some k =>
    let room := k.respLen - 16 - (fixed 0).length
    let fit := entries.foldl (fun (p : List Byte × Bool) e =>
      if p.2 && decide (p.1.length + e.length ≤ room) then (p.1 ++ e, true) else (p.1, false)) ([], true)
    finish s m stOk (fixed entries.length ++ fit.1)

/-! Event queues. -/

/-- `EVQ_ENABLE` (R398). -/
def execEvqEnable (q : Fin 4) (ctl : BitVec 64) (s : State) : Outcome := .next (evqCtlWrite s q.val (ctl ||| (1#64 <<< 63)).toNat)

/-- `EVQ_DISABLE` (R398). -/
def execEvqDisable (q : Fin 4) (ctl : BitVec 64) (s : State) : Outcome := .next (evqCtlWrite s q.val (ctl.toNat % 2 ^ 63))

/-- `EVQ_CONS_WRITE` (R400). -/
def execEvqConsWrite (q : Fin 4) (v : BitVec 32) (s : State) : Outcome := .next (evqConsWrite s q.val v)

/-- `MODERATION_TIMER` (R406). -/
def execModerationTimer (q : Fin 4) (s : State) : Outcome :=
  let x := s.evq q.val
  if x.mayRaise && x.timing then .next (raiseQueue s q.val) else .next s

/-! The link (R382). -/

/-- `HOST_LINK_RETRAIN`. -/
def execHostLinkRetrain (rate width : BitVec 8) (s : State) : Outcome :=
  let h := s.host
  let s := { s with host := { h with linkRate := rate, linkWidth := width } }
  if rate = h.trainedRate ∧ width = h.trainedWidth then .next s
  else
    let low := decide (rate.toNat < h.trainedRate.toNat ∨ width.toNat < h.trainedWidth.toNat)
    .next (emit s { type := 0x0005, severity := if low then 4 else 0, scope := if low then 5 else 0, items := [(8, rate.toNat), (8, width.toNat)] })

end Sys2Proof.Machine
end

