-- ==== Sys2Proof/Machine/TileMxu.lean ====
section
/-! DEFINITION. The end of an MXU instruction: comparison of checksums, write-back, re-execution, failure (R81 to R86). -/

namespace Sys2Proof.Machine

/-- The block is written back: the rows and columns it computed; a block executed again is reported (R85). -/
def mxuWriteBack (s : State) (t : Fin 192) (c : Fin 4) (pc : Word32) (f : MmaFields) (out : List (Nat × List Byte)) : State :=
  let y := s.tile t
  let s := popMxu (sramPuts s t out) t out
  let s := if y.mxuRuns = 0 then s
    else
      let m := y.mxuFirst.getD (0, 0)
      emit s (mxuCheckEv t c pc f.acc.val m.1 m.2 (y.mxuRuns + 1))
  afterComplete s t c

/-- One mismatch: counted; the third in a row declares the MXU failed, an earlier one executes the block again from the
same operands (R84, R86). -/
def mxuMismatch (s : State) (t : Fin 192) (row col : Nat) : State :=
  let s := count s (0x2000 + t.val)
  let y := s.tile t
  if 2 ≤ y.mxuRuns then mxuFail s t
  else s.setTile t { y with mxuRuns := y.mxuRuns + 1, mxuFirst := some (y.mxuFirst.getD (row, col)) }

/-- `MXU_BLOCK_CHECK` (R84): the instruction at the head of the MXU, once R64 lets it, is compared: an operand that is
an infinity or a NaN skips the comparison (R83), a pass writes back, a mismatch executes again. -/
def execMxuBlockCheck (t : Fin 192) (bad : Option (Fin 128 × Fin 128)) (s : State) : Outcome :=
  match (s.tile t).mxu with
  | .mma c pc o f a b m n k fwd :: _ =>
    if unitReady s t (.mma c pc o f a b m n k fwd) then
      let ab := mmaOperands s t f a b m n k
      let out := mmaResult s t f (mxuAhead (s.tile t)) ab
      if mmaUnchecked ab then .next (mxuWriteBack (count s (0x2100 + t.val)) t c pc f out)
      else match bad with
        | none => .next (mxuWriteBack s t c pc f out)
        | some (row, col) => .next (mxuMismatch s t row.val col.val)
    else .next s
  | _ => .next s

end Sys2Proof.Machine
end

