-- ==== Sys2Proof/Machine/Launch.lean ====
section
/-! DEFINITION. Launches: what an image uses, how a launch starts, stops, is pre-empted and restored (R73, R131 to R133,
R171, R216, R346, R347, R417, R418), and the commands that wait for it. -/

namespace Sys2Proof.Machine

/-! What an image uses (R131). -/

/-- Fields of an AEQ word: AE and AE context. -/
def wAeqAe (w : Nat) : Nat := bits w 95 91
def wAeqCtx (w : Nat) : Nat := bits w 90 89

/-- Words that some context of an image reaches. -/
def reachedWords (img : Nat) : List Nat := ((ctxEntries img).flatMap (fun c => reach img c.entry)).eraseDups

/-- AE contexts of an image, as e × 4 + c. -/
def imgAes (img : Nat) : List Nat :=
  ((secAll img 7).filterMap (fun e => if 0x8000 ≤ bits e.2 15 0 then some ((bits e.2 15 0 - 0x8000) * 4 + bits e.2 25 24) else none) ++
    (reachedWords img).filterMap (fun i => let w := codeWord img i; if wOp w = 0x42 then some (wAeqAe w * 4 + wAeqCtx w) else none)).eraseDups

/-- String channels of an image. -/
def imgChans (img : Nat) : List Nat := (secAll img 8).map (fun e => bits e.2 3 0)

/-- Tile contexts that a launch of a slot is bound to. -/
def slotCtxs (s : State) (n : Fin 16) : List (Fin 192 × Fin 4) :=
  (allTiles.flatMap (fun t => allCtx.map (fun c => (t, c)))).filter (fun p => (s.ctx p.1 p.2).slot == some n)

/-- Stream queues and AE contexts that a launch of a slot holds. -/
def slotQueues (s : State) (n : Fin 16) : List (Fin 256) := allQueues.filter (fun q => (s.queue q).owner == some n)
def slotAes (s : State) (n : Fin 16) : List (Fin 32 × Fin 4) :=
  (allAes.flatMap (fun e => allCtx.map (fun c => (e, c)))).filter (fun p => (s.aeCtx p.1 p.2).owner == some n)

/-! Commands that wait for a launch to be HALTED or to run (R413, R418). -/

/-- The launch of a slot is HALTED: no context is still to be saved.  FAULTED and EMPTY contexts stay as they are. -/
def launchSaved (s : State) (n : Fin 16) : Bool :=
  (slotCtxs s n).all (fun p => let x := s.ctx p.1 p.2
    x.pre == .none && (x.st == .halted || x.st == .faulted)) && (slotAes s n).all (fun p => !(s.aeCtx p.1 p.2).stopping)

/-- Every context of the launch has been restored. -/
def launchRestored (s : State) (n : Fin 16) : Bool :=
  (slotCtxs s n).all (fun p => let x := s.ctx p.1 p.2
    x.pre == .none && x.st != .halted)

def launchNumber (s : State) (n : Fin 16) : Nat := ((s.launch n).map (·.number.toNat)).getD 0

def setPhase (s : State) (n : Fin 16) (k : Fin 3) (halted : Bool) : State :=
  let x := s.slot n
  s.setSlot n { x with launch := x.launch.map (fun l => { l with phase := k, halted := halted }) }

/-- Completes the command of a mailbox that has waited for launches, if they have come to what it waits for: 0x0206 to run,
the others to be HALTED.  A launch that has been stopped meanwhile ends a wait of its own command with `ST_ABANDONED`. -/
def settleCmd (s : State) (m : Fin 8) : State :=
  match (s.mbx m).taken with
  | none => s
  | some k =>
    if k.waits.isEmpty then s
    else if k.op = 0x0102 then
      if k.waits.all (fun n => (s.launch n).all (fun l => l.halted && l.phase == 0)) then finish s m stOk (leBytes 4 k.waits.length) else s
    else
      match k.waits.head? with
      | none => s
      | some n =>
        match s.launch n with
        | none => finish s m stAbandoned []
        | some l => if l.phase = 0 ∧ ((k.op = 0x0205 ∧ l.halted) ∨ (k.op = 0x0206 ∧ !l.halted)) then finish s m stOk (leBytes 4 l.number.toNat) else s

def settleCmds (s : State) : State := s.forAll (List.finRange 8) settleCmd

/-- Notes that the launch has become HALTED or runs again, and completes what waited for it. -/
def settleLaunch (s : State) (n : Fin 16) : State :=
  match s.launch n with
  | none => settleCmds s
  | some l =>
    if l.phase = 1 ∧ launchSaved s n then settleCmds (setPhase s n 0 true)
    else if l.phase = 2 ∧ launchRestored s n then settleCmds (setPhase s n 0 false)
    else s

/-- After an event of a tile context or an AE context. -/
def settleAll (s : State) : State := s.forAll (allSlots.filter (fun n => (s.launch n).isSome)) settleLaunch

/-! Starting (R133). -/

/-- The bank an object is placed in: the one context whose bindings alone name it (R324), and its place among the
qualifying objects of that context; none where it stays at the die home. -/
def bankOf (img k : Nat) : Option (Nat × Nat) :=
  let e := secEntry img 6 k
  let bs := (secAll img 7).filter (fun b => bits b.2 63 48 == k)
  match bs with
  | [] => none
  | b :: _ =>
    let t := bits b.2 15 0
    let c := bits b.2 25 24
    if bits e 7 0 < 2 ∧ !bitAt e 32 ∧ t < 192 ∧ bits e 15 8 = t / 48 ∧ bs.all (fun f => bits f.2 15 0 == t && bits f.2 25 24 == c) then some (t, c) else none

/-- Object k lies in a tile-local bank: it is among the first 64 of its context. -/
def localBank (img k : Nat) : Option (Nat × Nat) :=
  match bankOf img k with
  | some p => if ((List.range k).filter (fun j => bankOf img j == some p)).length < 64 then some p else none
  | none => none

/-- An object as a launch initialises it (R108, R325). -/
def initObj (img : Nat) (n : Fin 16) (k : Nat) : SyncObj :=
  let e := secEntry img 6 k
  let b := localBank img k
  { value := BitVec.ofNat 64 (bits e 95 64), st := 0, full := bits e 7 0 == 1 && bitAt e 33, kind := Fin.ofNat 4 (bits e 7 0), hostVisible := bitAt e 32, tileLocal := b.isSome, tile := BitVec.ofNat 8 ((b.map (·.1)).getD 0), ctx := BitVec.ofNat 2 ((b.map (·.2)).getD 0), slot := n, index := BitVec.ofNat 16 k }

/-- Binds one context (R133 steps 2 and 3): x0 to x7, program counter and priority from its entry, all else 0. -/
def bindCtx (s : State) (n : Fin 16) (xs : List Word32) (e : CtxEntry) : State :=
  let t := Fin.ofNat 192 e.tile
  let c := Fin.ofNat 4 e.ctx
  let shapes := (List.range 8).foldl (fun (p : Tab Word32) j => tabPut 0 p j (xs.getD j 0)) []
  let s := s.setCtx t c { st := .ready, pc := BitVec.ofNat 32 e.entry, shapes := shapes, prio := BitVec.ofNat 2 e.prio, slot := some n }
  s.modTile t (fun y => if y.loaded = some c then { y with loaded := none } else y)

/-- Gives a queue to its context: outstanding_limit and owner from the queue entry, the other fields cleared (R162). -/
def bindQueue (s : State) (n : Fin 16) (e : QueueEntry) : State :=
  s.setQueue (Fin.ofNat 256 e.queue)
    { limit := BitVec.ofNat 16 e.limit, ownerTile := BitVec.ofNat 16 e.tile, ownerCtx := BitVec.ofNat 2 e.ctx, enable := true, owner := some n }

/-- Claims a String channel. -/
def bindChan (s : State) (n : Fin 16) (e : Nat) : State :=
  let k := bits e 3 0
  s.setChan k { (s.chan k) with slot := some n, tileMap := bits e 255 64, aeMap := bits e 63 32, latches := 0, abandoned := false, heldBehind := [] }

/-- An accepted launch (R133, R203): objects, queues, channels, AE contexts, contexts; then the window's first ranks are
marked pending. -/
def startLaunch (s : State) (n : Fin 16) (l : Launch) : State :=
  let img := (s.slot n).image
  let s := s.setSlot n { (s.slot n) with launch := some l }
  let s := s.forAll (List.range (secCount img 6)) (fun s k => s.setObj (objAddr img n k) (initObj img n k))
  let s := s.forAll (queueEntries img) (fun s e => bindQueue s n e)
  let s := s.forAll (secAll img 8) (fun s e => bindChan s n e.2)
  let s := s.forAll (imgAes img) (fun s i => s.setAeCtx (Fin.ofNat 32 (i / 4)) (Fin.ofNat 4 i) { owner := some n })
  let s := { s with blocks := s.blocks.filter (fun e => e.1 / 256 != n.val) }
  let s := { s with tiers := { s.tiers with drains := s.tiers.drains.filter (fun e => e.1 / 1024 != n.val), retired := s.tiers.retired.filter (fun p => p.1 != n) } }
  let s := { s with cmd := { s.cmd with ranges := if s.cmd.domains.contains l.domain then (s.cmd.ranges ++ (secAll img 3).map (fun (e : Nat × Nat) => (l.domain, bits e.2 15 0 * 2 ^ 23 + bits e.2 95 64, bits e.2 127 96))).eraseDups else s.cmd.ranges } }
  let s := s.forAll (ctxEntries img) (fun s e => bindCtx s n l.shapes e)
  let w := wpWindowOf img
  let s := s.forAll ((List.range w).flatMap (rankGrains img)) (fun s g => requestPromotion s g 0x3FF 1 4)
  s.forAll (((ctxEntries img).map (fun (e : CtxEntry) => Fin.ofNat 192 e.tile)).eraseDups) resched

/-! Stopping (R417). -/

/-- The state of an outcome. -/
def nextOf (s : State) (o : Outcome) : State :=
  match o with
  | .next t => t
  | _ => s

/-- The units of a tile complete the instructions of the contexts in l, in their order. -/
def drainUnits : Nat → State → Fin 192 → List (Fin 4) → State
  | 0, s, _, _ => s
  | f + 1, s, t, l =>
    let y := s.tile t
    if (y.mxu ++ y.vxu ++ y.sfu).any (fun o => l.contains o.ctx) then
      let s := nextOf s (execMxuBlockCheck t none s)
      let s := nextOf s (execUnitInstructionComplete t false s)
      drainUnits f (nextOf s (execUnitInstructionComplete t true s)) t l
    else s

/-- A context becomes EMPTY with its launch. -/
def emptyCtx (s : State) (t : Fin 192) (c : Fin 4) : State :=
  let s := leaveWalker (s.setCtx t c {}) (tileWalker t c)
  resched { s with saves := tabPut [] s.saves (ctxIx t c) [] } t

/-- The slot whose objects an address of a sync home belongs to (R323). -/
def homeSlot (a : Nat) : Nat := bits a 27 24

/-- The requests to a slot's objects that are on their way are applied, but for those of contexts that wait. -/
def flushReqs (s : State) (n : Fin 16) : State :=
  let mine := s.sync.reqs.filter (fun r => homeSlot r.obj == n.val)
  let s := { s with sync := { s.sync with reqs := s.sync.reqs.filter (fun r => homeSlot r.obj != n.val) } }
  s.forAll mine (fun s r =>
    match r.act with
    | .sigc _ _ k => let o := s.obj r.obj; if o.live && o.kind != 1 then changeCounter s r.obj (o.count + k) else s
    | .waitc _ _ _ => s
    | .take _ _ => s
    | .put _ _ _ => s
    | .faa _ _ _ => s
    | _ => applyReq s r)

/-- A pass waits on its done counter (Table 12.9): not every done event that it needs has been counted. -/
def passWaits (s : State) (b : Binding) (p : Pass) : Bool :=
  decide (doneOf s p < (if p.rotates then ((ringOf s b.ring).map (·.n)).getD 1 else 2))

/-- Waiters of a launch by the rows of Table 12.9 (R349; log entry 33). -/
def launchWaiters (s : State) (n : Fin 16) : Nat :=
  ((launchObjs s n).map (objWaiters s)).sum + ((launchChans s n).map (fun k => (chanWaiters s k).length)).sum +
    s.colls.active.countP (fun i => i.slot == n) +
    (s.rings.binds.filter (fun e => e.2.pass.any (fun p => p.slot == n && passWaits s e.2 p))).length

/-- A queue of a stopped launch: a transfer that takes a credit ends with `ST_ABANDONED` by R170, its context going EMPTY
with no fault (Table 12.9); any other is dropped. -/
def stopQueue (s : State) (q : Fin 256) : State :=
  let s := match (s.queue q).active with
    | some x =>
      if x.credit = CreditSt.waiting then emit (failQueue s q x) (streamFaultEv q (streamDesc s x.slot x.desc.toNat) x 0 stAbandoned)
      else abortQueue s q
    | none => abortQueue s q
  s.modQueue q (fun r => { r with enable := false, owner := none, fillMark := false })

/-- An AE context of a stopped launch: a descriptor that takes a credit ends with `ST_ABANDONED` by R217 (Table 12.9). -/
def stopAe (s : State) (e : Fin 32) (c : Fin 4) : State :=
  let x := s.aeCtx e c
  let s := dropAe s e c
  let s := match x.credit, x.queue with
    | .waiting, i :: _ => emit s (aeFaultEv e c i.desc.toNat 0xFF ((aeObj s e c i (adConsume (aeDesc s i.slot i.desc.toNat))).getD 0) stAbandoned)
    | _, _ => s
  s.setAeCtx e c { (s.aeCtx e c) with owner := none }

/-- Unbinds the launch of a slot (R417): units drain, transfers, small transfers, AE descriptors and waiting records are
dropped, credit takes withdrawn, objects and channels abandoned (Table 12.8), collective instances and passes ended. -/
def stopLaunch (s : State) (n : Fin 16) (trigger : Nat) : State :=
  let ctxs := slotCtxs s n
  let s := s.forAll ((ctxs.map (·.1)).eraseDups) (fun s t => drainUnits 64 s t ((ctxs.filter (fun p => p.1 == t)).map (·.2)))
  let s := { s with streams := { s.streams with smts := s.streams.smts.filter (fun m => m.slot != n) } }
  let s := { s with seqs := { s.seqs with records := s.seqs.records.filter (fun r => r.slot != n) } }
  let s := flushReqs s n
  let waiters := launchWaiters s n
  let s := s.forAll (slotQueues s n) stopQueue
  let s := s.forAll (slotAes s n) (fun s p => stopAe s p.1 p.2)
  let s := flushReqs s n
  let s := abandonLaunch s n trigger waiters
  let s := s.forAll ctxs (fun s p => emptyCtx s p.1 p.2)
  let s := abandonColls s n
  let s := s.forAll ((s.rings.binds.filter (fun e => e.2.pass.any (fun p => p.slot == n))).map (·.1)) (fun s b => endPass s b stAbandoned)
  let s := { s with streams := { s.streams with marks := s.streams.marks.filter (fun q => (s.queue q).fillMark) } }
  settleCmds (s.setSlot n { (s.slot n) with launch := none })

/-! Pre-emption (R73, R171, R216, R346). -/

/-- The sequencer stops the issue of a context: one that waits has its wait cancelled first. -/
def preemptCtx (s : State) (t : Fin 192) (c : Fin 4) : State :=
  let x := s.ctx t c
  if x.pre ≠ .none ∧ x.pre ≠ .restore then s
  else match x.st with
  | .empty => s
  | .faulted => s
  | .halted => s.setCtx t c { x with pre := .none }
  | .spinning => s.setCtx t c { x with pre := .cancel }
  | .parked => s.setCtx t c { x with pre := .cancel }
  | _ => s.setCtx t c { x with pre := .drain }

/-- A queue of a pre-empted context stops (R171): a take that waits is withdrawn; otherwise it halts at a request
boundary. -/
def preemptQueue (s : State) (q : Fin 256) : State :=
  match (s.queue q).active with
  | none => s
  | some x =>
    if x.credit = .waiting then
      (withdrawCredit s q x).modQueue q (fun r => { r with active := some { x with credit := .notTaken } })
    else settleHalt s q

def preemptLaunch (s : State) (n : Fin 16) : State :=
  let s := setPhase s n 1 ((s.launch n).any (·.halted))
  let s := s.forAll (slotCtxs s n) (fun s p => preemptCtx s p.1 p.2)
  let s := s.forAll (slotQueues s n) preemptQueue
  let s := s.forAll (slotAes s n) (fun s p =>
    let x := s.aeCtx p.1 p.2
    if x.queue.isEmpty || x.saved then s else s.setAeCtx p.1 p.2 { x with stopping := true })
  let s := holdLaunch s n true
  settleLaunch s n

/-- `WAIT_CANCEL_REPLY` (R346): granted, a TAKE's value is written and the context is past the instruction; cancelled, the
wait is removed at its home and kept with the context.  A String wait stays as it is. -/
def execWaitCancelReply (t : Fin 192) (c : Fin 4) (s : State) : Outcome :=
  let x := s.ctx t c
  if x.pre ≠ .cancel then .next s
  else
    let drain := fun (s : State) => s.modCtx t c (fun y => { y with pre := .drain })
    match x.wait with
    | some ⟨_, kind, some (.met v)⟩ =>
      let s := match kind with
        | .take sd => s.setCtx t c (x.setS sd v)
        | _ => s
      .next (drain (endWait s t c))
    | some ⟨_, .string _ _, none⟩ => .next (drain s)
    | some ⟨a, _, none⟩ =>
      let mine := fun (w : HomeWait) => match w with
        | .waitc t' c' _ => t' == t && c' == c
        | .take t' c' => t' == t && c' == c
        | .put t' c' _ => t' == t && c' == c
      let o := s.obj a
      let s := s.setObj a { o with waits := o.waits.filter (fun w => !mine w) }
      let s := { s with sync := { s.sync with reqs := s.sync.reqs.filter (fun r =>
        match r.act with
        | .waitc t' c' _ => !(t' == t && c' == c)
        | .take t' c' => !(t' == t && c' == c)
        | .put t' c' _ => !(t' == t && c' == c)
        | _ => true) } }
      .next (drain s)
    | none => .next (drain s)

/-- A context's queues have stopped: nothing in flight, and no withdrawal on its way. -/
def queuesStopped (s : State) (t : Fin 192) (c : Fin 4) : Bool :=
  (ownedQueues s t c).all (fun q => (s.queue q).active.all (fun x => x.inflight.isEmpty) &&
    !s.sync.reqs.any (fun r => match r.act with | .withdraw (.stream q' _) => q' == q | _ => false))

/-- `PREEMPT_DRAIN_DONE` (R73, R171): everything that the context issued has completed and its queues have stopped; its save
begins.  A context whose END had issued is EMPTY, one that faulted stays FAULTED. -/
def execPreemptDrainDone (t : Fin 192) (c : Fin 4) (s : State) : Outcome :=
  let x := s.ctx t c
  if x.pre = .drain && !outstanding s t c && queuesStopped s t c then
    if x.ending then .next (settleAll (settleCtx (s.setCtx t c { x with pre := .none }) t c))
    else if x.st = .faulted then .next (settleAll (s.setCtx t c { x with pre := .none }))
    else .next (s.setCtx t c { x with pre := .save })
  else .next s

/-- Buffer ranges that the plan gives a context on its own tile (R73, R106): offset and length. -/
def ctxRanges (s : State) (t : Fin 192) (c : Fin 4) : List (Nat × Nat) :=
  (secAll (ctxImage s (s.ctx t c)) 3).filterMap (fun e =>
    if bits e.2 15 0 = t.val ∧ bits e.2 23 16 = c.val then some (bits e.2 95 64, bits e.2 127 96) else none)

/-- Addresses of the tile-local objects of a context. -/
def localObjs (s : State) (t : Fin 192) (c : Fin 4) : List Nat :=
  (s.sync.objs.filter (fun e => e.2.tileLocal && e.2.live && e.2.tile.toNat == t.val && e.2.ctx.toNat == c.val && (s.ctx t c).slot == some e.2.slot)).map (·.1)

/-- `CONTEXT_SAVE_DONE` (R73, R347): the record, the tile-local objects and the SRAM ranges are saved; the context is
HALTED, and the tile holds its registers no longer. -/
def execContextSaveDone (t : Fin 192) (c : Fin 4) (s : State) : Outcome :=
  let x := s.ctx t c
  if x.pre ≠ .save then .next s
  else
    let s := { s with saves := tabPut [] s.saves (ctxIx t c) ((ctxRanges s t c).map (fun (r : Nat × Nat) => (r.1, s.sramRead t r.1 r.2))) }
    let s := s.forAll (localObjs s t c) (fun s a => s.setObj a { (s.obj a) with st := 1 })
    let s := s.setCtx t c { x with st := .halted, pre := .none }
    let s := s.modTile t (fun y => if y.loaded = some c then { y with loaded := none } else y)
    .next (settleAll (resched s t))

/-! Restoration (R73, R171, R347). -/

def resumeLaunch (s : State) (n : Fin 16) : State :=
  let s := setPhase s n 2 true
  let s := s.forAll (slotCtxs s n) (fun s p =>
    let x := s.ctx p.1 p.2
    if x.st = .halted then s.setCtx p.1 p.2 { x with pre := .restore } else s)
  let s := s.forAll (slotAes s n) (fun s p => aeRestore s p.1 p.2)
  settleLaunch (if launchRestored s n then holdLaunch s n false else s) n

/-- A queue of a restored context resumes: a credit not taken is taken afresh. -/
def resumeQueue (s : State) (q : Fin 256) : State :=
  match (s.queue q).active with
  | none => s
  | some x => if (s.queue q).state = 1 ∧ x.credit = .notTaken then takeCredit s q else nextOf s (execStreamResume q s)

/-- `CONTEXT_RESTORE_DONE` (R73, R346, R347): ranges, objects and record are back and the context is READY.  A cancelled
wait's instruction is issued again; a String wait keeps its recorded generation. -/
def execContextRestoreDone (t : Fin 192) (c : Fin 4) (s : State) : Outcome :=
  let x := s.ctx t c
  if x.pre ≠ .restore then .next s
  else
    let s := s.forAll (tabGet [] s.saves (ctxIx t c)) (fun s (r : Nat × List Byte) => s.sramWrite t r.1 r.2)
    let s := { s with saves := tabPut [] s.saves (ctxIx t c) [] }
    let s := s.forAll (localObjs s t c) (fun s a => s.setObj a { (s.obj a) with st := 0 })
    let wait := match x.wait with
      | some ⟨a, .string k g, r⟩ => some (Wait.mk a (.string k g) r)
      | _ => none
    let s := s.setCtx t c { x with st := .ready, pre := .none, wait := wait }
    let s := s.forAll (ownedQueues s t c) resumeQueue
    -- RESUME goes to the neighbours once every context of the launch is back (R297)
    let s := match x.slot with
      | some n => if launchRestored s n then holdLaunch s n false else s
      | none => s
    .next (settleAll (resched s t))

/-! Events of AE contexts after which a waiting command may complete. -/

/-- `AE_GROUP_CHECK` (R244). -/
def execAeGroupCheck (ae : Fin 32) (scores values adders : Bool) (s : State) : Outcome := .next (settleAll (aeGroupCheck ae scores values adders s))

/-- `AE_CONTEXT_SAVE` (R216). -/
def execAeContextSave (ae : Fin 32) (c : Fin 4) (s : State) : Outcome := .next (settleAll (aeContextSave ae c s))

/-! Halts (R363, R413). -/

/-- Acts on a halt number once: every running launch is pre-empted, or every launch stopped; answers the slots. -/
def haltOnce (s : State) (number : Word32) (stop : Bool) : State × List (Fin 16) :=
  if s.fabric.halts.contains number then (s, [])
  else
    let s := { s with fabric := { s.fabric with halts := s.fabric.halts ++ [number] } }
    let l := allSlots.filter (fun n => (s.launch n).any (fun l => stop || !l.halted || l.phase != 0))
    (s.forAll l (fun s n => if stop then stopLaunch s n 0 else preemptLaunch s n), l)

/-- Resumptions of a launch that a halt has overtaken end with `ST_ABANDONED`. -/
def endResumes (s : State) (l : List (Fin 16)) : State :=
  s.forAll (List.finRange 8) (fun s m =>
    match (s.mbx m).taken with
    | some k => if k.op = 0x0206 ∧ k.waits.any l.contains then finish s m stAbandoned [] else s
    | none => s)

end Sys2Proof.Machine
end

