-- ==== Sys2Proof/Machine/Net.lean ====
section
/-! DEFINITION. Fabric packets and timers (ch. 13): remote transfers, acknowledgements, credits, halts, notices, sessions,
lane and link loss, reachability. -/

namespace Sys2Proof.Machine

/-! Remote transfers that arrive (R355). -/

/-- `WRITE` (R355, R360, R362): written and acknowledged; one whose grain is held stays in the receive buffer, a refused one
is denied. -/
def execWrite (p : PktHdr) (payload : List Byte) (s : State) : Outcome :=
  let r := admitPacket s p 0
  let w := if r.2 then takeWrite r.1 p payload else r
  .next (if w.2 then holdIn w.1 (.write p payload) else returnCredit w.1 p payload.length)

/-- `SIGNAL` (R355, R360). -/
def execSignal (p : PktHdr) (s : State) : Outcome :=
  let r := ingress s p 1
  if !r.2 then .next r.1
  else
    let s := r.1
    if completed s p then .next (ackSignal (count s 0x1400) p.src p.xfer)
    else
      let i := { inXfer s p with signal := some (p.address.toNat, p.domain, p.aux.toNat % 2 ^ 24) }
      .next (settleIn (setInXfer s i) i)

/-- `ACK_FLUSH` (R355): what is held back for a source is sent. -/
def execAckFlush (src : BitVec 12) (s : State) : Outcome :=
  let l := s.fabric.acks.filter (fun e => e.src == src)
  let s := { s with fabric := { s.fabric with acks := s.fabric.acks.filter (fun e => e.src != src) } }
  .next (s.forAll l sendAck)

/-! Sending remote transfers (R355). -/

/-- The queue whose active transfer to module d has the number given. -/
def queueOf (s : State) (d : Nat) (xfer : BitVec 16) : Option (Fin 256) :=
  allQueues.find? (fun q => (s.queue q).active.any (fun x => x.remote == some xfer && sdModule (streamDesc s x.slot x.desc.toNat) == d))

/-- A packet of a queue's transfer has been acknowledged. -/
def packetDone (s : State) (q : Fin 256) (index : Nat) : State :=
  match (s.queue q).active with
  | none => s
  | some x =>
    match x.inflight.find? (fun r => r.packets.contains index) with
    | some r =>
      let r' := { r with packets := r.packets.erase index }
      let s := s.modQueue q (fun w => { w with active := w.active.map (fun y => { y with inflight := y.inflight.map (fun i => if i = r then r' else i) }) })
      if r'.packets.isEmpty then requestDone s q r' else s
    | none => s

/-- `ACK` (R355): acknowledged packets are released; an acknowledged SIGNAL ends the transfer. -/
def execAck (p : PktHdr) (s : State) : Outcome :=
  let r := ingress s p 2
  if !r.2 then .next r.1
  else
    let s := r.1
    let n := p.aux.toNat % 2 ^ 24
    let sig := p.aux.getLsbD 24
    let lo := p.index.toNat
    let mine := fun (e : Sent) => e.packet.dst == p.src && e.packet.xfer == p.xfer &&
      (sig || (e.packet.kind == 0 && decide (lo ≤ e.packet.index) && decide (e.packet.index < lo + n)))
    let acked := s.fabric.sent.filter mine
    let gone := fun (k : Packet) => (k.kind == 0 || k.kind == 1) && acked.any (fun e => e.packet.kind == k.kind && e.packet.dst == k.dst && e.packet.xfer == k.xfer && e.packet.index == k.index)
    let s := { s with fabric := { s.fabric with sent := s.fabric.sent.filter (fun e => !mine e), waiting := s.fabric.waiting.filter (fun k => !gone k) } }
    match queueOf s p.src.toNat p.xfer with
    | none => .next s
    | some q =>
      let s := s.forAll (acked.filter (fun e => e.packet.kind == 0)) (fun s e => packetDone s q e.packet.index)
      if sig then
        let s := s.modQueue q (fun r => { r with active := r.active.map (fun x => { x with remote := none }) })
        .next (settleHalt (checkComplete s q) q)
      else .next (settleHalt s q)

/-- `DENY` (R360): the transfer ends with the status. -/
def execDeny (p : PktHdr) (s : State) : Outcome :=
  let r := ingress s p 3
  if !r.2 then .next r.1
  else
    let s := r.1
    match queueOf s p.src.toNat p.xfer with
    | none => .next s
    | some q =>
      let a := ((s.fabric.sent.find? (fun e => e.packet.dst == p.src && e.packet.xfer == p.xfer && e.packet.index == p.index.toNat)).map (·.packet.address)).getD 0
      .next (endXfer s q a (p.aux.toNat % 256))

/-- `PACKET_RESEND_TIMER` (R355): the packet goes again on the next plane. -/
def execPacketResendTimer (dst : BitVec 12) (xfer : BitVec 16) (index : BitVec 24) (s : State) : Outcome :=
  match s.fabric.sent.find? (fun e => e.packet.dst == dst && e.packet.xfer == xfer && e.packet.index == index.toNat) with
  | some e => .next (resend s e)
  | none => .next s

/-! Credits (R361, R362, R364). -/

/-- Credits returned to a port: a data class first fills its own part, then the shared one. -/
def Port.give (p : Port) (cls n : Nat) : Port :=
  if cls = 0 then { p with data0 := min 128 (p.data0 + n), shared := min 1152 (p.shared + (p.data0 + n - 128)), stalled := p.stalled &&& 2 }
  else if cls = 1 then { p with data1 := min 128 (p.data1 + n), shared := min 1152 (p.shared + (p.data1 + n - 128)), stalled := p.stalled &&& 1 }
  else { p with ctl := min 128 (p.ctl + n) }

/-- `CREDIT_RETURN` (R362). -/
def execCreditReturn (port : Fin 8) (cls : Fin 3) (n : Nat) (s : State) : Outcome :=
  .next (flush (s.setPort port.val ((s.port port.val).give cls.val n)))

/-- `CREDIT_STALL_TIMER` (R364): reported once for a stall. -/
def execCreditStallTimer (port : Fin 8) (cls : Fin 2) (s : State) : Outcome :=
  let x := s.port port.val
  let waits := s.fabric.waiting.any (fun k => k.cls.val == cls.val && (effSet s k.dst.toNat).contains port.val && decide (x.free cls.val < k.units))
  if waits && !x.stalled.getLsbD cls.val then
    .next (emit (s.setPort port.val { x with stalled := x.stalled ||| (1#2 <<< cls.val) }) { type := 0x4002, severity := 2, scope := 6, items := [(8, port.val), (8, cls.val)] })
  else .next s

/-! Halts (R363, R413). -/

/-- `HALT` (R363): the mode is carried with the number. -/
def execHalt (p : PktHdr) (stop : Bool) (s : State) : Outcome :=
  let r := ingress s p 7
  if !r.2 then .next r.1
  else
    let h := haltOnce r.1 (p.aux.truncate 32) stop
    .next (settleCmds (endResumes h.1 h.2))

/-! Reachability (R359, R380). -/

/-- A destination is unreachable: reported once, its remote transfers end, its rings are told. -/
def makeUnreachable (s : State) (d : Nat) : State :=
  let id := BitVec.ofNat 12 d
  if s.fabric.unreachable.contains id then s
  else
    let s := emit { s with fabric := { s.fabric with unreachable := s.fabric.unreachable ++ [id] } } (unreachableEv d false)
    let hit := allQueues.filter (fun q => (s.queue q).active.any (fun x => x.remote.isSome && sdModule (streamDesc s x.slot x.desc.toNat) == d))
    let s := s.forAll hit (fun s q =>
      match (s.queue q).active with
      | some x => endXfer s q (xBaseDst (streamDesc s x.slot x.desc.toNat) x) stAbandoned
      | none => s)
    ringUnreachable s d

/-- Everyone the module sends to by its table: the other members, and the master and backup. -/
def peers (s : State) : List Nat :=
  let self := moduleId s
  ((otherMembers s ++ (s.fabric.route.toList.flatMap (fun r => [r.master.toNat, r.backup.toNat]))).filter (· != self)).eraseDups

/-- Peers whose effective set has become empty are unreachable. -/
def loseEmpty (s : State) : State := s.forAll ((peers s).filter (fun d => (possibleSet s d).isEmpty)) makeUnreachable

/-- Chunks and packets under way to a destination on a plane go again; the engines are told (R298, R318, R378, R379). -/
def planeLost (s : State) (plane : Nat) (dst : BitVec 12 → Bool) : State :=
  let s := s.forAll (s.fabric.sent.filter (fun e => e.packet.plane.val == plane && e.tried != 0 && dst e.packet.dst)) resend
  collPlaneLost (ringPlaneLost s plane dst) plane dst

/-- `NOTICE_DOWN` (R379, R380). -/
def execNoticeDown (p : PktHdr) (s : State) : Outcome :=
  let r := ingress s p 8
  if !r.2 then .next r.1
  else
    let s := r.1
    let k := p.aux.toNat % 8
    let d := p.src.toNat
    let s := { s with fabric := { s.fabric with reported := tabPut 0 s.fabric.reported d (tabGet 0 s.fabric.reported d ||| (1#8 <<< k)) } }
    let s := planeLost s k (· == p.src)
    .next (if (possibleSet s d).isEmpty then makeUnreachable s d else s)

/-- `NOTICE_UP` (R379). -/
def execNoticeUp (p : PktHdr) (s : State) : Outcome :=
  let r := ingress s p 8
  if !r.2 then .next r.1
  else
    let s := r.1
    let d := p.src.toNat
    .next (flush { s with fabric := { s.fabric with reported := tabPut 0 s.fabric.reported d (tabGet 0 s.fabric.reported d &&& ~~~(1#8 <<< (p.aux.toNat % 8))) } })

/-- Chunks of rings and collectives that a destination has not acknowledged. -/
def chunksTo (s : State) (d : BitVec 12) : Bool :=
  s.rings.binds.any (fun e => e.2.pass.any (fun p => p.unacked.any (fun u => u.dst == d))) ||
  s.colls.active.any (fun i => i.unacked.any (fun u => BitVec.ofNat 12 ((s.group i.group).id u.part.peer) == d))

/-- `UNREACHABLE_TIMER` (R380): 1 ms without an acknowledgement while packets are outstanding; a WRITE or SIGNAL must have
been tried on every plane of the effective set. -/
def execUnreachableTimer (dst : BitVec 12) (s : State) : Outcome :=
  let tried := s.fabric.sent.any (fun e => e.packet.dst == dst && (effSet s dst.toNat).all (fun p => e.tried.getLsbD p))
  if tried || chunksTo s dst then .next (makeUnreachable s dst.toNat) else .next s

/-! Sessions (R374 to R376). -/

/-- A side accepts the session: a member of its configuration; for TIME packets alone also a master or backup, or anyone
where the side is one itself. -/
def sessionOk (s : State) (p : PktHdr) (m : SessionMsg) : Bool :=
  let d := p.src.toNat
  let self := moduleId s
  m.verified && ((s.fabric.route.any (fun r => r.configId == m.configId) && isMember s d) ||
    (m.timeOnly && (isMaster s d || isBackup s d || isMaster s self || isBackup s self)))

/-- A refused handshake: reported, and what waits on the session ends as for an empty effective set (R359, R374). -/
def refuseSession (s : State) (d : Nat) : State :=
  let s := sealFail (endSession s d) d
  let gone := fun (k : Packet) => k.dst.toNat == d && k.seals s
  let hit := allQueues.filter (fun q => (s.queue q).active.any (fun x => x.remote.isSome && sdModule (streamDesc s x.slot x.desc.toNat) == d) &&
    s.fabric.waiting.any (fun k => gone k && (k.kind == 0 || k.kind == 1) && (s.queue q).active.any (fun x => x.remote == some k.xfer)))
  let s := s.forAll hit (fun s q =>
    match (s.queue q).active with
    | some x => endXfer s q (xBaseDst (streamDesc s x.slot x.desc.toNat) x) stAbandoned
    | none => s)
  { s with fabric := { s.fabric with waiting := s.fabric.waiting.filter (fun k => !gone k) } }

/-- The session opens, or takes new keys, under a generation; the keys of the two directions come from the module's own
ephemeral key and the peer's; the window starts afresh and the generation before it is still accepted. -/
def openKeys (x : Session) (m : SessionMsg) : Session :=
  { x with st := 2, timeOnly := m.timeOnly, gen := m.gen, sendCtr := 0, high := 0, seen := [], oldOk := x.st == 2 && x.gen + 1 == m.gen, oldHigh := x.high, oldSeen := x.seen, newSeen := false, rekey := false, fails := [], keyOut := Config.sessionKey x.eph m.share true, keyIn := Config.sessionKey x.eph m.share false }

/-- `SESSION` (R374): the first message is answered under a fresh ephemeral key, the answer completes the handshake. -/
def execSession (p : PktHdr) (msg : SessionMsg) (s : State) : Outcome :=
  let r := ingress s p 9
  if !r.2 then .next r.1
  else
    let s := r.1
    let d := p.src.toNat
    let x := s.sess d
    if msg.answer && !(x.st == 1 || (x.st == 2 && x.rekey)) then .next s
    else if !sessionOk s p msg then .next (refuseSession s d)
    else
      let s := if msg.answer then s
        else queuePacket (s.bump.setSess d { x with eph := s.free }) (sessionPacket s d 1 msg.gen s.free)
      .next (flush (s.setSess d (openKeys (s.sess d) msg)))

/-- `SESSION_REKEY_TIMER` (R376): a new handshake runs while the keys stay in use. -/
def execSessionRekeyTimer (peer : BitVec 12) (s : State) : Outcome :=
  let d := peer.toNat
  let x := s.sess d
  if x.st = 2 ∧ !x.rekey then
    .next (queuePacket (s.bump.setSess d { x with rekey := true, eph := s.free }) (sessionPacket s d 0 (x.gen + 1) s.free))
  else .next s

/-- `OLD_KEY_EXPIRY` (R376). -/
def execOldKeyExpiry (peer : BitVec 12) (s : State) : Outcome :=
  let x := s.sess peer.toNat
  if x.newSeen then .next (s.setSess peer.toNat { x with oldOk := false, oldHigh := 0, oldSeen := [] }) else .next s

/-! Lane and link loss (R11, R13, R352, R377, R378, R480). -/

/-- `FRAME_CRC_FAIL` (R352). -/
def execFrameCrcFail (port : Fin 8) (s : State) : Outcome := .next (count s (0x2C00 + port.val))

/-- A port goes down (R378). -/
def portGoesDown (s : State) (port : Nat) : State :=
  let s := s.setPort port { (s.port port) with st := 2, width := 0 }
  let s := s.forAll ((peers s).filter (fun d => !(possibleSet s d).isEmpty)) (fun s d => sendControl s 8 d 0x3FF 0 0 0 (8 + port) [])
  let s := emit s { type := 0x4007, severity := 4, scope := 5, items := [(8, port)] }
  loseEmpty (flush (planeLost s port (fun _ => true)))

/-- `PORT_DOWN` (R378). -/
def execPortDown (port : Fin 8) (s : State) : Outcome :=
  if (s.port port.val).st = 2 then .next s else .next (portGoesDown s port.val)


/-- The widest width that the working lanes allow, coded as in Table 14.6: ×2 is lanes 0 and 1, or 2 and 3 (Table 13.1). -/
def widthOf (failed : BitVec 4) : Fin 4 :=
  let up := fun (i : Nat) => !failed.getLsbD i
  if failed = 0 then 3 else if up 0 && up 1 || up 2 && up 3 then 2 else if failed = 15 then 0 else 1

/-- `LANE_FAILURE` (R377, R378): the port retrains; with no lane left it is down. -/
def execLaneFailure (port : Fin 8) (lanes : BitVec 4) (s : State) : Outcome :=
  let x := s.port port.val
  if x.st = 2 then .next s
  else
    let f := x.failed ||| lanes
    let s := s.setPort port.val { x with failed := f, st := 1 }
    if f = 15 then .next (portGoesDown s port.val) else .next (flush s)

/-- `PORT_RETRAIN_DONE` (R377). -/
def execPortRetrainDone (port : Fin 8) (s : State) : Outcome :=
  let x := s.port port.val
  if x.st = 1 then
    let w := widthOf x.failed
    let s := count (s.setPort port.val { x with st := 0, width := w }) 0x1900
    .next (flush (emit s { type := 0x4006, severity := 4, scope := 5, items := [(8, port.val), (8, x.width.val), (8, w.val), (8, x.failed.toNat)] }))
  else .next s

/-- A module fault (R480): launches stop, the ports go down without NOTICE, the module is FAILED, the event is written.
The status in its syndrome is a free value (log entry 98). -/
def moduleFault (s : State) (unit cause detail : Nat) : State :=
  let s := s.forAll (allSlots.filter (fun n => (s.launch n).isSome)) (fun s n => stopLaunch s n 0)
  let s := s.forAll (List.range 8) (fun s p => s.setPort p { (s.port p) with st := 2, width := 0 })
  let s := { s with cmd := { s.cmd with module := 3 } }
  emit s.bump { type := 0x6005, severity := 5, scope := 6, items := [(64, syndrome unit cause (s.freeVal % 256) detail)] }

/-- `FLIT_CRC_FAIL` (R11, R13): the flit is replayed; the eighth replay in succession that fails declares the link down.  Its
failure moves the counter once more (DESIGN CHOICE, log entry 98). -/
def execFlitCrcFail (link : Fin 10) (replayed : Bool) (s : State) : Outcome :=
  let n := if replayed then tabGet 0 s.fabric.flitFails link.val + 1 else 0
  let s := count { s with fabric := { s.fabric with flitFails := tabPut 0 s.fabric.flitFails link.val n } } (0x2B00 + link.val)
  if n = 8 then .next (moduleFault s 7 1 link.val) else .next s

end Sys2Proof.Machine
end

