-- ==== Sys2Proof/Machine/FabTime.lean ====
section
/-! DEFINITION. Fabric time (R365 to R372): exchanges with the source, the servo, states, and who serves. -/

namespace Sys2Proof.Machine

def State.modTime (s : State) (f : TimeUnit → TimeUnit) : State := { s with time := f s.time }

/-- One TCLK cycle adds the rate word (R365). -/
def tick (s : State) : State :=
  let v := s.time.now.toNat * 2 ^ 32 + s.time.frac.toNat + s.time.rate
  s.modTime (fun t => { t with now := BitVec.ofNat 64 (v / 2 ^ 32), frac := BitVec.ofNat 32 v })

/-! Sources (R366, R371). -/

def selfMaster (s : State) : Bool := isMaster s (moduleId s)
def selfBackup (s : State) : Bool := isBackup s (moduleId s)

/-- The module that this one exchanges with: the backup for the master itself and for a follower of the backup. -/
def timeSource (s : State) : Option Nat :=
  s.fabric.route.map (fun r => if selfMaster s || (s.time.followBackup && !selfBackup s) then r.backup.toNat else r.master.toNat)

/-- The source a state event names: the module itself while it serves. -/
def sourceItem (s : State) : Nat := if s.time.serving then moduleId s else (timeSource s).getD 0xFFF

/-- `EV_TIME_STATE` (R368). -/
def timeEvent (s : State) (old new : TimeSt) : State :=
  let lock := new == .locked
  emit s { type := 0x4003, severity := if lock then 0 else 2, scope := if lock then 0 else 6, items := [(8, old.code), (8, new.code), (16, sourceItem s), (64, (s.time.lastTheta % 2 ^ 64).toNat)] }

def nominalRate : Nat := 10 * 2 ^ 32

/-- The most that the rate word may differ from nominal, at a limit in parts per million (R365). -/
def rateLimit (ppm : Nat) : Nat := nominalRate * ppm / 1000000

/-- A change of state is reported; LOCKED holds the rate word within ±50 ppm (R365). -/
def setTimeSt (s : State) (st : TimeSt) : State :=
  let old := s.time.st
  if old = st then s
  else
    let rate := fun (r : Nat) => if st = .locked then max (nominalRate - rateLimit 50) (min (nominalRate + rateLimit 50) r) else r
    timeEvent (s.modTime (fun t => { t with st := st, good := 0, everLocked := t.everLocked || st == .locked, rate := rate t.rate })) old st

/-- The step period becomes 2^n ns: only in FREE or ACQUIRING, and reported if it differs (R372). -/
def setStep (s : State) (n : Nat) : State :=
  if s.time.st = .free ∨ s.time.st = .acquiring then
    let changed := stepLog2 s != n
    let s := s.modTime (fun t => { t with step := some n })
    if changed then timeEvent s s.time.st s.time.st else s
  else s

/-- The module begins to serve from its own time: it is LOCKED, under the period of the first table since reset unless its
period is in use (R368, R371, R372).  A module that may not become LOCKED again does not serve (DESIGN CHOICE, log entry 54). -/
def serveTime (s : State) : State :=
  if s.time.stuck then s
  else
  let s := setStep s (s.time.firstStep.getD (stepLog2 s))
  setTimeSt (s.modTime (fun t => { t with serving := true, startup := false, followBackup := false })) .locked

/-! Exchanges. -/

/-- Sends a TIME request to a module on the plane in turn of its entry, past planes outside its effective set; it takes t1 as
it leaves. -/
def timeRequestTo (s : State) (d : Nat) : State :=
  let k : Packet := { kind := 6, dst := BitVec.ofNat 12 d, cls := 2, domain := 0x3FF, turn := some s.time.nextPlane, items := [(64, 0)] }
  match planeFor s k with
  | none => s
  | some p => sendPacket (s.modTime (fun t => { t with nextPlane := Fin.ofNat 8 (p + 1) })) k

/-- `TIME_EXCHANGE_TIMER` (R366, R371): followers, the master that looks for its backup, and a backup that serves and looks
for the master. -/
def execTimeExchangeTimer (s : State) : Outcome :=
  match timeSource s with
  | none => .next s
  | some d => if d = moduleId s ∨ (s.time.serving ∧ selfMaster s) then .next s else .next (timeRequestTo s d)

/-- `TIME_REQUEST` (R367, R370): a serving source replies with t2, and t3 as the reply leaves, its state, role and period. -/
def execTimeRequest (p : PktHdr) (t1 : Nat) (s : State) : Outcome :=
  let r := ingress s p 6
  if !r.2 then .next r.1
  else
    let s := r.1
    if !s.time.serving then .next (count s 0x1600)
    else
      let now := s.time.now.toNat
      .next (sendPacket s { kind := 6, dst := p.src, cls := 2, domain := 0x3FF, aux := 1, items := [(64, t1), (64, now), (64, now), (8, s.time.st.code), (8, 1), (8, stepLog2 s)] })

/-- The median of a list of offsets: the lower one of an even number. -/
def medianOf (l : List Int) : Int := (sortBy (fun a b => decide (a ≤ b)) l).getD ((l.length - 1) / 2) 0

/-- The rate word that removes an offset within ±ppm: how much of the limit the servo uses is free (R365, R367), but in LOCKED
(`fast`) the offset is gone within 2 ms where the limit allows it. -/
def servoRate (s : State) (theta : Int) (ppm : Nat) (fast : Bool) : State :=
  let lo := if fast then min (rateLimit ppm) (cdiv (nominalRate * theta.natAbs) 2000000) else 1
  let d := lo + s.freeVal % (rateLimit ppm - lo + 1)
  (s.bump).modTime (fun t => { t with rate := if theta = 0 then nominalRate else if 0 < theta then nominalRate + d else nominalRate - d })

/-- Offset and path delay of an exchange (R367). -/
def exTheta (r : TimeReply) : Int := (((r.t2 : Int) - r.t1 - r.corrQ) - ((r.t4 : Int) - r.t3 - r.corrR)) / 2
def exDelay (r : TimeReply) : Int := (((r.t2 : Int) - r.t1 - r.corrQ) + ((r.t4 : Int) - r.t3 - r.corrR)) / 2

/-- An exchange is rejected if its delay passes the least of the last 64 by more than 50 ns. -/
def exRejected (s : State) (r : TimeReply) : Bool := s.time.delays.any (fun d => decide (d + 50 < exDelay r))

/-- An offset below −1 ms: the module slews at −50 ps per ns and is not LOCKED again before a reset (R368). -/
def slewBack (s : State) : State :=
  let was := s.time.stuck
  let s := s.modTime (fun t => { t with stuck := true, good := 0, rate := nominalRate - rateLimit 50000 })
  if was then s else emit s { type := 0x4004, severity := 4, scope := 6, items := [(64, (s.time.lastTheta % 2 ^ 64).toNat)] }

/-- An exchange in ACQUIRING; a module that has met a large negative offset goes on removing offsets and is not LOCKED. -/
def acquire (s : State) (theta : Int) : State :=
  if theta < -1000000 then slewBack s
  else if 1000 < theta then
    servoRate (s.modTime (fun t => { t with now := t.now + BitVec.ofNat 64 theta.toNat, thetas := [], good := 0 })) 0 50000 false
  else
    let good := if theta.natAbs ≤ 10 then s.time.good + 1 else 0
    let s := servoRate (s.modTime (fun t => { t with good := good })) (medianOf s.time.thetas) 50000 false
    if 64 ≤ good ∧ !s.time.stuck then setTimeSt s .locked else s

/-- What an accepted exchange does in each state (Table 13.7). -/
def useExchange (s : State) (theta : Int) : State :=
  match s.time.st with
  | .free => acquire (setTimeSt s .acquiring) theta
  | .acquiring => acquire s theta
  | .locked => servoRate s (medianOf s.time.thetas) 50 true
  | .holdover => if theta.natAbs ≤ 10 then servoRate (setTimeSt s .locked) (medianOf s.time.thetas) 50 true else s

/-- A reply of the source that the module follows. -/
def followReply (s : State) (r : TimeReply) : State :=
  let s := if s.time.st = .free then setTimeSt s .acquiring else s
  let s := setStep s r.stepLog2.val
  let bad := exRejected s r
  let s := s.modTime (fun t => { t with delays := (exDelay r :: t.delays).take 64 })
  if bad then s
  else
    let th := exTheta r
    useExchange (s.modTime (fun t => { t with thetas := (th :: t.thetas).take 8, lastTheta := th })) th

/-- `TIME_REPLY` (R366 to R368, R371, R372). -/
def execTimeReply (p : PktHdr) (r : TimeReply) (s : State) : Outcome :=
  let g := ingress s p 6
  if !g.2 then .next g.1
  else
    let s := g.1
    let d := p.src.toNat
    if !r.isSource then .next s
    else if selfMaster s then
      if s.time.serving || !isBackup s d then .next s
      else
        let s := followReply (s.modTime (fun t => { t with startup := false })) r
        .next (if s.time.st = .locked then serveTime s else s)
    else if isMaster s d then .next (followReply (s.modTime (fun t => { t with serving := false, followBackup := false })) r)
    else if isBackup s d && s.time.followBackup then .next (followReply s r)
    else .next s

/-! Timers. -/

/-- `HOLDOVER_TIMER` (Table 13.7): 1 ms without a reply; the rate word is frozen. -/
def execHoldoverTimer (s : State) : Outcome :=
  if s.time.st = .locked ∧ !s.time.serving then .next (setTimeSt s .holdover) else .next s

/-- `HOLDOVER_EXPIRY` (Table 13.7). -/
def execHoldoverExpiry (s : State) : Outcome := if s.time.st = .holdover then .next (setTimeSt s .free) else .next s

/-- `BACKUP_TAKEOVER` (R371): a backup that has been LOCKED serves from its own time; a follower in HOLDOVER turns to the
backup. -/
def execBackupTakeover (s : State) : Outcome :=
  if selfMaster s || s.time.serving then .next s
  else if selfBackup s then
    if s.time.everLocked then .next (serveTime s) else .next s
  else if s.time.st = .holdover then .next (s.modTime (fun t => { t with followBackup := true })) else .next s

/-- `MASTER_PROBE_TIMER` (R371). -/
def execMasterProbeTimer (s : State) : Outcome :=
  match s.fabric.route with
  | some r => if s.time.followBackup then .next (timeRequestTo s r.master.toNat) else .next s
  | none => .next s

/-- `MASTER_STARTUP_TIMER` (R371): no answer from the backup. -/
def execMasterStartupTimer (s : State) : Outcome :=
  if selfMaster s && s.time.startup && !s.time.serving then .next (serveTime s) else .next s

end Sys2Proof.Machine
end

