-- ==== Sys2Proof/Machine/Power.lean ====
section
/-! DEFINITION. The power controller (R21 to R27, R505) and the module faults of a die and of the root PLL (R480). -/

namespace Sys2Proof.Machine

/-! Limits of the issue rate, in sixteenths of full rate (R25). -/

def State.dieRate (s : State) (d : Nat) : Nat := (tabGet (16 : Fin 32) s.power.dieRate d).val
def State.thermRate (s : State) (d : Nat) : Nat := (tabGet (16 : Fin 32) s.power.thermRate d).val

/-- The limits of a die, each behind its cause code of Table 1.9, in ascending code. -/
def rateLimits (s : State) (d : Nat) : List (Nat × Nat) :=
  [(if s.power.peak then 1 else 0, s.power.moduleRate.val), (2, s.dieRate d), (3, s.thermRate d), (4, if s.power.recal.getLsbD d then 12 else 16)]

/-- The rate at which a die issues, and the cause of the limit that sets it, the lowest code among equals. -/
def issueRate (s : State) (d : Nat) : Nat := ((rateLimits s d).map (·.2)).foldl min 16
def rateCause (s : State) (d : Nat) : Nat := (((rateLimits s d).find? (fun e => e.2 == issueRate s d)).map (·.1)).getD 0

/-- A die's change that R27 reports: it falls below full, returns to full, or another limit sets it. -/
def rateReports (s s' : State) (d : Nat) : Bool :=
  let a := issueRate s d
  let b := issueRate s' d
  (a == 16) != (b == 16) || (b != 16 && rateCause s d != rateCause s' d)

def throttleEv (s : State) (die d : Nat) (down : Bool) : Ev :=
  { type := 0x5001, severity := if down then 2 else 0, scope := if down then 6 else 0, items := [(8, die), (8, issueRate s d), (8, rateCause s d)] }

/-- Applies a change of the limits and reports it (R27); steps down are counted.  Passes see that the rate was held. -/
def changeRates (s : State) (f : Power → Power) (downs : Nat) : State :=
  let s' := countN { s with power := f s.power } 0x0100 downs
  let s' := if rateHeld s' then s'.modPasses (fun _ => true) (fun p => { p with throttled := true }) else s'
  let l := (List.range 4).filter (rateReports s s')
  let same := l.all (fun d => issueRate s' d == issueRate s' 0 && rateCause s' d == rateCause s' 0)
  if l.length = 4 ∧ same ∧ s.power.moduleRate ≠ s'.power.moduleRate then emit s' (throttleEv s' 0xFF 0 (decide (0 < downs)))
  else s'.forAll l (fun s d => emit s (throttleEv s d d (decide (0 < downs))))

/-- One step of 1/16 down or up. -/
def rateDown (r : Fin 32) : Fin 32 := Fin.ofNat 32 (r.val - 1)
def rateUp (r : Fin 32) : Fin 32 := Fin.ofNat 32 (min 16 (r.val + 1))

/-! The module rate (R21 to R23). -/

/-- `POWER_MEASURE` (R21, R22). -/
def execPowerMeasure (watts : Nat) (s : State) : Outcome :=
  let s := { s with power := { s.power with watts := watts } }
  if 2900 < watts ∧ 8 < s.power.moduleRate.val then .next (changeRates s (fun p => { p with moduleRate := 8, peak := true }) 1)
  else .next s

/-- `MODULE_RATE_DOWN` (R21).  R21 and R24 name no lowest rate: the model stops at 0/16 (DESIGN CHOICE, log entry 79). -/
def execModuleRateDown (s : State) : Outcome :=
  if 2500 < s.power.watts ∧ 0 < s.power.moduleRate.val then
    .next (changeRates s (fun p => { p with moduleRate := rateDown p.moduleRate, peak := false }) 1)
  else .next s

/-- `MODULE_RATE_UP` (R23). -/
def execModuleRateUp (s : State) : Outcome :=
  if s.power.watts < 2400 ∧ s.power.moduleRate.val < 16 then
    .next (changeRates s (fun p => { p with moduleRate := rateUp p.moduleRate, peak := p.peak && decide (p.moduleRate.val < 15) }) 0)
  else .next s

/-! The rates of one die (R24, R505). -/

def setRate (t : Tab (Fin 32)) (d : Fin 4) (f : Fin 32 → Fin 32) : Tab (Fin 32) := tabPut 16 t d.val (f (tabGet 16 t d.val))

/-- The power of a die's own rail as last measured. -/
def noteRail (s : State) (die : Fin 4) (watts : Nat) : State := { s with power := { s.power with rails := tabPut 0 s.power.rails die.val watts } }

/-- `DIE_POWER_RATE_DOWN` (R24): the die's rail is above 460 W.  The floor of 0/16 is the model's (log entry 79). -/
def execDiePowerRateDown (die : Fin 4) (watts : Nat) (s : State) : Outcome :=
  let s := noteRail s die watts
  if 460 < watts ∧ 0 < s.dieRate die.val then .next (changeRates s (fun p => { p with dieRate := setRate p.dieRate die rateDown }) 1) else .next s

/-- `DIE_POWER_RATE_UP` (R24): the die's rail is below 440 W. -/
def execDiePowerRateUp (die : Fin 4) (watts : Nat) (s : State) : Outcome :=
  let s := noteRail s die watts
  if watts < 440 then .next (changeRates s (fun p => { p with dieRate := setRate p.dieRate die rateUp }) 0) else .next s

/-- `THERMAL_RATE_DOWN` (R505). -/
def execThermalRateDown (die : Fin 4) (s : State) : Outcome :=
  if 0 < s.thermRate die.val then .next (changeRates s (fun p => { p with thermRate := setRate p.thermRate die rateDown }) 1) else .next s

/-- Any die is thermally throttled (STAT_THERM). -/
def statTherm (s : State) : Bool := (List.range 4).any (fun d => s.thermRate d != 16)

/-- `THERMAL_RATE_UP` (R505): once no die is throttled, a throttle that comes later is a new condition of SMB_ALERT# (R498). -/
def execThermalRateUp (die : Fin 4) (s : State) : Outcome :=
  let s := changeRates s (fun p => { p with thermRate := setRate p.thermRate die rateUp }) 0
  .next (if statTherm s then s else { s with smbus := { s.smbus with alertSeen := s.smbus.alertSeen &&& 5 } })

/-- Thermal recalibration of dies begins or ends: a limit of 12/16 (R25). -/
def setRecal (s : State) (dies : BitVec 4) (on : Bool) : State :=
  let new := if on then s.power.recal ||| dies else s.power.recal &&& ~~~dies
  let downs := ((List.range 4).filter (fun d => !s.power.recal.getLsbD d && new.getLsbD d)).length
  changeRates s (fun p => { p with recal := new }) downs

/-- The die that a recalibration of all dies has reached: 50 ms for each, in sequence (Table 17.11). -/
def recalDie (s : State) (started : Word64) : Nat := min 3 ((s.time.now - started).toNat / 50000000)

/-- A recalibration of all dies goes on to the die whose turn it is. -/
def recalTurn (s : State) : State :=
  match s.cmd.maint.find? (fun x => x.activity == 7 && x.target == 0xFF) with
  | none => s
  | some x =>
    let d := recalDie s x.started
    if s.power.recal = 1#4 <<< d then s else setRecal (setRecal s (1#4 <<< d) true) (15 ^^^ (1#4 <<< d)) false

/-- A TCLK cycle of a module that is not powered down. -/
def clock (s : State) : State := if s.pins.phase = 0 then s else recalTurn (tick s)

/-! Module faults (R480, Table 18.5). -/

/-- `THERMAL_TRIP` (R505). -/
def execThermalTrip (die : Fin 4) (s : State) : Outcome := .next (moduleFault s 0x0A 2 die.val)

/-- `RAIL_LOST`. -/
def execRailLost (die : Fin 4) (s : State) : Outcome := .next (moduleFault s 0x0A 1 die.val)

/-- `PLL_LOCK_LOST`. -/
def execPllLockLost (s : State) : Outcome := .next (moduleFault s 0x0B 1 0)

end Sys2Proof.Machine
end

