-- ==== Sys2Proof/Machine/Mailbox.lean ====
section
/-! DEFINITION. Taking command descriptors (R390 to R395) and what decides when and whether a command runs (R407 to R411);
the table entries that responses carry. -/

namespace Sys2Proof.Machine

/-! The command catalogue (Tables 15.1, 15.2). -/

/-- What a command requires: SERVICE and FAILED beside READY, the slice bound, the named bits of its inline arguments as
(hi, lo), the bytes of its extended arguments and of the fixed part of its response body. -/
structure CmdSpec where
  service : Bool := false
  failed : Bool := false
  bound : Bool := true
  mask : List (Nat × Nat) := []
  args : Nat := 0
  body : Nat := 0

/-- Bytes of the shortest protection record: header and two signatures (R441). -/
def recordMin : Nat := 256

def cmdSpec (op : Nat) : Option CmdSpec :=
  match op with
  | 0x0101 => some { bound := false, mask := [(7, 0)], args := recordMin, body := 8 }
  | 0x0102 => some { mask := [(33, 0)], body := 4 }
  | 0x0103 => some { mask := [(9, 0)] }
  | 0x0104 => some { mask := [(9, 0)], body := 8 }
  | 0x0201 => some { mask := [(47, 0), (105, 64)], body := 8 }
  | 0x0202 => some { mask := [(15, 0)] }
  | 0x0203 => some { mask := [(255, 0)], args := 16, body := 16 }
  | 0x0204 => some { mask := [(15, 0)], body := 4 }
  | 0x0205 => some { mask := [(15, 0)], body := 4 }
  | 0x0206 => some { mask := [(15, 0)], body := 4 }
  | 0x0301 => some { mask := [(93, 0), (103, 96), (113, 104)], body := 72 }
  | 0x0302 => some { mask := [(16, 0), (41, 32), (95, 64), (127, 96)], body := 72 }
  | 0x0303 => some { mask := [(16, 0), (41, 32), (95, 64)], body := 72 }
  | 0x0304 => some { mask := [(16, 0), (41, 32)], body := 72 }
  | 0x0305 => some { mask := [(20, 0), (63, 32), (95, 64), (112, 96), (137, 128), (159, 144), (184, 176)], body := 80 }
  | 0x0306 => some { mask := [(19, 0), (63, 32), (76, 64)], body := 64 }
  | 0x0401 => some { mask := [(3, 0), (17, 8), (111, 64), (175, 128), (239, 192)] }
  | 0x0402 => some { mask := [(3, 0), (15, 8), (111, 64), (191, 128)], body := 16 }
  | 0x0501 => some { mask := [(31, 0)], body := 1 }
  | 0x0502 => some { service := true, bound := false, mask := [(15, 0)], body := 8 }
  | 0x0503 => some { service := true, failed := true, bound := false, mask := [(31, 0)], body := 4 }
  | 0x0601 => some { service := true, failed := true, bound := false, mask := [(8, 0), (63, 16), (95, 64), (111, 96)], body := 8 }
  | 0x0701 => some { service := true, bound := false, body := 36 }
  | 0x0702 => some { bound := false, args := recordMin, body := 2 }
  | 0x0703 => some { service := true, failed := true, bound := false, mask := [(255, 0)], body := 4 }
  | 0x0704 => some { service := true, bound := false, args := recordMin, body := 4 }
  | 0x0801 => some { service := true, bound := false, mask := [(64, 0)], body := 4 }
  | 0x0802 => some { service := true, bound := false, body := 4 }
  | _ => none

/-- The bits of a list of fields. -/
def fieldBits (l : List (Nat × Nat)) : Nat := l.foldl (fun m f => m ||| (2 ^ (f.1 + 1) - 2 ^ f.2)) 0

/-- N of RING_FORM and GROUP_SET. -/
def ringN (k : Taken) : Nat := k.arg 184 176
def groupN (k : Taken) : Nat := k.arg 76 64

/-- Bytes of extended arguments that a command needs: 2N for FORM and SET (R419). -/
def argNeed (k : Taken) (c : CmdSpec) : Nat :=
  if k.op = 0x0305 ∧ k.arg 7 0 = 0 then 2 * ringN k
  else if k.op = 0x0306 ∧ k.arg 7 0 = 0 then 2 * groupN k
  else c.args

/-- The checks of R395. -/
def badDescriptor (k : Taken) : Bool :=
  decide (k.arg 287 283 ≠ 0 ∨ k.arg 279 256 ≠ 0 ∨ k.respAddr % 16 ≠ 0 ∨ k.argAddr % 8 ≠ 0 ∨ 1048576 < k.argLen) ||
  decide (k.respLen ≠ 0 ∧ (k.respAddr = 0 ∨ k.respLen < 16 ∨ 1048576 < k.respLen)) ||
  (match cmdSpec k.op with
    | none => true
    | some c => decide (k.arg 255 0 ||| fieldBits c.mask ≠ fieldBits c.mask) || decide (k.args.length < argNeed k c) ||
        decide (k.respLen ≠ 0 ∧ k.respLen < 16 + c.body))

/-! Taking descriptors. -/

/-- Commands that the module answers without leaving I4 (R462). -/
def staysAsleep (op : Nat) : Bool := op == 0x0601 || op == 0x0503 || op == 0x0703 || op == 0x0701 || op == 0x0501

/-- A firmware activation has been accepted and waits for other mailboxes: no descriptor is taken (R427). -/
def activating (s : State) : Bool :=
  (List.finRange 8).any (fun m => (s.mbx m).taken.any (fun k => k.op == 0x0802 && k.working))

/-- `DESCRIPTOR_READ_DONE` (R392, R393, R395): r is none where the read ended with an error or poisoned data. -/
def execDescriptorReadDone (m : Fin 8) (r : Option (BitVec 512 × List Byte)) (s : State) : Outcome :=
  let x := s.mbx m
  if s.cmd.module = 0 ∨ !x.enable ∨ x.stopped ∨ x.taken.isSome ∨ x.head = x.tail ∨ activating s then .next s
  else
    match r with
    | none =>
      .next (emit (s.setMbx m { x with stopped := true, error := 1 }) { type := 0x0002, severity := 3, scope := 1, items := [(8, m.val), (16, x.head)] })
    | some (d, bytes) =>
      let k : Taken := { desc := d, args := [], order := s.host.takes }
      let k := { k with args := if k.argAddr = 0 ∨ 1048576 < k.argLen then [] else padTo k.argLen 0 bytes }
      let s := s.setMbx m { x with head := (x.head + 1) % 2 ^ x.log2, index := x.head, tag := BitVec.ofNat 16 k.tag, status := 1, taken := some k }
      let s := { s with host := { s.host with takes := s.host.takes + 1 } }
      let s := if staysAsleep k.op then s else wakeModule s
      .next (if badDescriptor k then refuse s m stBadArg else s)

/-! Objects that commands name (R409, R445). -/

inductive CmdObj where
  | slice | prot | image
  | domain (d : Nat)
  | sched (h : Nat)
  | seq (h : Nat)
  | ring (r : Nat)
  | group (g : Nat)
  | grains (a n : Nat)
  | maint (a : Nat)
  deriving DecidableEq, Repr

def CmdObj.meets : CmdObj → CmdObj → Bool
  | .grains a n, .grains b m => overlaps a n b m
  | x, y => x == y

/-- A domain is an object, but for 0x3FF. -/
def domObj (d : Nat) : List CmdObj := if d = 0x3FF then [] else [.domain d]

/-- What a taken command names.  An UNBIND under way names every open domain, which it closes. -/
def cmdObjs (s : State) (k : Taken) : List CmdObj :=
  match k.op with
  | 0x0101 => [.slice, .prot] ++ (if k.working then s.cmd.domains.map (fun d => .domain d.toNat) else [])
  | 0x0103 => domObj (k.arg 9 0)
  | 0x0104 => domObj (k.arg 9 0)
  | 0x0201 => domObj (k.arg 105 96)
  | 0x0202 => [.sched (k.arg 15 0)]
  | 0x0203 => .sched (bits k.ext 15 0) :: domObj (bits k.ext 25 16)
  | 0x0204 => [.sched (k.arg 15 0)]
  | 0x0205 => [.sched (k.arg 15 0)]
  | 0x0206 => [.sched (k.arg 15 0)]
  | 0x0301 => domObj (k.arg 113 104)
  | 0x0302 => .seq (k.arg 16 0) :: domObj (k.arg 41 32)
  | 0x0303 => .seq (k.arg 16 0) :: domObj (k.arg 41 32)
  | 0x0304 => .seq (k.arg 16 0) :: domObj (k.arg 41 32)
  | 0x0305 => .ring (k.arg 19 8) :: (if 2 ≤ k.arg 7 0 then .seq (k.arg 112 96) :: domObj (k.arg 137 128) else [])
  | 0x0306 => [.group (k.arg 19 8)]
  | 0x0401 => if k.arg 3 0 = 9 then [] else .grains (k.arg 111 64) (k.arg 175 128) :: domObj (k.arg 17 8)
  | 0x0502 => [.maint (k.arg 7 0)]
  | 0x0701 => [.prot]
  | 0x0702 => [.prot]
  | 0x0704 => [.prot]
  | 0x0801 => .image :: (if bitAt k.num 64 then [.prot] else [])
  | 0x0802 => [.image]
  | _ => []

/-- Two commands name a common object. -/
def cmdsMeet (s : State) (j k : Taken) : Bool := (cmdObjs s j).any (fun a => (cmdObjs s k).any a.meets)

/-- A sequence of domain d, or of any for none, that an operation holds or whose earlier window operations (R247) are
still to be applied. -/
def heldSeqs (s : State) (d : Option Nat) (ord : Nat) : Bool :=
  s.seqs.table.any (fun e => e.2.st == 1 && d.all (fun d => e.2.domain.toNat == d) && (seqHeld s e.1 || recAhead s e.1 ord))

/-- A sequence that a command works on is held by an operation that came earlier, or is named by one still to be applied
(R247). -/
def cmdSeqHeld (s : State) (k : Taken) : Bool :=
  if k.op = 0x0104 then heldSeqs s (some (k.arg 9 0)) k.order
  else if k.op = 0x0101 then k.arg 7 0 == 1 && heldSeqs s none k.order
  else (k.op == 0x0302 || k.op == 0x0303 || k.op == 0x0304 || (k.op == 0x0305 && decide (2 ≤ k.arg 7 0))) && (cmdObjs s k).any (fun o =>
    match o with
    | .seq h => seqHeld s h || recAhead s h k.order
    | _ => false)

/-! The maintenance arbiter (R471, Table 17.10). -/

/-- Dies that an activity's target touches. -/
def maintDies (a t : Nat) : List Nat :=
  if a = 1 ∨ a = 2 then (if t = 0xFF then [0, 1, 2, 3] else [t / 6])
  else if a = 3 then (if t < 8 then [t / 2] else [])
  else if a = 7 then (if t = 0xFF then [0, 1, 2, 3] else [t]) else []

def maintMeet (t u : Nat) : Bool := t == u || t == 0xFF || u == 0xFF
def shareDie (a t b u : Nat) : Bool := (maintDies a t).any (maintDies b u).contains

/-- Table 17.10 for activities a ≤ b with their targets. -/
def maintPair (a t b u : Nat) : Bool :=
  match a, b with
  | 1, 1 => maintMeet t u
  | 1, 2 => maintMeet t u
  | 1, 6 => true
  | 1, 7 => shareDie 1 t 7 u
  | 2, 2 => shareDie 2 t 2 u
  | 2, 6 => true
  | 2, 7 => shareDie 2 t 7 u
  | 3, 3 => maintMeet t u
  | 3, 4 => decide (t < 8)
  | 3, 5 => t == 8
  | 3, 7 => shareDie 3 t 7 u
  | 4, 4 => true
  | 5, 5 => true
  | 6, 6 => true
  | 7, 7 => maintMeet t u
  | _, _ => false

def maintClash (a t b u : Nat) : Bool := if a ≤ b then maintPair a t b u else maintPair b u a t

/-- Active instances in ascending order of number. -/
def activeMaint (s : State) : List Maint := sortBy (fun a b => decide (a.inst ≤ b.inst)) s.cmd.maint

/-- The first active instance that a new activity collides with. -/
def collides (s : State) (a t : Nat) : Option Maint := (activeMaint s).find? (fun x => maintClash a t x.activity.val x.target)

/-- The body of `MAINT_START` and of R422's `ST_BUSY`. -/
def maintBody (x : Maint) : List Byte := leBytes 8 (packBits [(32, x.inst.toNat), (8, x.activity.val), (8, 0), (10, x.target)])

/-- The next instance number (R423). -/
def nextInst (v : Word32) : Word32 := if v + 1 = 0xFFFFFFFF then 0 else v + 1

/-- Starts an instance. -/
def startMaint (s : State) (a : Fin 8) (t : Nat) : State × Maint :=
  let n := nextInst s.cmd.maintNo
  let x : Maint := { inst := n, activity := a, target := t, started := s.time.now }
  ({ s with cmd := { s.cmd with maintNo := n, maint := s.cmd.maint ++ [x] } }, x)

/-! When and whether a command runs. -/

/-- An earlier command that names a common object is still in progress (R409). -/
def earlierMeets (s : State) (m : Fin 8) (k : Taken) : Bool :=
  (List.finRange 8).any (fun j => j != m && (s.mbx j).taken.any (fun e => decide (e.order < k.order) && cmdsMeet s e k))

/-- Kind of the protection record in the extended arguments (Table 16.6b). -/
def recKind (k : Taken) : Nat := bits k.ext 63 48

/-- The maintenance activity that a command starts, if it starts one whose collision ends it at once (R422). -/
def scrubs (k : Taken) : Option Nat :=
  if k.op = 0x0104 ∨ (k.op = 0x0101 ∧ k.arg 7 0 = 1) ∨ (k.op = 0x0702 ∧ recKind k = 9) then some 6
  else if k.op = 0x0801 then some 5 else none

/-- The command waits: `SLICE_HALT`, `COUNTER_READ`, `MAINT_STATUS` and `ATTEST_GET` never do. -/
def cmdWaits (s : State) (m : Fin 8) (k : Taken) : Bool :=
  !(k.op == 0x0102 || k.op == 0x0601 || k.op == 0x0503 || k.op == 0x0703) && !(scrubs k).any (fun a => (collides s a 0).isSome) && (earlierMeets s m k || cmdSeqHeld s k)

/-- The states and bound columns of Table 15.1. -/
def gateOk (s : State) (k : Taken) : Bool :=
  match cmdSpec k.op with
  | none => false
  | some c =>
    let bound := if k.op = 0x0101 then (if k.arg 7 0 = 0 then !s.cmd.bound else if k.arg 7 0 = 1 then s.cmd.bound else true) else !c.bound || s.cmd.bound
    (s.cmd.module == 1 || (s.cmd.module == 2 && c.service) || (s.cmd.module == 3 && c.failed)) && bound

/-- Runs a command that a mailbox has taken, once it need not wait: `mine` tells the sub-actions of one row. -/
def runCmd (s : State) (m : Fin 8) (op : Nat) (mine : Taken → Bool) (f : Taken → State) : Outcome :=
  match (s.mbx m).taken with
  | none => .next s
  | some k =>
    if k.op ≠ op ∨ !mine k ∨ k.working ∨ !k.waits.isEmpty ∨ cmdWaits s m k then .next s
    else if gateOk s k then .next (f k) else .next (refuse s m stConflict)

/-- Every sub-action. -/
def anyAction (_ : Taken) : Bool := true

/-- The sub-action [7:0] of a row; a row with reserved codes beside it completes those too. -/
def action (a : Nat) (k : Taken) : Bool := k.arg 7 0 == a

/-- Marks a command accepted and still working, with the launches it waits for. -/
def setWorking (s : State) (m : Fin 8) (waits : List (Fin 16)) : State :=
  let x := s.mbx m
  s.setMbx m { x with taken := x.taken.map (fun k => { k with working := true, waits := waits }) }

/-- Ends a command with the first refusal whose condition holds, or runs it. -/
def refusing (s : State) (m : Fin 8) (rows : List (Bool × Nat)) (f : Unit → State) : State :=
  match rows.find? (·.1) with
  | some r => refuse s m r.2
  | none => f ()

/-! Table entries as responses carry them. -/

/-- Table 9.1. -/
def seqEntryBytes (e : SeqEntry) : List Byte :=
  leBytes 64 (packBits [(241, 0), (3, e.st.val), (12, e.ring.toNat), (10, e.domain.toNat), (2, e.homeDie.val), (6, e.pageGrains.toNat), (4, e.fmtV.toNat), (4, e.fmtK.toNat), (6, e.kvHeads.toNat), (8, e.layerCount.toNat), (8, e.layerFirst.toNat), (32, e.freedEpoch.toNat), (32, e.capacity), (32, e.base), (32, e.length), (32, e.version.toNat), (48, e.versionAddr.toNat)])

/-- Table 10.1. -/
def ringEntryBytes (s : State) (r : RingEntry) : List Byte :=
  if r.st = 0 then List.replicate 64 0
  else leBytes 64 (packBits [(187, 0), (1, b2n r.cls), (12, r.id.toNat), (12, r.pred), (12, r.succ), (8, 0), (8, r.index), (8, r.n - 1), (8, r.st.val), (64, 0), (16, ringBound s r.id), (48, r.lastG.toNat), (32, r.maxShard), (32, r.breakUs), (64, r.check.toNat)])

/-- Table 10.3. -/
def bindingBytes (b : Binding) : List Byte :=
  leBytes 16 (packBits [(1, b2n b.pass.isSome), (31, 0), (12, b.ring.toNat), (16, b.tag.toNat), (17, b.handle), (17, b.visitor0), (17, b.visitor1), (17, b.visitor2)])

/-- Table 11.1. -/
def groupEntryBytes (s : State) (id : Nat) : List Byte :=
  let g := s.group id
  if !g.set then List.replicate 64 0
  else leBytes 64 (packBits [(64, g.outcome.toNat), (216, 0), (4, 1), (12, id), (12, g.n - 1), (12, g.self), (1, 0), (3, stageMask g), (3, 0), (9, groupActive s id), (32, g.stallUs), (32, g.nextSeq.toNat), (48, g.listAddr.toNat), (64, g.check.toNat)])

/-- Table 12.2. -/
def objBytes (o : SyncObj) : List Byte :=
  leBytes 16 (packBits [(27, 0), (16, o.index.toNat), (4, o.slot.val), (2, o.ctx.toNat), (8, o.tile.toNat), (1, b2n o.tileLocal), (1, b2n o.hostVisible), (2, o.kind.val), (1, b2n o.full), (2, o.st.val), (64, o.value.toNat)])

/-- Tables 6.6 to 6.8. -/
def stqCtl (q : StQueue) : Nat :=
  packBits [(1, b2n q.enable), (1, b2n q.deadlineMode), (1, b2n q.fillMark), (27, 0), (2, q.ownerCtx.toNat), (16, q.ownerTile.toNat), (16, q.limit.toNat)]
def stqStatus (q : StQueue) : Nat :=
  let desc := fun (x : Option Xfer) => (x.map (·.desc.toNat)).getD 0xFFFF
  packBits [(3, q.state.val), (13, 0), (1, b2n q.halted), (1, b2n q.shadow.isSome), (1, b2n q.deadlineMissed), (1, b2n q.rearmRefused), (12, 0), (16, desc q.shadow), (16, desc q.active)]
def queueBytes (q : StQueue) : List Byte :=
  leBytes 8 (stqCtl q) ++ leBytes 8 (stqStatus q) ++ leBytes 8 q.posLo.toNat ++ leBytes 8 q.posHi.toNat ++ leBytes 8 q.deadlineAt.toNat ++ leBytes 8 q.bytes.toNat ++ List.replicate 16 0

/-- Table 15.6; the progress of an instance that has not ended DONE is a free value. -/
def maintEntry (x : Maint) (progress : Nat) : List Byte :=
  leBytes 16 (packBits [(32, x.inst.toNat), (4, 0), (12, x.target), (4, x.activity.val), (4, x.st.val), (8, progress), (64, x.started.toNat)])

end Sys2Proof.Machine
end

