-- ==== Sys2Proof/Machine/Cmds.lean ====
section
/-! DEFINITION. Mailbox commands on launches, sequences, rings, groups, grains, sync objects, wake tolerance, maintenance and
counters (ch. 15, with the refusals of Tables 4.21, 7.7, 9.6, 10.2, 11.2, 12.7, 15.3, 15.4). -/

namespace Sys2Proof.Machine

/-! Schedules (R416 to R418). -/

/-- The load slot that a handle names. -/
def handleSlot (s : State) (h : Nat) : Option (Fin 16) :=
  let n := Fin.ofNat 16 h
  if (s.slot n).loaded ∧ (s.slot n).generation.toNat = h / 16 then some n else none

def launchX (k : Taken) : List Nat := (List.range 8).map (fun j => k.arg (32 * j + 31) (32 * j))

/-- The lowest j with x_j > P_j. -/
def overPlan (img : Nat) (xs : List Nat) : Option Nat := (List.range 8).find? (fun j => decide (hdrPlan img j < xs.getD j 0))

/-- A tile or AE that the image needs has failed (check 3). -/
def needsFailed (s : State) (img : Nat) : Bool :=
  allTiles.any (fun t => (hdrTileMap img).testBit t.val && (s.tile t).failed) || allAes.any (fun e => (hdrAeMap img).testBit e.val && (s.ae e).failed)

/-- Tile contexts that some launch holds (R131). -/
def heldCtxs (s : State) : List (Nat × Nat) :=
  (allSlots.filter (fun n => (s.launch n).isSome)).flatMap (fun n => (ctxEntries (s.slot n).image).map (fun c => (c.tile, c.ctx)))

/-- What check 4 finds in use. -/
def launchBusy (s : State) (n : Fin 16) (img : Nat) : Bool :=
  let held := heldCtxs s
  (s.launch n).isSome ||
  (ctxEntries img).any (fun c => (s.ctx (Fin.ofNat 192 c.tile) (Fin.ofNat 4 c.ctx)).st != .empty || held.contains (c.tile, c.ctx)) ||
  (imgChans img).any (fun k => (s.chan k).slot.isSome) ||
  (queueEntries img).any (fun q => (s.queue (Fin.ofNat 256 q.queue)).owner.isSome) ||
  (imgAes img).any (fun i => (s.aeCtx (Fin.ofNat 32 (i / 4)) (Fin.ofNat 4 i)).owner.isSome) ||
  allTiles.any (fun t => (hdrTileMap img).testBit t.val && (s.tile t).stepGrant.isSome)

/-- The group check (R306). -/
def badGroups (s : State) (img : Nat) : Bool :=
  (secAll img 0xD).any (fun e => let g := s.group (cpGroup e.2)
    !g.set || g.n != cpMembersM1 e.2 + 1)

def launchBody (number j x p : Nat) : List Byte := leBytes 16 (packBits [(32, number), (8, j), (24, 0), (32, x), (32, p)])

/-- Every die and the module leave I3 and I4 for a launch (Table 17.4). -/
def wakeDies (s : State) : State := { s with idle := { s.idle with dies := 0 } }

/-- `SCHED_LAUNCH` (R131 to R133, R416). -/
def execSchedLaunch (m : Fin 8) (s : State) : Outcome :=
  runCmd s m 0x0203 anyAction (fun k =>
    let a := k.ext % 2 ^ 128
    let h := bits a 15 0
    let d := bits a 25 16
    let xs := launchX k
    let img := (handleSlot s h).map (fun n => (s.slot n).image)
    let beyond := img.bind (fun i => overPlan i xs)
    if bits a 31 26 ≠ 0 ∨ bits a 63 56 ≠ 0 ∨ bits a 127 96 ≠ 0 ∨ 1000000 < bits a 95 64 then refuse s m stBadArg
    else if !domainOpen s (BitVec.ofNat 10 d) then refuse s m stConflict
    else match handleSlot s h, beyond with
    | none, _ => refuse s m stBadArg
    | some n, some j => finish s m stShape (launchBody 0 j (xs.getD j 0) (hdrPlan (s.slot n).image j))
    | some n, none =>
      let i := (s.slot n).image
      if needsFailed s i then refuse s m stNoResource
      else if launchBusy s n i then refuse s m stBusy
      else if badGroups s i then refuse s m stConflict
      else
        let num := s.launchNo + 1
        let spin := if bits a 55 32 = 0 then 4096 else bits a 55 32
        let watch := if bits a 95 64 = 0 then 100 else bits a 95 64
        let l : Launch := { number := num, domain := BitVec.ofNat 10 d, spinLimit := spin, creditWatch := watch, shapes := xs.map (BitVec.ofNat 32) }
        finish (startLaunch { wakeDies s with launchNo := num } n l) m stOk (launchBody num.toNat 0 0 0))

/-- A command on a launched handle: `ST_BAD_ARG` where the handle names no image, `ST_CONFLICT` where it has no launch or
the launch does not satisfy `ok`. -/
def onLaunch (s : State) (m : Fin 8) (k : Taken) (ok : Launch → Bool) (f : Fin 16 → Launch → State) : State :=
  match handleSlot s (k.arg 15 0) with
  | none => refuse s m stBadArg
  | some n =>
    match s.launch n with
    | none => refuse s m stConflict
    | some l => if ok l then f n l else refuse s m stConflict

/-- `SCHED_STOP` (R417). -/
def execSchedStop (m : Fin 8) (s : State) : Outcome :=
  runCmd s m 0x0204 anyAction (fun k =>
    onLaunch s m k (fun _ => true) (fun n l => finish (stopLaunch s n 0) m stOk (leBytes 4 l.number.toNat)))

/-- `SCHED_PREEMPT` (R418): completes when every context is HALTED. -/
def execSchedPreempt (m : Fin 8) (s : State) : Outcome :=
  runCmd s m 0x0205 anyAction (fun k =>
    onLaunch s m k (fun l => !l.halted) (fun n _ => settleCmds (preemptLaunch (setWorking s m [n]) n)))

/-- `SCHED_RESUME` (R418): completes when every context is READY. -/
def execSchedResume (m : Fin 8) (s : State) : Outcome :=
  runCmd s m 0x0206 anyAction (fun k =>
    onLaunch s m k (fun l => l.halted && l.phase == 0) (fun n _ => settleCmds (resumeLaunch (wakeDies (setWorking s m [n])) n)))

/-! `SLICE_HALT` (R363, R413). -/

/-- HALT packets to every other member, with the halt number and the mode. -/
def broadcastHalt (s : State) (number : Word32) (stop : Bool) : State :=
  s.forAll ((otherMembers s).filter (fun d => !(possibleSet s d).isEmpty)) (fun s d => sendControl s 7 d 0x3FF 0 0 0 number.toNat [(1, b2n stop)])

def sliceHalt (m : Fin 8) (stop : Bool) (s : State) : Outcome :=
  runCmd s m 0x0102 (fun k => bitAt k.num 32 == stop) (fun k =>
    let number := BitVec.ofNat 32 (k.arg 31 0)
    let new := !s.fabric.halts.contains number
    let s := if bitAt k.num 33 && new then broadcastHalt s number stop else s
    let h := haltOnce (setWorking s m []) number stop
    let s := settleCmds (endResumes h.1 h.2)
    if stop || h.2.isEmpty then finish s m stOk (leBytes 4 h.2.length)
    else settleCmds (setWorking s m h.2))

/-- `SLICE_HALT_PAUSE`. -/
def execSliceHaltPause (m : Fin 8) (s : State) : Outcome := sliceHalt m false s
/-- `SLICE_HALT_STOP`. -/
def execSliceHaltStop (m : Fin 8) (s : State) : Outcome := sliceHalt m true s

/-! Domains (R412, Table 15.3). -/

/-- The policy word of a domain (R440). -/
def policyWord (s : State) (d : Nat) : Word32 := tabGet 3 s.prot.policy d

/-- `DOMAIN_OPEN`. -/
def execDomainOpen (m : Fin 8) (s : State) : Outcome :=
  runCmd s m 0x0103 anyAction (fun k =>
    let d := BitVec.ofNat 10 (k.arg 9 0)
    refusing s m [(d == 0x3FF, stBadArg), (!s.cmd.bound || s.cmd.domains.contains d, stConflict), (!(policyWord s d.toNat).getLsbD 0, stDenied)]
      (fun _ => finish { s with cmd := { s.cmd with domains := s.cmd.domains ++ [d] } } m stOk []))

/-! Sequences (Table 9.6, R255 to R259). -/

def seqBody (s : State) (h : Nat) : List Byte := leBytes 8 h ++ seqEntryBytes (s.seq h)

/-- The entry that SEQ_CREATE's arguments describe. -/
def newSeq (k : Taken) : SeqEntry :=
  { base := k.arg 31 0, length := k.arg 31 0, capacity := k.arg 63 32, layerFirst := BitVec.ofNat 8 (k.arg 71 64), layerCount := BitVec.ofNat 8 (k.arg 79 72), kvHeads := BitVec.ofNat 6 (k.arg 85 80), fmtK := BitVec.ofNat 4 (k.arg 89 86), fmtV := BitVec.ofNat 4 (k.arg 93 90), pageGrains := BitVec.ofNat 6 (grainsPerPage (k.arg 85 80) (k.arg 89 86) (k.arg 93 90)), homeDie := Fin.ofNat 4 (k.arg 103 96), domain := BitVec.ofNat 10 (k.arg 113 104) }

/-- Table 9.6, first row of SEQ_CREATE. -/
def badSeq (k : Taken) : Bool :=
  let heads := k.arg 85 80
  let layers := k.arg 79 72
  k.arg 113 104 == 0x3FF || !fmtMatrix (k.arg 89 86) || !fmtMatrix (k.arg 93 90) ||
  decide (heads < 1 ∨ 32 < heads ∨ layers < 1 ∨ 256 < k.arg 71 64 + layers ∨ k.arg 63 32 < 1 ∨ 2 ^ 31 < k.arg 63 32 + k.arg 31 0) ||
  decide (2097152 < pageBytes heads (k.arg 89 86) (k.arg 93 90) ∨ 3 < k.arg 103 96)

/-- `SEQ_CREATE`. -/
def execSeqCreate (m : Fin 8) (s : State) : Outcome :=
  runCmd s m 0x0301 anyAction (fun k =>
    refusing s m [(badSeq k, stBadArg), (!domainOpen s (BitVec.ofNat 10 (k.arg 113 104)), stConflict)] (fun _ =>
      let w := withReclaim s (fun s => (freeHandle s).bind (fun h => (createSeq s h (newSeq k)).map (fun t => (t, h))))
      match w.2 with
      | some (t, h) => finish t m stOk (seqBody t h)
      | none => refuse w.1 m stNoResource))

/-- `SEQ_FORK` (R256): the command completes at FORK_PUBLISHED. -/
def execSeqFork (m : Fin 8) (s : State) : Outcome :=
  runCmd s m 0x0302 anyAction (fun k =>
    let h := k.arg 16 0
    let e := s.seq h
    let p := k.arg 95 64
    let cap := if k.arg 127 96 = 0 then e.capacity else k.arg 127 96
    refusing s m [(e.st != 1 || decide (p < e.base ∨ e.length < p ∨ cap < p - e.base), stBadArg), (isVisitor s h || decide (k.arg 41 32 ≠ e.domain.toNat), stDenied)] (fun _ =>
      let w := withReclaim s (fun s => (freeHandle s).bind (fun n => startFork s m h n p cap))
      match w.2 with
      | some t => setWorking t m []
      | none => refuse w.1 m stNoResource))

/-- `FORK_PUBLISHED` (R256): the new handle's version is published, then the response is written. -/
def execForkPublished (h : BitVec 17) (s : State) : Outcome :=
  match s.seqs.forks.find? (fun f => f.handle == h.toNat) with
  | none => .next s
  | some f =>
    let s := endFork s f
    .next (if (s.mbx f.mbx).taken.any (fun k => k.op == 0x0302 && k.working) then finish s f.mbx stOk (seqBody s f.handle) else s)

/-- `SEQ_TRUNCATE`. -/
def execSeqTruncate (m : Fin 8) (s : State) : Outcome :=
  runCmd s m 0x0303 anyAction (fun k =>
    let h := k.arg 16 0
    let e := s.seq h
    let l := k.arg 95 64
    refusing s m [(e.st != 1 || decide (l < e.base ∨ e.length < l), stBadArg), (isVisitor s h || decide (k.arg 41 32 ≠ e.domain.toNat), stDenied)] (fun _ =>
      let w := withReclaim s (fun s => truncSeq s h l)
      match w.2 with
      | some t => finish t m stOk (seqBody t h)
      | none => refuse w.1 m stNoResource))

/-- `SEQ_FREE` (R259, R277). -/
def execSeqFree (m : Fin 8) (s : State) : Outcome :=
  runCmd s m 0x0304 anyAction (fun k =>
    let h := k.arg 16 0
    let e := s.seq h
    refusing s m [(e.st != 1, stBadArg), (isVisitor s h || decide (k.arg 41 32 ≠ e.domain.toNat), stDenied)] (fun _ =>
      let s := freeSequence s h
      finish s m stOk (seqBody s h)))

/-! Rings (Table 10.2). -/

/-- The module IDs of FORM and SET. -/
def memberArgs (k : Taken) (n : Nat) : List Nat := (List.range n).map (fun j => bits k.ext (16 * j + 15) (16 * j))

/-- A list that names a module twice, or not this module, or none that can be. -/
def badMembers (s : State) (l : List Nat) : Bool := l.eraseDups.length != l.length || !l.contains (moduleId s) || l.any (fun d => decide (4096 ≤ d))

/-- A member with a route: its entry is the self entry or has planes. -/
def hasRoute (s : State) (d : Nat) : Bool :=
  let e := entryOf s d
  e.getLsbD 15 && (e.getLsbD 14 || decide (e.toNat % 256 ≠ 0))

def memberIndex (s : State) (l : List Nat) : Nat := (l.findIdx? (· == moduleId s)).getD 0

/-- R17: a loaded image is pipelined, and another ring has a different N. -/
def pipelineClash (s : State) (n : Nat) : Bool :=
  allSlots.any (fun i => (s.slot i).loaded && hdrPipelined (s.slot i).image) && s.rings.table.any (fun e => e.2.st != 0 && e.2.n != n)

/-- `RING_FORM` (R274): FORM, and the reserved actions. -/
def execRingForm (m : Fin 8) (s : State) : Outcome :=
  runCmd s m 0x0305 (fun k => action 0 k || decide (4 ≤ k.arg 7 0)) (fun k =>
    let n := ringN k
    let id := k.arg 19 8
    let l := memberArgs k n
    let us := if k.arg 95 64 = 0 then 1000000 else k.arg 95 64
    let shard := k.arg 63 32
    refusing s m [(!action 0 k, stBadArg),
      (decide (id = 0xFFF ∨ n = 0 ∨ 256 < n) || badMembers s l || decide (shard < 1 ∨ 2 ^ 31 < shard ∨ us < 1000 ∨ 60000000 < us), stBadArg),
      (!s.cmd.bound || (ringIx s (BitVec.ofNat 12 id)).isSome || !l.all (hasRoute s) || pipelineClash s n, stConflict),
      ((firstUnused 0 64 s.rings.table).isNone, stNoResource)] (fun _ =>
      let r : RingEntry := { st := 1, id := BitVec.ofNat 12 id, check := checkValue id l, breakUs := us, maxShard := shard, members := l.map (BitVec.ofNat 12), index := memberIndex s l, cls := bitAt k.num 20 }
      let s := s.setRing ((firstUnused 0 64 s.rings.table).getD 0) r
      finish s m stOk (ringEntryBytes s r ++ bindingBytes {})))

/-- `RING_DISSOLVE`. -/
def execRingDissolve (m : Fin 8) (s : State) : Outcome :=
  runCmd s m 0x0305 (action 1) (fun k =>
    let id := BitVec.ofNat 12 (k.arg 19 8)
    match ringIx s id with
    | none => refuse s m stBadArg
    | some i => if ringBound s id ≠ 0 then refuse s m stBusy
      else finish (s.setRing i {}) m stOk (ringEntryBytes s {} ++ bindingBytes {}))

/-- `RING_BIND` (R275). -/
def execRingBind (m : Fin 8) (s : State) : Outcome :=
  runCmd s m 0x0305 (action 2) (fun k =>
    let id := BitVec.ofNat 12 (k.arg 19 8)
    let tag := BitVec.ofNat 16 (k.arg 159 144)
    let h := k.arg 112 96
    let e := s.seq h
    match ringOf s id with
    | none => refuse s m stBadArg
    | some r =>
      refusing s m [(e.st != 1 || isVisitor s h, stBadArg), (decide (k.arg 137 128 ≠ e.domain.toNat), stDenied),
        ((bindOfSeq s h).isSome || (bindOfTag s id tag).isSome || r.st == 2, stConflict)] (fun _ =>
        let n := cdiv r.maxShard 128
        let w := withReclaim s (fun s =>
          match firstUnused 0 16384 s.rings.binds with
          | none => none
          | some b => if freeHandles s < 3 ∨ slotsFree s < 3 * n * e.layerCount.toNat then none
            else (makeBinding s id tag h b n).map (fun t => (t, b)))
        match w.2 with
        | some (t, b) => finish t m stOk (ringEntryBytes t r ++ bindingBytes (t.bind b))
        | none => refuse w.1 m stNoResource))

/-- `RING_UNBIND` (R275): the response holds the binding as it stood. -/
def execRingUnbind (m : Fin 8) (s : State) : Outcome :=
  runCmd s m 0x0305 (action 3) (fun k =>
    let id := BitVec.ofNat 12 (k.arg 19 8)
    match ringOf s id, (bindOfSeq s (k.arg 112 96)).filter (fun b => (s.bind b).ring == id) with
    | some r, some b => if (s.bind b).pass.isSome then refuse s m stBusy
      else
        let old := s.bind b
        let s := unbind s b
        finish s m stOk (ringEntryBytes s r ++ bindingBytes old)
    | _, _ => refuse s m stBadArg)

/-! Groups (Table 11.2). -/

/-- `GROUP_SET` (R301): SET, and the reserved actions.  The member list's address is a free value. -/
def execGroupSet (m : Fin 8) (s : State) : Outcome :=
  runCmd s m 0x0306 (fun k => action 0 k || decide (2 ≤ k.arg 7 0)) (fun k =>
    let n := groupN k
    let id := k.arg 19 8
    let l := memberArgs k n
    let us := if k.arg 63 32 = 0 then 10000 else k.arg 63 32
    refusing s m [(!action 0 k, stBadArg),
      (decide (n = 0 ∨ 4096 < n) || badMembers s l || decide (us < 100 ∨ 60000000 < us), stBadArg),
      (!s.cmd.bound || !l.all (hasRoute s), stConflict),
      ((s.group id).set && groupActive s id != 0, stBusy)] (fun _ =>
      let g : GroupEntry := { set := true, check := checkValue id l, stallUs := us, members := l.map (BitVec.ofNat 12), self := memberIndex s l, listAddr := BitVec.ofNat 48 s.freeVal }
      let s := s.bump.setGroup id g
      finish s m stOk (groupEntryBytes s id)))

/-- `GROUP_CLEAR`. -/
def execGroupClear (m : Fin 8) (s : State) : Outcome :=
  runCmd s m 0x0306 (action 1) (fun k =>
    let id := k.arg 19 8
    refusing s m [(!(s.group id).set, stBadArg), (groupActive s id != 0, stBusy)] (fun _ =>
      let s := s.setGroup id {}
      finish s m stOk (groupEntryBytes s id)))

/-! Placement (R192, R201, R205, R420). -/

/-- Largest number of pinned grains (Table 7.7). -/
def pinLimit : Nat := 24510464
def pinnedGrains (s : State) : Nat := (s.tiers.dir.filter (fun e => e.2.pins != 0)).length

def hintStart (k : Taken) : Nat := k.arg 111 64 / 65536
def hintCount (k : Taken) : Nat := k.arg 175 128 / 65536
def hintGrains (k : Taken) : List Nat := (List.range (hintCount k)).map (fun i => hintStart k + i)
def inHint (k : Taken) (g : Nat) : Bool := decide (hintStart k ≤ g ∧ g < hintStart k + hintCount k)

/-- Directory entries of a hint's range. -/
def hintEntries (s : State) (k : Taken) : List (Nat × Grain) := s.tiers.dir.filter (fun e => inHint k e.1)

/-- A placement action with its further refusals, behind those of R420 and R201. -/
def placeHint (m : Fin 8) (mine : Taken → Bool) (s : State) (rows : Taken → List (Bool × Nat)) (f : Taken → State) : Outcome :=
  runCmd s m 0x0401 mine (fun k =>
    let a := k.arg 111 64
    let n := k.arg 175 128
    let d := k.arg 17 8
    refusing s m ([(!domainOpen s (BitVec.ofNat 10 d), stConflict),
      (decide (a % 65536 ≠ 0 ∨ n % 65536 ≠ 0 ∨ 64 * 2 ^ 30 < n ∨ 0x100000000000 < a + n), stBadArg),
      ((hintEntries s k).any (fun e => e.2.st != 0 && e.2.domain.toNat != d), stDenied)] ++ rows k) (fun _ => finish (f k) m stOk []))

def place (a : Nat) (k : Taken) : Bool := k.arg 3 0 == a

/-- Changes the entry of every grain of the range. -/
def hintAll (s : State) (k : Taken) (f : Grain → Grain) : State := s.forAll (hintGrains k) (fun s g => s.setGrain g (f (s.grain g)))

/-- `PREFER_NEAR`, and the reserved actions: FAR grains become pending. -/
def execPreferNear (m : Fin 8) (s : State) : Outcome :=
  placeHint m (fun k => place 0 k || decide (10 ≤ k.arg 3 0)) s (fun k => [(!place 0 k, stBadArg)]) (fun k =>
    let s := hintAll s k (fun x => { x with preferNear := true, preferFar := false })
    s.forAll (hintEntries s k) (fun s e => if e.2.st = 4 then (grainGroup s e.1).foldl (fun s h => markPending s h 3) (s.setGrain e.1 { (s.grain e.1) with die := 4 }) else s))

/-- `PREFER_FAR`. -/
def execPreferFar (m : Fin 8) (s : State) : Outcome :=
  placeHint m (place 1) s (fun _ => []) (fun k => hintAll s k (fun x => { x with preferFar := true, preferNear := false }))

/-- `NO_PREFERENCE`. -/
def execNoPreference (m : Fin 8) (s : State) : Outcome :=
  placeHint m (place 2) s (fun _ => []) (fun k => hintAll s k (fun x => { x with preferFar := false, preferNear := false }))

/-- One pin on a grain: backed or promoted as needed. -/
def pinGrain (s : State) (d g : Nat) : State :=
  let x := s.grain g
  requestPromotion (s.setGrain g { x with pins := x.pins + 1 }) g d 0 4

/-- `PIN`. -/
def execPin (m : Fin 8) (s : State) : Outcome :=
  placeHint m (place 3) s (fun k =>
    let pinned := (hintEntries s k).filter (fun e => e.2.pins != 0)
    [(pinned.any (fun e => e.2.pins == 255) || decide (pinLimit < pinnedGrains s + hintCount k - pinned.length), stNoResource)])
    (fun k => s.forAll (hintGrains k) (fun s g => pinGrain s (k.arg 17 8) g))

/-- `UNPIN`. -/
def execUnpin (m : Fin 8) (s : State) : Outcome :=
  placeHint m (place 4) s (fun k => [(decide (((hintEntries s k).filter (fun e => e.2.pins != 0)).length ≠ hintCount k), stConflict)])
    (fun k => hintAll s k (fun x => { x with pins := x.pins - 1 }))

/-- Mirror frames that the FAR grains of a range need on a port. -/
def mirrorNeed (s : State) (k : Taken) (p : Nat) : Nat :=
  ((hintEntries s k).filter (fun e => e.2.st == 4 && !e.2.mirrorHeld && (otherPort e.2.farPort).val == p)).length

/-- `MIRROR`. -/
def execMirror (m : Fin 8) (s : State) : Outcome :=
  placeHint m (place 5) s (fun k =>
    [(!(s.cxl 0).inService || !(s.cxl 1).inService || decide (farFree s 0 < mirrorNeed s k 0 ∨ farFree s 1 < mirrorNeed s k 1), stNoResource)])
    (fun k =>
      let s := hintAll s k (fun x => { x with mirrored := true })
      s.forAll (hintEntries s k) (fun s e => if e.2.st = 4 then (giveMirror s e.1).1 else s))

/-- Clears mirrored and frees the mirror frame. -/
def unmirrorGrain (s : State) (g : Nat) : State :=
  let x := s.grain g
  let s := if x.mirrorHeld then freeFar s (otherPort x.farPort).val x.mirrorFrame.toNat else s
  s.setGrain g { x with mirrored := false, mirrorHeld := false, mirrorFrame := 0, degraded := false }

/-- `UNMIRROR`. -/
def execUnmirror (m : Fin 8) (s : State) : Outcome :=
  placeHint m (place 6) s (fun _ => []) (fun k => s.forAll (hintGrains k) unmirrorGrain)

/-- `SOURCE`: grain i of the range takes the i-th grain of the source. -/
def execSource (m : Fin 8) (s : State) : Outcome :=
  placeHint m (place 7) s (fun k =>
    let a := k.arg 239 192
    let n := k.arg 175 128
    [(decide (a % 65536 ≠ 0) || !(decide (a + n ≤ 0x100000000000) || decide (0x100000000000 ≤ a ∧ a + n ≤ 0x200000000000)), stBadArg)])
    (fun k => s.forAll (hintGrains k) (fun s g =>
      s.setGrain g { (s.grain g) with restorable := true, source := BitVec.ofNat 48 (k.arg 239 192 + 65536 * (g - hintStart k)) }))

/-- `RELEASE` (R192, R250). -/
def execRelease (m : Fin 8) (s : State) : Outcome :=
  placeHint m (place 8) s (fun k =>
    [((hintEntries s k).any (fun e => e.2.pins != 0 || e.2.cacheable) || (hintCount k != 0 && overlaps (hintStart k) (hintCount k) 0x08000000 0x07000000), stConflict)])
    (fun k => serveHeld (s.forAll (hintEntries s k) (fun s e => releaseGrain s e.1)))

/-- `HORIZON`: the domain and the range are ignored. -/
def execHorizon (m : Fin 8) (s : State) : Outcome :=
  runCmd s m 0x0401 (place 9) (fun k =>
    let us := k.arg 239 192
    refusing s m [(decide (us < 100 ∨ 100000 < us), stBadArg)] (fun _ => finish { s with tiers := { s.tiers with horizonNs := us * 1000 } } m stOk []))

/-! `SYNC_SIGNAL` (R344, R345). -/

/-- An action on the named object: its kinds, then ABANDONED, then its own refusals.  The body is the record once the home
has applied the action and granted what waited on the object (R330, R331); then what it released goes on. -/
def syncSignal (m : Fin 8) (mine : Taken → Bool) (s : State) (kinds : Fin 4 → Bool) (first : Taken → Bool) (rows : Taken → SyncObj → List (Bool × Nat))
    (body : SyncObj → SyncObj → SyncObj) (f : Taken → Nat → State) (go : State → State) : Outcome :=
  runCmd s m 0x0402 mine (fun k =>
    let a := k.arg 111 64
    let o := s.obj a
    refusing s m ([(first k, stBadArg), (o.st == 3 || !o.hostVisible || !kinds o.kind, stBadArg), (o.st == 2, stAbandoned)] ++ rows k o)
      (fun _ => finish (go (f k a)) m stOk (objBytes (body o ((f k a).obj a)))))

def isCounter (k : Fin 4) : Bool := k == 0 || k == 2
def isWord (k : Fin 4) : Bool := k == 1
def noRows (_ : Taken) (_ : SyncObj) : List (Bool × Nat) := []
def never (_ : Taken) : Bool := false
def sigValue (k : Taken) : Word32 := BitVec.ofNat 32 (k.arg 159 128)
def place15 (a : Nat) (k : Taken) : Bool := k.arg 3 0 == a

/-- `SYNC_SIGNAL_ADD`, and the reserved actions. -/
def execSyncSignalAdd (m : Fin 8) (s : State) : Outcome :=
  syncSignal m (fun k => place15 0 k || decide (6 ≤ k.arg 3 0)) s isCounter (fun k => !place15 0 k) noRows
    (fun _ o => o) (fun k a => changeCounter s a ((s.obj a).count + sigValue k)) settleEngines

/-- `SYNC_SIGNAL_SET`. -/
def execSyncSignalSet (m : Fin 8) (s : State) : Outcome :=
  syncSignal m (place15 1) s isCounter never noRows (fun _ o => o) (fun k a => changeCounter s a (sigValue k)) settleEngines

/-- `SYNC_SIGNAL_PUT`. -/
def execSyncSignalPut (m : Fin 8) (s : State) : Outcome :=
  syncSignal m (place15 2) s isWord never (fun _ o => [(o.full, stBusy)]) (fun _ o => o)
    (fun k a => serve (s.setObj a { (s.obj a) with full := true, value := BitVec.ofNat 64 (k.arg 191 128) }) a) (fun s => s)

/-- `SYNC_SIGNAL_TAKE`: the value field of the record holds the word taken. -/
def execSyncSignalTake (m : Fin 8) (s : State) : Outcome :=
  syncSignal m (place15 3) s isWord never (fun _ o => [(!o.full, stBusy)]) (fun before o => { o with value := before.value })
    (fun _ a => serve (s.setObj a { (s.obj a) with full := false }) a) (fun s => s)

/-- `SYNC_SIGNAL_QUERY`: of an ABANDONED object too the record is returned, with `ST_ABANDONED` (R344, R348). -/
def execSyncSignalQuery (m : Fin 8) (s : State) : Outcome :=
  runCmd s m 0x0402 (place15 4) (fun k =>
    let o := s.obj (k.arg 111 64)
    refusing s m [(o.st == 3 || !o.hostVisible, stBadArg)]
      (fun _ => finish s m (if o.st = 2 then stAbandoned else stOk) (objBytes o)))

/-- `NOTIFY` (R345): fires at once where the threshold is met. -/
def execNotify (m : Fin 8) (s : State) : Outcome :=
  syncSignal m (place15 5) s (· == 0) (fun k => decide (3 < k.arg 15 8)) (fun _ _ => [(decide (1024 ≤ s.sync.notifs.length), stNoResource)]) (fun _ o => o)
    (fun k a =>
      let n : Notif := ⟨a, sigValue k, Fin.ofNat 4 (k.arg 15 8)⟩
      fireNotifs { s with sync := { s.sync with notifs := s.sync.notifs ++ [n] } } a 0 (fun n => waitMet (s.obj a).count n.threshold))
    (fun s => s)

/-! Wake tolerance (R421, R461). -/

/-- `WAKE_TOLERANCE_SET`: a tolerance that no longer permits I4 ends it (Table 17.4). -/
def execWakeToleranceSet (m : Fin 8) (s : State) : Outcome :=
  runCmd s m 0x0501 anyAction (fun k =>
    let s := { s with cmd := { s.cmd with tolerance := k.arg 31 0 } }
    let s := if permitted s < 4 then wakeModule s else s
    finish s m stOk (leBytes 1 (permitted s)))

/-! Maintenance (R422, R423, R471 to R473). -/

/-- The targets of Table 15.5. -/
def maintTargetOk (a t : Nat) : Bool :=
  match a with
  | 1 => decide (t < 24 ∨ t = 0xFF)
  | 2 => decide (t < 24)
  | 3 => decide (t < 11)
  | 4 => true
  | 7 => decide (t < 4 ∨ t = 0xFF)
  | _ => false

/-- `NOTICE` of a port's plane to every member, the master and the backup. -/
def sendNotices (s : State) (port : Nat) (down : Bool) : State :=
  s.forAll ((peers s).filter (fun d => !(possibleSet s d).isEmpty)) (fun s d => sendControl s 8 d 0x3FF 0 0 0 ((if down then 8 else 0) + port) [])

/-- What an activity does when it starts (Table 17.11). -/
def maintBegin (s : State) (a t : Nat) : State :=
  let s := { s with idle := { s.idle with dies := (maintDies a t).foldl (fun (v : BitVec 4) d => v &&& ~~~(1#4 <<< d)) s.idle.dies } }
  match a with
  | 3 => if t < 8 then sendNotices (planeLost (s.setPort t { (s.port t) with st := 1, failed := 0 }) t (fun _ => true)) t true else s
  | 4 =>
    let again := s.time.serving && selfMaster s
    setTimeSt (s.modTime (fun u => { u with thetas := [], delays := [], good := 0, serving := false, startup := u.startup || again })) .acquiring
  | 7 => setRecal s (if t = 0xFF then 1 else 1#4 <<< t) true
  | _ => s

/-- `MAINT_START` with one activity. -/
def maintStart (m : Fin 8) (mine : Taken → Bool) (s : State) : Outcome :=
  runCmd s m 0x0502 mine (fun k =>
    let a := k.arg 7 0
    let t := if a = 4 then 0 else k.arg 15 8
    refusing s m [(!maintTargetOk a t, stBadArg), (decide (8 ≤ s.cmd.maint.length), stNoResource)] (fun _ =>
      match collides s a t with
      | some x => finish s m stBusy (maintBody x)
      | none =>
        let r := startMaint s (Fin.ofNat 8 a) t
        finish (maintBegin r.1 a t) m stOk (maintBody r.2)))

/-- `PATROL_SCRUB`, and the codes that MAINT_START does not start. -/
def execPatrolScrub (m : Fin 8) (s : State) : Outcome := maintStart m (fun k => !(action 2 k || action 3 k || action 4 k || action 7 k)) s
/-- `MEMORY_RETRAINING`. -/
def execMemoryRetraining (m : Fin 8) (s : State) : Outcome := maintStart m (action 2) s
/-- `LINK_RETRAINING`. -/
def execLinkRetraining (m : Fin 8) (s : State) : Outcome := maintStart m (action 3) s
/-- `TIME_RESYNCHRONISATION`. -/
def execTimeResynchronisation (m : Fin 8) (s : State) : Outcome := maintStart m (action 4) s
/-- `THERMAL_RECALIBRATION`. -/
def execThermalRecalibration (m : Fin 8) (s : State) : Outcome := maintStart m (action 7) s

/-- Lane sets whose best width is w. -/
def lanesFor (w : Nat) : List Nat := (List.range 16).filter (fun f => (widthOf (BitVec.ofNat 4 f)).val == w)

/-- A fabric port ends its retraining: the plane returns, narrower where fewer lanes trained (which of them failed is a
free value); at no width it is down (R377, R378). -/
def portRetrained (s : State) (p : Nat) (w : Fin 4) : State :=
  let x := s.port p
  let old := x.width
  if w = 0 then portGoesDown s p
  else
    let l := lanesFor w.val
    let f := BitVec.ofNat 4 (if w = 3 then 0 else l.getD (s.freeVal % l.length) 0)
    let s := (if w = 3 then s else s.bump).setPort p { x with st := 0, width := w, failed := f }
    let s := flush (sendNotices s p false)
    if w < old then
      emit (count s 0x1900) { type := 0x4006, severity := 4, scope := 5, items := [(8, p), (8, old.val), (8, w.val), (8, f.toNat)] }
    else s

/-- A CXL port ends its retraining; a narrower one reports it (R473), its failed lanes being a free value. -/
def cxlRetrained (s : State) (p : Fin 2) (w : Fin 4) : State :=
  let old := (s.cxl p.val).width
  if !(s.cxl p.val).inService then s
  else if w = 0 then serveHeld (portOut s p 3)
  else
    let s := s.setCxl p.val { (s.cxl p.val) with width := w }
    if w < old then emit s.bump { type := 0x4006, severity := 4, scope := 5, items := [(8, 9 + p.val), (8, old.val), (8, w.val), (8, s.freeVal)] } else s

/-- A weak frame's grain moves and the frame is retired (R482). -/
def moveWeak (s : State) (g : Nat) : State :=
  let x := s.grain g
  if x.st = 2 ∨ x.st = 3 then
    let r := moveGrain s g (preferredStack s g)
    if r.2 then r.1.setGrain g { (r.1.grain g) with retire := true } else s
  else s

/-- What an activity leaves when it ends; says whether it ends DONE.  The channel and the symbol of the latest correction of a
patrol pass are free values (log entry 81). -/
def maintFinish (s : State) (x : Maint) (r : MaintResult) : State × Bool :=
  match x.activity.val with
  | 1 => ((s.forAll r.corrections (fun s c => reportCorrections s.bump c.1.val c.2 (s.freeVal % 4) (s.freeVal / 4 % 67))).forAll r.weakGrains (fun s g => moveWeak s g.toNat), true)
  | 3 =>
    if x.target < 8 then (portRetrained s x.target r.width, decide ((s.port x.target).width ≤ r.width))
    else if x.target = 8 then (s, r.done)
    else
      let p := Fin.ofNat 2 (x.target - 9)
      (cxlRetrained s p r.width, decide ((s.cxl p.val).width ≤ r.width))
  | 5 =>
    let other : Fin 2 := if s.prot.bank = 0 then 1 else 0
    if r.done then ({ s with prot := { s.prot with banks := tabPut none s.prot.banks other.val s.prot.accepted } }, true)
    else ({ s with prot := { s.prot with accepted := none } }, false)
  | 7 => (setRecal s (if x.target = 0xFF then 15 else 1#4 <<< x.target) false, r.done)
  | _ => (s, r.done)

/-- An instance leaves the active ones, and its end is reported (R473). -/
def endMaint (s : State) (x : Maint) (done : Bool) : State :=
  let s := { s with cmd := { s.cmd with maint := s.cmd.maint.filter (fun y => y.inst != x.inst), ended := ({ x with st := if done then 1 else 2 } :: s.cmd.ended).take 8 } }
  let st := if done then stOk else stNoResource
  emit s { type := 0x5002, status := st, severity := if done then 0 else 4, scope := if done then 0 else 5, items := [(32, x.inst.toNat), (8, x.activity.val), (16, x.target)] }

/-- `MAINT_INSTANCE_END` (R473); a scrub ends by SCRUB_COMPLETE. -/
def execMaintInstanceEnd (inst : BitVec 32) (r : MaintResult) (s : State) : Outcome :=
  match s.cmd.maint.find? (fun x => x.inst == inst && x.activity != 6) with
  | none => .next s
  | some x =>
    let w := maintFinish s x r
    .next (endMaint w.1 x w.2)

/-- Progress of an instance: 100 where it is DONE, a free percentage otherwise. -/
def maintProgress (s : State) (x : Maint) : State × Nat := if x.st = 1 then (s, 100) else (s.bump, s.freeVal % 101)

def maintEntries (s : State) (l : List Maint) : State × List (List Byte) :=
  l.foldl (fun p x => let r := maintProgress p.1 x; (r.1, p.2 ++ [maintEntry x r.2])) (s, [])

/-- `MAINT_STATUS` (R423). -/
def execMaintStatus (m : Fin 8) (s : State) : Outcome :=
  runCmd s m 0x0503 anyAction (fun k =>
    let i := BitVec.ofNat 32 (k.arg 31 0)
    let l := if i = 0xFFFFFFFF then activeMaint s else ((s.cmd.maint ++ s.cmd.ended).filter (fun x => x.inst == i)).take 1
    if l.isEmpty && i != 0xFFFFFFFF then refuse s m stBadArg
    else
      let e := maintEntries s l
      finishList e.1 m (fun n => leBytes 4 n) e.2)

/-! `COUNTER_READ` (R424, Table 15.7). -/

/-- Entries and entry bytes of a space. -/
def spaceOf (sp : Nat) : Option (Nat × Nat) :=
  match sp with
  | 0 => some (65536, 16) | 1 => some (256, 64) | 2 => some (64, 64) | 3 => some (16384, 16) | 4 => some (4096, 64) | 5 => some (1, 16) | 6 => some (131072, 64) | _ => none

def counterEntry (n : Nat) (c : Counter) : List Byte := leBytes 16 (packBits [(64, c.value), (1, b2n c.overflow), (31, 0), (32, n)])

/-- Entry i of a space. -/
def spaceEntry (s : State) (sp a i : Nat) : List Byte :=
  match sp with
  | 0 => counterEntry i (s.counter i)
  | 1 => queueBytes (s.queue (Fin.ofNat 256 i))
  | 2 => ringEntryBytes s (s.ring i)
  | 3 => bindingBytes (s.bind i)
  | 4 => groupEntryBytes s i
  | 5 => objBytes (s.obj a)
  | _ => seqEntryBytes (s.seq i)

/-- Sets counters to 0 and clears their overflow flags. -/
def clearCounters (s : State) (first n : Nat) : State :=
  { s with counters := s.counters.filter (fun e => !(decide (first ≤ e.1) && decide (e.1 < first + n))) }

/-- `COUNTER_READ`. -/
def execCounterRead (m : Fin 8) (s : State) : Outcome :=
  runCmd s m 0x0601 anyAction (fun k =>
    let sp := k.arg 7 0
    let first := if sp = 5 then 0 else k.arg 95 64
    let n := if sp = 5 then 1 else k.arg 111 96
    let clear := bitAt k.num 8
    let a := k.arg 63 16
    match spaceOf sp with
    | none => refuse s m stBadArg
    | some (size, bytes) =>
      if n < 1 ∨ 4096 < n ∨ size < first + n ∨ (clear ∧ sp ≠ 0) ∨ (sp = 5 ∧ !(s.obj a).live) then refuse s m stBadArg
      else
        let fit := if k.respLen = 0 then n else min n ((k.respLen - 24) / bytes)
        let body := leBytes 4 fit ++ leBytes 4 bytes ++ (List.range fit).flatMap (fun i => spaceEntry s sp a (first + i))
        finish (if clear then clearCounters s first n else s) m stOk body)

end Sys2Proof.Machine
end

