-- ==== Sys2Proof/Machine/Ecdsa.lean ====
section
/-! DEFINITION. Verification of ECDSA P-384 signatures with SHA-384, which the manual names (R429); the curve and the
algorithm are those of FIPS 186-5 (log entry 13). -/

namespace Sys2Proof.Machine

/-- The field, the order of the base point and the coefficient b of P-384; a is −3. -/
def ecP : Nat := 2 ^ 384 - 2 ^ 128 - 2 ^ 96 + 2 ^ 32 - 1
def ecN : Nat := 0xFFFFFFFFFFFFFFFFFFFFFFFFFFFFFFFFFFFFFFFFFFFFFFFFC7634D81F4372DDF581A0DB248B0A77AECEC196ACCC52973
def ecB : Nat := 0xB3312FA7E23EE7E4988E056BE3F82D19181D9C6EFE8141120314088F5013875AC656398D8A2ED19D2A85C8EDD3EC2AEF

/-- A point (X / Z², Y / Z³); at infinity Z is 0. -/
structure EcPoint where
  x : Nat
  y : Nat
  z : Nat
  deriving DecidableEq, Repr

/-- The base point. -/
def ecG : EcPoint :=
  { x := 0xAA87CA22BE8B05378EB1C71EF320AD746E1D3B628BA79B9859F741E082542A385502F25DBF55296C3A545E3872760AB7
    y := 0x3617DE4A96262C6F5D9E98BF9292DC29F8F41DBD289A147CE9DA3113B5F0B8C00A60B1CE1D7E819D7A431D7C90EA0E5F, z := 1 }

def ecInf : EcPoint := ⟨1, 1, 0⟩

/-- Twice a point. -/
def ecDouble (u : EcPoint) : EcPoint :=
  let d := u.z * u.z % ecP
  let g := u.y * u.y % ecP
  let b := u.x * g % ecP
  let a := 3 * (u.x + ecP - d) * (u.x + d) % ecP
  let x := (a * a + 8 * (ecP - b)) % ecP
  ⟨x, (a * (4 * b + ecP - x) + 8 * (ecP - g * g % ecP)) % ecP, 2 * u.y * u.z % ecP⟩

/-- The sum of two points. -/
def ecAdd (u v : EcPoint) : EcPoint :=
  if u.z = 0 then v
  else if v.z = 0 then u
  else
    let z1 := u.z * u.z % ecP
    let z2 := v.z * v.z % ecP
    let u1 := u.x * z2 % ecP
    let u2 := v.x * z1 % ecP
    let s1 := u.y * v.z * z2 % ecP
    let s2 := v.y * u.z * z1 % ecP
    if u1 = u2 then if s1 = s2 then ecDouble u else ecInf
    else
      let h := (u2 + ecP - u1) % ecP
      let r := (s2 + ecP - s1) % ecP
      let hh := h * h % ecP
      let hhh := h * hh % ecP
      let w := u1 * hh % ecP
      let x := (r * r + (ecP - hhh) + 2 * (ecP - w)) % ecP
      ⟨x, (r * (w + ecP - x) + (ecP - s1 * hhh % ecP)) % ecP, u.z * v.z * h % ecP⟩

/-- a·u + b·v, given w = u + v, from the bits below k down; `acc` is the sum of the bits above. -/
def ecSum (a b : Nat) (u v w : EcPoint) : Nat → EcPoint → EcPoint
  | 0, acc => acc
  | k + 1, acc =>
    let d := ecDouble acc
    ecSum a b u v w k
      (match a.testBit k, b.testBit k with
      | false, false => d
      | true, false => ecAdd d u
      | false, true => ecAdd d v
      | true, true => ecAdd d w)

/-- x^e modulo n, over the bits of e below k. -/
def powMod (n x e : Nat) : Nat → Nat → Nat
  | 0, acc => acc
  | k + 1, acc => powMod n x e k (if e.testBit k then acc * acc % n * x % n else acc * acc % n)

/-- Half i of a key or signature: 48 bytes, big-endian (R429), of the number that its 96 bytes are little-endian. -/
def ecHalf (v i : Nat) : Nat := beNat (leBytes 48 (v / 2 ^ (384 * i)))

/-- The signature of a message verifies under a public key. -/
def ecdsaVerifies (key : Nat) (msg : List Byte) (sig : Nat) : Bool :=
  let q : EcPoint := ⟨ecHalf key 0, ecHalf key 1, 1⟩
  let r := ecHalf sig 0
  let t := ecHalf sig 1
  if ecP ≤ q.x ∨ ecP ≤ q.y ∨ q.y * q.y % ecP ≠ (q.x * q.x * q.x + (ecP - 3) * q.x + ecB) % ecP then false
  else if r = 0 ∨ ecN ≤ r ∨ t = 0 ∨ ecN ≤ t then false
  else
    let e := beNat (sha384 msg)
    let w := powMod ecN t (ecN - 2) 384 1
    let p := ecSum (e * w % ecN) (r * w % ecN) ecG q (ecAdd ecG q) 384 ecInf
    p.z != 0 && (r * p.z * p.z % ecP == p.x || (decide (r + ecN < ecP) && (r + ecN) * p.z * p.z % ecP == p.x))

end Sys2Proof.Machine
end

