-- ==== Sys2Proof/Machine/LoadRecords.lean ====
section
/-! DEFINITION. Loader checks on the header, the section directory and the records of a schedule image (R99 to R113, the
rows 0x0101 to 0x0310 of Table 4.20).  Each check answers the byte offsets at which the image fails it. -/

namespace Sys2Proof.Machine

/-- A loader check: its code, the status of its refusal, and the offsets that fail it. -/
abbrev LoadCheck := Nat × Nat × (Unit → List Nat)

/-- The offset o where the condition holds. -/
def failIf (b : Bool) (o : Nat) : List Nat := if b then [o] else []

/-- A bit outside the named fields is set (R101). -/
def stray (named : List (Nat × Nat)) (e : Nat) : Bool := e &&& fieldBits named != e

/-- Byte offset of entry k of a section. -/
def secAt (img type k : Nat) : Nat := (secDir img type).1 + k * secSize type

/-- Offsets of the entries of a section that satisfy a condition. -/
def badEntries (img type : Nat) (p : Nat → Bool) : List Nat :=
  ((secAll img type).filter (fun e => p e.2)).map (fun e => secAt img type e.1)

/-- Places of the items that clash with an earlier one: a pair fails at its later item (R99). -/
def laterClash {α : Type} (clash : α → α → Bool) : List α → List (Nat × α) → List Nat
  | _, [] => []
  | seen, (o, x) :: t => (if seen.any (fun y => clash y x) then [o] else []) ++ laterClash clash (x :: seen) t

/-- Offsets of the entries of a section that clash with an earlier entry. -/
def clashEntries (img type : Nat) (clash : Nat → Nat → Bool) : List Nat :=
  laterClash clash [] ((secAll img type).map (fun e => (secAt img type e.1, e.2)))

/-! Header (Table 4.2). -/

/-- The digest of the image, its own field taken as zero (R102), differs from that field. -/
def digestWrong (l : List Byte) : Bool :=
  sha384 (l.take 96 ++ List.replicate 48 0 ++ l.drop 144) != (l.drop 96).take 48

/-- Frames of an image copy. -/
def copyFrames (len : Nat) : Nat := cdiv len 65536

/-- Near memory owned by firmware has room for one more copy (R98, R185): the reserved frames of the stacks in service
hold the copies of the loaded images and this one.  What firmware's other uses take is not stated (log entry 106). -/
def copyRoom (s : State) (len : Nat) : Bool :=
  decide ((allSlots.map (fun n => if (s.slot n).loaded then copyFrames (s.slot n).length else 0)).sum + copyFrames len ≤
    nearFirst * ((List.range 24).filter (stackUp s)).length)

def headerChecks (s : State) (l : List Byte) (img : Nat) : List LoadCheck :=
  [ (0x0101, stBadArg, fun _ => failIf (bits img 31 0 != 0x49534C4E) 0),
    (0x0102, stBadArg, fun _ => failIf (bits img 47 32 != 1) 4 ++ failIf (bits img 63 48 != 0) 6),
    (0x0103, stBadArg, fun _ => failIf (decide (bits img 191 128 ≠ l.length ∨ 2 ^ 28 < l.length)) 16),
    (0x0104, stBadArg, fun _ => failIf (digestWrong l) 96),
    (0x0105, stBadArg, fun _ => failIf (decide (4 < bits img 719 704)) 88),
    (0x0108, stBadArg, fun _ => failIf (bits img 95 65 != 0) 8 ++ failIf (bits img 2047 1152 != 0) 144),
    (0x0106, stNoResource, fun _ =>
      failIf (allTiles.any (fun t => (hdrTileMap img).testBit t.val && (s.tile t).failed)) 64 ++
      failIf (allAes.any (fun e => (hdrAeMap img).testBit e.val && (s.ae e).failed)) 92),
    (0x0107, stNoResource, fun _ => failIf (allSlots.all (fun n => (s.slot n).loaded) || !copyRoom s l.length) 0) ]

/-! Section directory (Table 4.3). -/

/-- Directory entries that lie inside the image: byte offset and contents. -/
def dirEntries (img len : Nat) : List (Nat × Nat) :=
  (List.range (min (hdrSections img) ((len - hdrDirOffset img) / 32))).map (fun i => (hdrDirOffset img + 32 * i, dirEntry img i))

def dirType (e : Nat) : Nat := bits e 15 0
def dirStart (e : Nat) : Nat := bits e 127 64
def dirLength (e : Nat) : Nat := bits e 191 128
def dirCount (e : Nat) : Nat := bits e 223 192

/-- Two ranges share a byte. -/
def meets (a la b lb : Nat) : Bool := decide (0 < la) && decide (0 < lb) && overlaps a la b lb

/-- Largest entry count of a section (Table 4.1). -/
def secLimit (type : Nat) : Nat :=
  match type with
  | 1 => 4194304 | 2 => 768 | 3 => 8192 | 4 => 65536 | 6 => 65536 | 7 => 262144 | 8 => 16 | 9 => 256 | 10 => 65536
  | 11 => 65536 | 12 => 65536 | 13 => 4096 | 14 => 32 | _ => 2 ^ 32

def directoryChecks (img len : Nat) : List LoadCheck :=
  let es := dirEntries img len
  let d := hdrDirOffset img
  let n := 32 * hdrSections img
  [ (0x0201, stBadArg, fun _ =>
      failIf (decide (len < d + n ∨ d % 32 ≠ 0) || meets 0 256 d n) 24 ++
      (es.filter (fun e =>
        stray [(255, 64), (15, 0)] e.2 || decide (len < dirStart e.2 + dirLength e.2 ∨ dirStart e.2 % 256 ≠ 0) ||
        meets 0 256 (dirStart e.2) (dirLength e.2) || meets d n (dirStart e.2) (dirLength e.2))).map (·.1) ++
      laterClash (fun a b => meets (dirStart a) (dirLength a) (dirStart b) (dirLength b)) []
        (sortBy (fun a b => decide (dirStart a.2 < dirStart b.2 ∨ (dirStart a.2 = dirStart b.2 ∧ a.1 ≤ b.1))) es)),
    (0x0202, stBadArg, fun _ => (es.filter (fun e => secSize (dirType e.2) == 0)).map (·.1)),
    (0x0203, stBadArg, fun _ => laterClash (fun a b => dirType a == dirType b) [] es),
    (0x0204, stBadArg, fun _ => failIf ([1, 2, 3].any (fun t => !es.any (fun e => dirType e.2 == t))) 24),
    (0x0205, stBadArg, fun _ =>
      failIf (decide (256 < hdrOpCount img)) 90 ++
      (es.filter (fun e =>
        let z := secSize (dirType e.2)
        decide (bits e.2 255 224 ≠ z ∨ dirLength e.2 ≠ dirCount e.2 * z ∨ secLimit (dirType e.2) < dirCount e.2))).map (·.1)) ]

/-! Records (Tables 4.5 to 4.13a). -/

/-- Buffer range (Table 4.6). -/
def brTile (e : Nat) : Nat := bits e 15 0
def brOwner (e : Nat) : Nat := bits e 23 16
def brOffset (e : Nat) : Nat := bits e 95 64
def brLength (e : Nat) : Nat := bits e 127 96

def badContextEntry (img e : Nat) : Bool :=
  let c := ctxEntryOf e
  stray [(63, 32), (25, 24), (17, 0)] e || !(decide (c.tile < 192) && (hdrTileMap img).testBit c.tile) || decide (c.entry % 16 ≠ 0 ∨ codeBytes img ≤ c.entry)

def badBuffer (e : Nat) : Bool :=
  let o := brOffset e
  let n := brLength e
  stray [(127, 64), (23, 0)] e || decide (o % 256 ≠ 0 ∨ n % 256 ≠ 0 ∨ n = 0 ∨ 191 < brTile e) || !inRegion (regionOf o) o n ||
  (regionOf o == 3 && decide (o % 65536 ≠ 0 ∨ n % 65536 ≠ 0)) || !(decide (brOwner e < 4) || (decide (0x80 ≤ brOwner e) && decide (brOwner e < 0xA0)))

def badOperation (img e : Nat) : Bool :=
  let reg := fun x => decide (7 < x ∧ x ≠ 0xFF)
  stray [(127, 64), (47, 0)] e || decide (hdrOpCount img ≤ bits e 15 0 ∨ 3 < bits e 47 40) || reg (bits e 39 32) || reg (bits e 31 24) || reg (bits e 23 16)

/-- Tile plan entry (Table 4.12). -/
def tpOp (e : Nat) : Nat := bits e 31 16
def tpKind (e : Nat) : Nat := bits e 39 32

/-- The operation entry of an operation index. -/
def operationOf (img op : Nat) : Option Nat := ((secAll img 9).find? (fun e => bits e.2 15 0 == op)).map (·.2)

def badTilePlan (img e : Nat) : Bool :=
  stray [(215, 0)] e || decide (1 < tpKind e ∨ 191 < bits e 15 0) ||
  (match operationOf img (tpOp e) with
    | none => true
    | some o =>
      if tpKind e = 0 then
        let beyond := fun first stride count total => decide (0 < count ∧ total ≤ first + (count - 1) * stride)
        decide (0 < bits e 135 104 ∧ 0 < bits e 183 168) &&
        (beyond (bits e 71 40) (bits e 103 72) (bits e 135 104) (bits o 95 64) || beyond (bits e 151 136) (bits e 167 152) (bits e 183 168) (bits o 127 96))
      else
        let k := bits e 199 184
        bits e 215 200 == 0 || decide (secCount img 6 ≤ k) || bits (secEntry img 6 k) 7 0 != 2)

/-- x is one of first, first + stride, …, count of them. -/
def inSteps (first stride count x : Nat) : Bool :=
  decide (0 < count) && (if stride = 0 then x == first else decide (first ≤ x) && (x - first) % stride == 0 && decide ((x - first) / stride < count))

/-- Two progressions have a member in common. -/
def stepsMeet (f₁ s₁ c₁ f₂ s₂ c₂ : Nat) : Bool := (List.range c₁).any (fun i => inSteps f₂ s₂ c₂ (f₁ + i * s₁))

/-- Two tile plan entries of one operation are of different kinds, or static with a block in common (R88, R112). -/
def sharesClash (a b : Nat) : Bool :=
  tpOp a == tpOp b &&
  (tpKind a != tpKind b ||
    (tpKind a == 0 && stepsMeet (bits a 71 40) (bits a 103 72) (bits a 135 104) (bits b 71 40) (bits b 103 72) (bits b 135 104) &&
      stepsMeet (bits a 151 136) (bits a 167 152) (bits a 183 168) (bits b 151 136) (bits b 167 152) (bits b 183 168)))

/-- Bits of a level-0 or level-1 piece. -/
def wpBits (e : Nat) : Nat := wpRows e * wpCols e * fmtBits (wpFormat e)

/-- Check 0x0310 on an entry whose format code is not reserved. -/
def badWeight (s : State) (e : Nat) : Bool :=
  let l := wpLevel e
  fmtKnown (wpFormat e) &&
  (stray [(255, 128), (111, 96), (82, 0)] e || decide (3 < l) || (wpRestorable e && wpSource e == 0) ||
    (decide (l ≤ 1) && (decide (wpAddress e % 65536 ≠ 0 ∨ wpBits e % (8 * 65536) ≠ 0) ||
      (wpGrains e).any (fun g => (s.grain g).st != 0 && (s.grain g).domain != 0x3FF))) ||
    (l == 3 && (!fmtMatrix (wpFormat e) || decide (wpCols e ≠ 128 ∨ wpRows e % 32 ≠ 0 ∨ wpRows e < 32 ∨ maxDepth (wpFormat e) < wpRows e))))

def recordChecks (s : State) (img : Nat) : List LoadCheck :=
  let same := fun (hi lo a b : Nat) => bits a hi lo == bits b hi lo
  [ (0x0301, stBadArg, fun _ => badEntries img 2 (badContextEntry img)),
    (0x0302, stConflict, fun _ => clashEntries img 2 (same 17 0)),
    (0x0303, stBadArg, fun _ => badEntries img 3 badBuffer),
    (0x0304, stConflict, fun _ => clashEntries img 3 (fun a b => brTile a == brTile b && overlaps (brOffset a) (brLength a) (brOffset b) (brLength b))),
    (0x0305, stBadArg, fun _ => badEntries img 3 (fun e => decide (0x80 ≤ brOwner e ∧ (brOwner e - 0x80) / 8 ≠ brTile e / 48))),
    (0x0306, stBadArg, fun _ => badEntries img 5 (fun e =>
      stray [(63, 48), (31, 24), (17, 0)] e || decide (bits e 31 24 / 64 ≠ bits e 15 0 / 48 ∨ bits e 63 48 = 0))),
    (0x0307, stConflict, fun _ => clashEntries img 5 (same 31 24)),
    (0x0308, stBadArg, fun _ => badEntries img 6 (fun e => stray [(95, 64), (33, 32), (15, 0)] e || decide (2 < bits e 7 0 ∨ 3 < bits e 15 8))),
    (0x0309, stBadArg, fun _ => badEntries img 7 (fun e =>
      stray [(63, 32), (25, 24), (15, 0)] e || decide (secCount img 6 ≤ bits e 63 48) ||
      !(decide (bits e 15 0 < 192) || (decide (0x8000 ≤ bits e 15 0) && decide (bits e 15 0 < 0x8020))))),
    (0x030A, stConflict, fun _ => clashEntries img 7 (fun a b => same 47 0 a b)),
    (0x030B, stConflict, fun _ => clashEntries img 8 (same 3 0)),
    (0x030C, stBadArg, fun _ => badEntries img 8 (fun e => stray [(255, 32), (3, 0)] e || bits e 255 32 == 0)),
    (0x030D, stBadArg, fun _ => badEntries img 9 (badOperation img) ++ clashEntries img 9 (same 15 0)),
    (0x030E, stBadArg, fun _ => badEntries img 10 (badTilePlan img)),
    (0x030F, stConflict, fun _ => clashEntries img 10 sharesClash),
    (0x0310, stBadArg, fun _ => badEntries img 11 (badWeight s)) ]

end Sys2Proof.Machine
end

