-- ==== Sys2Proof/Machine/LoadCode.lean ====
section
/-! DEFINITION. Loader checks on formats, descriptors, micro-programs and code (the rows 0x0311 to 0x0501 of Table 4.20,
with Tables 5.6, 6.4, 8.4 and 11.4, and R106, R123, R127, R128, R130). -/

namespace Sys2Proof.Machine

/-! The code of each context (R128). -/

/-- A context of the image: the words reached from its entry with their indices, and the address registers that a
reached AADD writes (R106). -/
structure CtxCode where
  tile : Nat
  ctx : Nat
  words : List (Nat × Nat)
  writes : List Nat
  deriving DecidableEq, Repr

def ctxCodes (img : Nat) : List CtxCode :=
  (ctxEntries img).map (fun c =>
    let ws := (reach img c.entry).map (fun i => (i, codeWord img i))
    { tile := c.tile, ctx := c.ctx, words := ws, writes := (ws.filter (fun w => wOp w.2 == 0x05)).map (fun w => bits w.2 111 108) })

/-- The contexts that issue an instruction satisfying p, each with the word. -/
def issuers (cs : List CtxCode) (p : Nat → Bool) : List (CtxCode × Nat) :=
  cs.flatMap (fun c => (c.words.filter (fun w => p w.2)).map (fun w => (c, w.2)))

/-- The operand fields of an opcode; none where it is reserved (Tables 4.15 to 4.18). -/
def operandFields (op : Nat) : Option (List (Nat × Nat)) :=
  match op with
  | 0x00 => some []
  | 0x01 => some [(111, 107), (63, 0)]
  | 0x02 => some [(111, 90), (31, 0)]
  | 0x03 => some [(111, 94), (31, 0)]
  | 0x04 => some [(111, 101)]
  | 0x05 => some [(111, 98), (47, 0)]
  | 0x06 => some [(111, 101)]
  | 0x07 => some [(111, 74)]
  | 0x08 => some [(111, 105), (103, 74)]
  | 0x0E => some [(31, 0)]
  | 0x0F => some [(111, 87), (63, 0)]
  | 0x10 => some []
  | 0x20 => some [(111, 43)]
  | 0x30 => some [(111, 11)]
  | 0x31 => some [(111, 11)]
  | 0x32 => some [(111, 11)]
  | 0x40 => some [(111, 73)]
  | 0x41 => some [(111, 69), (47, 0)]
  | 0x42 => some [(111, 84)]
  | 0x43 => some [(111, 86)]
  | 0x50 => some [(111, 91), (31, 0)]
  | 0x51 => some [(111, 91), (31, 0)]
  | 0x52 => some [(111, 91)]
  | 0x53 => some [(111, 91)]
  | 0x54 => some [(111, 86), (31, 0)]
  | 0x55 => some [(111, 107)]
  | 0x56 => some [(111, 99)]
  | _ => none

/-- A reserved opcode, function code, condition or source, or a reserved field that is not 0 (check 0x0401). -/
def badWord (w : Nat) : Bool :=
  match operandFields (wOp w) with
  | none => true
  | some fs =>
    stray ((127, 115) :: fs) w ||
    (match wOp w with
      | 0x02 => decide (0x0E < bits w 111 106)
      | 0x03 => decide (5 < bits w 108 105)
      | 0x06 => decide (bits w 106 101 = 15 ∨ 39 < bits w 106 101)
      | 0x30 => decide (8 < bits w 111 106)
      | 0x31 => decide (9 < bits w 111 106 ∧ bits w 111 106 < 0x20)
      | 0x32 => decide (6 < bits w 111 106 ∨ bits w 83 82 ≠ 0)
      | _ => false)

/-- VOP reads its operand b from SRAM (R123).  Where bsel is 01, b is the scalar register: that fmt_b and opb then are
not judged by 0x0311 or 0x0402, though R123's list of ignored fields does not name them, is the model's choice (log
entry 103). -/
def vopReadsB (w : Nat) : Bool := decide (bits w 111 106 < 6) && bits w 83 82 != 1

/-- A format code that the unit of an instruction does not take (check 0x0311, R134). -/
def badFormat (w : Nat) : Bool :=
  let d := bits w 105 102
  let a := bits w 101 98
  match wOp w with
  | 0x20 => !fmtMatrix d || !fmtMatrix a
  | 0x30 => !fmtVector d || !fmtVector a || (vopReadsB w && !fmtVector (bits w 97 94))
  | 0x31 => !sfnFmt d || !sfnFmt a
  | 0x32 => d != 0 || !fmtVector a
  | _ => false

/-- An SRAM operand of a word: region, address register, byte offset in the region, and the extent that the word fixes
(R106). -/
structure FixedOp where
  region : Nat
  areg : Nat
  off : Nat
  len : Nat
  deriving DecidableEq, Repr

/-- A 22-bit operand field (R117). -/
def fieldOp (v len : Nat) : FixedOp := ⟨bits v 21 19, bits v 18 15, bits v 14 0 * 256, len⟩

/-- The SRAM operands of a word with the extents that it fixes.  For ROWSTAT's destination R106 names no extent of its own:
4 bytes, the FP32 result of the first row, is the model's choice (log entry 104). -/
def wordOps (w : Nat) : List FixedOp :=
  match wOp w with
  | 0x07 => [⟨bits w 103 101, bits w 100 97, bits w 96 74, 2 ^ bits w 106 105⟩]
  | 0x08 => [⟨bits w 103 101, bits w 100 97, bits w 96 74, 2 ^ bits w 106 105⟩]
  | 0x41 => [⟨bits w 102 100, bits w 99 96, bits w 95 73, bits w 110 103 + 1⟩]
  | 0x20 =>
    let g := bits w 97 92 + 1
    [fieldOp (bits w 86 65) (g * groupBytes (bits w 105 102)), fieldOp (bits w 64 43) (g * groupBytes (bits w 101 98))]
  | 0x30 =>
    let b := if bits w 83 82 = 3 then 1 else 128
    [fieldOp (bits w 76 55) (128 * fmtSize (bits w 105 102)), fieldOp (bits w 54 33) (128 * fmtSize (bits w 101 98))] ++
      (if vopReadsB w then [fieldOp (bits w 32 11) (b * fmtSize (bits w 97 94))] else [])
  | 0x31 => [fieldOp (bits w 76 55) (128 * fmtSize (bits w 105 102)), fieldOp (bits w 54 33) (128 * fmtSize (bits w 101 98))]
  | 0x32 => [fieldOp (bits w 76 55) 4, fieldOp (bits w 54 33) (128 * fmtSize (bits w 101 98))]
  | _ => []

/-- A reserved region code, or a region that Table 3.3 or R65 does not permit (check 0x0402). -/
def badRegion (w : Nat) : Bool :=
  let rs := (wordOps w).map (·.region)
  rs.any (fun r => decide (4 < r)) ||
  (match wOp w with
    | 0x20 =>
      let a := rs.getD 0 0
      let b := rs.getD 1 0
      decide (2 < a ∨ 2 < b) || (if bitAt w 106 then b != 0 else a != 0)
    | 0x41 => !bitAt w 111 && rs.getD 0 0 == 3
    | _ => false)

/-- The ranges of an owner on a tile (R106). -/
def ownRanges (img tile owner : Nat) : List (Nat × Nat) :=
  ((secAll img 3).filter (fun e => brTile e.2 == tile && brOwner e.2 == owner)).map (fun e => (brOffset e.2, brLength e.2))

/-- Every byte of [o, o + n) lies in one of the ranges, which do not overlap each other. -/
def covered (rs : List (Nat × Nat)) (o n : Nat) : Bool :=
  (rs.map (fun r => min (o + n) (r.1 + r.2) - max o r.1)).sum == n

/-- Offsets of the words of CODE that satisfy p. -/
def badWords (img : Nat) (p : Nat → Bool) : List Nat := badEntries img 1 p

/-- Offsets of the reached words that satisfy p for some context that reaches them. -/
def badReached (img : Nat) (cs : List CtxCode) (p : CtxCode → Nat → Nat → Bool) : List Nat :=
  cs.flatMap (fun c => (c.words.filter (fun w => p c w.1 w.2)).map (fun w => secAt img 1 w.1))

/-- A loop of the code: the LOOP, the last word of its body, its level. -/
structure LoopBody where
  at' : Nat
  last : Nat
  level : Nat
  deriving DecidableEq, Repr

def loopBodies (img : Nat) : List LoopBody :=
  ((secAll img 1).filter (fun w => wOp w.2 == 0x0F)).map (fun w => LoopBody.mk w.1 (w.1 + wLoopBody w.2) (bits w.2 111 109))

/-- Word i lies in the body. -/
def LoopBody.holds (b : LoopBody) (i : Int) : Bool := decide ((b.at' : Int) < i ∧ i ≤ b.last)

/-! Bindings. -/

/-- The object that a vid of a context names is a sequence counter. -/
def boundCounter (img unit ctx vid : Nat) : Bool :=
  match bindingOf img unit ctx vid with
  | some k => bits (secEntry img 6 k) 7 0 == 0
  | none => false

def vidOk (img unit ctx vid : Nat) : Bool := vid == 0xFFFF || boundCounter img unit ctx vid

/-! Stream descriptors (Table 6.4). -/

/-- Lowest offset and length of what lies between the first and last byte that the visits of one endpoint touch (R152, R155). -/
def sdExtent (d base : Nat) (stride : Nat → Int) (fmt : Nat) : Int × Int :=
  if fmt = 6 then (base, sdCount d 2 * 2176)
  else
    let span := fun (j : Nat) => ((sdCount d j : Int) - 1) * stride j
    let lo := [1, 2, 3, 4].foldl (fun (a : Int) j => a + min 0 (span j)) base
    let hi := [1, 2, 3, 4].foldl (fun (a : Int) j => a + max 0 (span j)) base
    (lo, hi - lo + (sdCount d 0 * fmtSize fmt : Nat))

/-- The runs of bytes that the visits touch, by offset and length. -/
def sdRuns (d base : Nat) (stride : Nat → Int) (fmt : Nat) : List (Int × Nat) :=
  if fmt = 6 then [((base : Int), sdCount d 2 * 2176)]
  else
    let starts := [1, 2, 3, 4].foldl (fun (l : List Int) j =>
      (l.flatMap (fun a => (List.range (sdCount d j)).map (fun (i : Nat) => a + (i : Int) * stride j))).eraseDups) [(base : Int)]
    starts.map (fun a => (a, sdCount d 0 * fmtSize fmt))

/-- A tile SRAM address is well formed (Table 6.2). -/
def sramAddrOk (a : Nat) : Bool := bits a 47 40 == 0 && bits a 31 23 == 0 && decide (saTile a < 192)

/-- One tile SRAM endpoint of a descriptor: `adds` tells the address register that an issuing SQIS adds. -/
def badEndpoint (img : Nat) (iss : List (CtxCode × Nat)) (d a : Nat) (stride : Nat → Int) (fmt : Nat) (dst : Bool) (adds : Nat → Option Nat) : Bool :=
  let r := regionOf (saOff a)
  let fixed := !iss.any (fun i => (adds i.2).any i.1.writes.contains)
  let x := sdExtent d (saOff a) stride fmt
  let inside := decide (0 ≤ x.1) && inRegion r x.1.toNat x.2.toNat
  !sramAddrOk a || r == 5 || (dst && (r == 3 || (fmt == 1 && r != 4))) ||
  iss.any (fun i => wSqisQueue i.2 / 64 != saTile a / 48) ||
  (fixed && (!inside || iss.any (fun i =>
    let own := ownRanges img (saTile a) i.1.ctx
    !covered own x.1.toNat x.2.toNat && (sdRuns d (saOff a) stride fmt).any (fun r => !covered own r.1.toNat r.2))))

def badStream (img : Nat) (cs : List CtxCode) (k d : Nat) : Bool :=
  let iss := issuers cs (fun w => wOp w == 0x40 && wSqisDesc w == k)
  let fs := sdFmtSrc d
  let fd := sdFmtDst d
  let c := sdCount d
  let remote := sdKindDst d == 2
  let product := c 0 * c 1 * c 2 * c 3 * c 4
  stray (if remote then [(511, 256), (251, 2)] else [(511, 2)]) d ||
  product == 0 || decide (2 ^ 35 < product * fmtBits fd) ||
  decide (1 < sdKindSrc d ∨ sdKindDst d = 3) ||
  (sdKindSrc d == 1 && badEndpoint img iss d (sdSrc d) (sdSrcStride d) fs false (fun w => if bitAt w 83 then some (bits w 87 84) else none)) ||
  (sdKindDst d == 1 && badEndpoint img iss d (sdDst d) (sdDstStride d) fd true (fun w => if bitAt w 78 then some (bits w 82 79) else none)) ||
  ((fs == 6 || fd == 6) && c 0 % 32 != 0) ||
  (fs == 6 && sdKindSrc d == 0 && sdSrc d % 16 != 0) || (fd == 6 && sdKindDst d != 1 && sdDst d % 16 != 0) ||
  ((fs == 6 && sdKindSrc d == 1 || fd == 6 && sdKindDst d == 1) && (c 0 != 32 || c 1 != 128)) ||
  ((fs == 8) != (fd == 8)) ||
  (remote && (c 3 != 1 || c 4 != 1 || fs != fd || sdSignal d % 8 != 0)) ||
  iss.any (fun i => !vidOk img i.1.tile i.1.ctx (sdConsume d) || !vidOk img i.1.tile i.1.ctx (sdRelease d))

/-! AE descriptors (Table 8.4). -/

def aeFloat (f : Nat) : Bool := f == 0 || f == 2 || f == 3 || f == 4 || f == 5

/-- An address in the control homes or the host aperture. -/
def farRange (a : Nat) : Bool := inControl a || inAperture a

def badAe (img : Nat) (cs : List CtxCode) (k d : Nat) : Bool :=
  let iss := issuers cs (fun w => wOp w == 0x42 && bits w 111 96 == k)
  let kind := adKind d
  let part := adPartial d && kind != 2
  let outLen := if kind = 2 then adRows d * adPairs d * 8 else if part then adRows d * 1056 else adRows d * 128 * fmtSize (adFmtO d)
  let sram := fun (a n : Nat) =>
    !sramAddrOk a || !inRegion 4 (saOff a) n ||
    iss.any (fun i => wAeqAe i.2 / 8 != saTile a / 48 || !covered (ownRanges img (saTile a) (0x80 + wAeqAe i.2)) (saOff a) n)
  stray [(511, 128)] d || decide (2 < kind) ||
  !aeFloat (adFmtQ d) || !fmtMatrix (adFmtK d) || !fmtMatrix (adFmtV d) || !(if kind = 2 then adFmtO d == 0 else aeFloat (adFmtO d)) ||
  decide (adRows d = 0 ∨ 128 < adRows d ∨ adSegs d = 0 ∨ adRows d < adSegs d ∨ adHeads d = 0 ∨ 32 < adHeads d ∨ adHeads d ≤ adHead d) ||
  decide (2 ^ 21 < pageBytes (adHeads d) (adFmtK d) (adFmtV d)) ||
  decide (64 < adPairs d) || (adRopeQ d && adPairs d == 0) || (kind == 2 && adPairs d == 0) || (kind == 1 && decide (adMergeCount d = 0 ∨ 64 < adMergeCount d)) ||
  (adQSram d && sram (adQ d) (adRows d * 128 * fmtSize (adFmtQ d))) || (adOutSram d && sram (adOut d) outLen) ||
  iss.any (fun i => !vidOk img (0x8000 + wAeqAe i.2) (wAeqCtx i.2) (adConsume d) || !vidOk img (0x8000 + wAeqAe i.2) (wAeqCtx i.2) (adRelease d)) ||
  decide (adRow d % 8 ≠ 0 ∨ adSeg d % 8 ≠ 0 ∨ adAux d % 8 ≠ 0) || (part && adOut d % 32 != 0) ||
  (!adQSram d && farRange (adQ d)) || (!adOutSram d && farRange (adOut d)) || farRange (adRow d) || farRange (adSeg d) || farRange (adAux d)

/-! Collective plans (Table 11.4). -/

def badPlan (img : Nat) (cs : List CtxCode) (k d : Nat) : Bool :=
  let iss := issuers cs (fun w => wOp w == 0x43 && bits w 111 96 == k)
  -- the extent is fixed for the plan itself where nothing issues it, and else for some COLL that names it
  let fixed := fun (add hi lo : Nat) => iss.isEmpty || iss.any (fun i => !(bitAt i.2 add && i.1.writes.contains (bits i.2 hi lo)))
  let n := cpMembersM1 d + 1
  let rs := cpKind d == 0
  let srcs := (List.range (if rs then cpLocalM1 d + 1 else 1)).map (fun j => cpSrc d + j * cpStride d)
  let srcLen := (if rs then n else 1) * cpElems d * fmtSize (cpFmtSrc d)
  let dstLen := (if rs then 1 else n) * cpElems d * fmtSize (cpFmtDst d)
  let far := fun (a len : Nat) => overlaps a len 0x100000000000 0x100000000000 || overlaps a len 0xFF0000000000 0x10000000000
  stray [(511, 148)] d || decide (1 < cpKind d) || decide (2 < cpOp d) ||
  (rs && (!aeFloat (cpFmtSrc d) || !aeFloat (cpFmtDst d))) ||
  (!rs && (cpFmtSrc d != cpFmtDst d || cpFmtSrc d == 6 || cpLocalM1 d != 0)) ||
  decide (cpElems d % 256 ≠ 0 ∨ cpElems d < 256 ∨ 2 ^ 28 < cpElems d) ||
  srcs.any (fun a => a % 256 != 0) || decide (cpDst d % 256 ≠ 0 ∨ cpResult d % 8 ≠ 0 ∨ cpOrder d % 8 ≠ 0) ||
  (fixed 91 95 92 && srcs.any (fun a => far a srcLen)) || (fixed 86 90 87 && far (cpDst d) dstLen) ||
  iss.any (fun i => [cpConsume d, cpRelease d, cpPieces d].any (fun v => !vidOk img i.1.tile i.1.ctx v))

/-! Micro-programs (Table 5.6). -/

/-- Fields of a stage descriptor (Table 5.4). -/
def mpFirst (p i : Nat) : Nat := bits (mpStage p i) 47 40
def mpCount (p i : Nat) : Nat := bits (mpStage p i) 55 48
def mpTotal (p : Nat) : Nat := bits p 55 48
/-- c0 and the clamp bounds of a segment. -/
def mpC0 (p j : Nat) : Val := mpF (mpSeg p j) 0
def mpLo (p j : Nat) : Val := mpF (mpSeg p j) 192
def mpHi (p j : Nat) : Val := mpF (mpSeg p j) 224

/-- A reserved field, an unused descriptor or an unused record is not 0. -/
def mpStray (p : Nat) : Bool :=
  stray [(191, 64), (57, 0)] (p % 2 ^ 512) ||
  (List.range 4).any (fun i => if i < mpStages p then stray [(127, 64), (55, 32)] (mpStage p i) || decide (1 < bits (mpStage p i) 39 36 ∨ 3 < bits (mpStage p i) 35 32)
    else mpStage p i != 0) ||
  (List.range 124).any (fun j => decide (mpTotal p ≤ j) && mpSeg p j != 0)

/-- c0 of a segment lies in its own clamp interval, and so does that of the next segment of its stage (R136);
both zeros are equal. -/
def badSegment (p i k : Nat) : Bool :=
  let j := mpFirst p i + k
  let inside := fun (v : Val) => !vLt v (mpLo p j) && !vLt (mpHi p j) v
  vLt (mpHi p j) (mpLo p j) || !inside (mpC0 p j) || (decide (k + 1 < mpCount p i) && !inside (mpC0 p (j + 1)))

/-- The rows for a declared monotone function; `down` is non-increasing. -/
def badMonotone (p : Nat) (down : Bool) : Bool :=
  let j := mpFirst p 0
  let n := mpCount p 0
  let start := fun k => if down then mpHi p k else mpLo p k
  let stop := fun k => if down then mpLo p k else mpHi p k
  let past := fun (a b : Val) => if down then vLt a b else vLt b a
  mpStages p != 1 || (List.range (n - 1)).any (fun k => !vNumEq (start (j + k)) (mpC0 p (j + k)) || !vNumEq (stop (j + k)) (mpC0 p (j + k + 1))) ||
  past (mpF p 128) (mpC0 p j) || past (stop (j + n - 1)) (mpF p 160)

def badMicro (p : Nat) : Bool :=
  let n := mpStages p
  let scale := fun i => bits (mpStage p i) 127 96
  bits p 31 0 != 0x4D435046 || bits p 39 32 != 1 || mpStray p || decide (n = 0 ∨ 4 < n ∨ mpTotal p = 0 ∨ 124 < mpTotal p) ||
  (List.range n).any (fun i =>
    decide (mpCount p i = 0 ∨ mpTotal p < mpFirst p i + mpCount p i) || decide (scale i % 2 ^ 23 ≠ 0 ∨ scale i / 2 ^ 23 < 119 ∨ 135 < scale i / 2 ^ 23) ||
    !vIsFinite (mpF (mpStage p i) 64)) ||
  !vIsFinite (mpF p 64) || !vIsFinite (mpF p 96) || mpF p 128 == .nan || mpF p 160 == .nan ||
  (List.range (mpTotal p)).any (fun j => (List.range 8).any (fun c => !vIsFinite (mpF (mpSeg p j) (32 * c)))) ||
  decide (bits (mpStage p 0) 39 36 = 1 ∨ 2 ≤ bits (mpStage p 0) 35 32) || !vNumEq (mpF (mpStage p 0) 64) (mpF p 64) ||
  !vNumEq (vMul (vAdd (mpF p 96) (vNeg (mpF p 64))) (mpF (mpStage p 0) 96)) (vNat (mpCount p 0)) ||
  (List.range n).any (fun i => (List.range (mpCount p i)).any (badSegment p i)) ||
  (bitAt p 56 && badMonotone p (bitAt p 57))

/-! Pins (R202). -/

/-- The entries whose pins the directory cannot take: a count past 255, or too many pinned grains. -/
def pinFailures (s : State) (img : Nat) : List Nat :=
  ((secAll img 11).foldl (fun (a : List Nat × List Nat × Nat) e =>
    if wpLevel e.2 == 1 && wpPinned e.2 then
      let gs := (wpGrains e.2).filter (fun g => !a.2.1.contains g)
      let fresh := (gs.filter (fun g => (s.grain g).pins == 0)).length
      if gs.any (fun g => (s.grain g).pins == 255) || decide (pinLimit < a.2.2 + fresh) then (a.1 ++ [secAt img 11 e.1], a.2)
      else (a.1, a.2.1 ++ gs, a.2.2 + fresh)
    else a) ([], [], pinnedGrains s)).1

/-! Credit cycles (R130). -/

/-- The objects that field `f` of stream k names in the contexts that issue it. -/
def streamObjs (img : Nat) (cs : List CtxCode) (f : Nat → Nat) (k : Nat) : List Nat :=
  (issuers cs (fun w => wOp w == 0x40 && wSqisDesc w == k)).filterMap (fun i =>
    let v := f (secEntry img 4 k)
    if v = 0xFFFF then none else bindingOf img i.1.tile i.1.ctx v)

/-- Streams that release an object that stream k consumes, in descriptor order. -/
def streamWaits (uses : List (List Nat × List Nat)) (k : Nat) : List Nat :=
  let c := (uses.getD k ([], [])).1
  (List.range uses.length).filter (fun t => (uses.getD t ([], [])).2.any c.contains)

/-- The depth-first search: `grey` is the path, `black` the streams done; it answers the stream found to close a cycle. -/
def creditSearch (uses : List (List Nat × List Nat)) : Nat → List Nat → List Nat → List Nat → Option Nat × List Nat
  | 0, _, _, black => (none, black)
  | _ + 1, _, [], black => (none, black)
  | f + 1, grey, t :: ts, black =>
    if grey.contains t then (grey.head?, black)
    else if black.contains t then creditSearch uses f grey ts black
    else
      match creditSearch uses f (t :: grey) (streamWaits uses t) black with
      | (some k, b) => (some k, b)
      | (none, b) => creditSearch uses f grey ts (t :: b)

/-- Offset of the stream at which the search finds a cycle. -/
def creditCycle (img : Nat) (cs : List CtxCode) : List Nat :=
  let n := secCount img 4
  let uses := (List.range n).map (fun k => (streamObjs img cs sdConsume k, streamObjs img cs sdRelease k))
  ((creditSearch uses ((n + 1) * (n + 2)) [] (List.range n) []).1.map (secAt img 4)).toList

/-! The checks in the order of Table 4.20. -/

/-- Offsets of the entries of a section, with their indices, that satisfy a condition. -/
def badIndexed (img type : Nat) (p : Nat → Nat → Bool) : List Nat :=
  ((secAll img type).filter (fun e => p e.1 e.2)).map (fun e => secAt img type e.1)

def reservedFmt (l : List Nat) : Bool := l.any (fun f => !fmtKnown f)

/-- The rows 0x0311 to 0x0501.  An SFN that names an unfilled micro-program slot fails 0x0312 (R145) wherever it stands
in CODE: judging it in a word reached from no entry too is the model's choice (log entry 105). -/
def codeChecks (s : State) (img : Nat) (cs : List CtxCode) : List LoadCheck :=
  let n := secCount img 1
  let loops := loopBodies img
  [ (0x0311, stBadArg, fun _ =>
      badWords img badFormat ++ badEntries img 11 (fun e => reservedFmt [wpFormat e]) ++ badEntries img 4 (fun e => reservedFmt [sdFmtSrc e, sdFmtDst e]) ++
      badEntries img 12 (fun e => reservedFmt [adFmtQ e, adFmtK e, adFmtV e, adFmtO e]) ++ badEntries img 13 (fun e => reservedFmt [cpFmtSrc e, cpFmtDst e])),
    (0x0312, stBadArg, fun _ =>
      badIndexed img 4 (badStream img cs) ++ badIndexed img 12 (badAe img cs) ++ badIndexed img 13 (badPlan img cs) ++ badEntries img 14 badMicro ++
      badWords img (fun w => wOp w == 0x31 && decide (0x20 + secCount img 14 ≤ bits w 111 106))),
    (0x0313, stNoResource, fun _ => pinFailures s img),
    (0x0401, stBadArg, fun _ => badWords img badWord),
    (0x0402, stBadArg, fun _ => badWords img badRegion),
    (0x0403, stBadArg, fun _ => badReached img cs (fun c _ w =>
      wOp w == 0x20 && (decide (maxDepth (commonFmt (bits w 105 102) (bits w 101 98)) < 32 * (bits w 97 92 + 1)) ||
        !covered (ownRanges img c.tile c.ctx) (0x400000 + bits w 111 108 * 65536) 65536))),
    (0x0404, stBadArg, fun _ => badReached img cs (fun c _ w =>
      (wordOps w).any (fun o => !c.writes.contains o.areg && !covered (ownRanges img c.tile c.ctx) (regionBase o.region + o.off) o.len))),
    (0x0405, stBadArg, fun _ => badReached img cs (fun _ i w =>
      wOp w == 0x0F &&
      (decide (wLoopBody w = 0 ∨ n ≤ i + wLoopBody w) || (!bitAt w 108 && decide (bits w 63 32 < bits w 31 0)) ||
        loops.any (fun l => l.holds i && (decide (l.last < i + wLoopBody w) || l.level == bits w 111 109))))),
    (0x0406, stBadArg, fun _ => badReached img cs (fun _ i w =>
      wOp w == 0x0E &&
      (decide ((i : Int) + wBranch w < 0 ∨ (n : Int) ≤ i + wBranch w) || loops.any (fun l => l.holds i != l.holds (i + wBranch w))))),
    (0x0407, stBadArg, fun _ => badReached img cs (fun c _ w =>
      decide (0x50 ≤ wOp w ∧ wOp w ≤ 0x54) && (bindingOf img c.tile c.ctx (bits w 111 96)).isNone)),
    (0x0408, stBadArg, fun _ => badReached img cs (fun c _ w =>
      match wOp w with
      | 0x40 => decide (secCount img 4 ≤ wSqisDesc w) || !(queueEntries img).any (fun q => q.tile == c.tile && q.ctx == c.ctx && q.queue == wSqisQueue w)
      | 0x42 => decide (secCount img 12 ≤ bits w 111 96 ∨ wAeqAe w / 8 ≠ c.tile / 48)
      | 0x43 => decide (secCount img 13 ≤ bits w 111 96)
      | _ => false)),
    (0x0409, stBadArg, fun _ => badReached img cs (fun c _ w =>
      wOp w == 0x55 && !(secAll img 8).any (fun e => bits e.2 3 0 == bits w 111 108 && (bits e.2 255 64).testBit c.tile))),
    (0x040A, stBadArg, fun _ => badReached img cs (fun _ _ w => wOp w == 0x56 && decide (hdrOpCount img ≤ bits w 111 104))),
    (0x0501, stConflict, fun _ => creditCycle img cs) ]

/-- The first check that fails, in order: its code, its status and the lowest offset that fails it (R99). -/
def firstFailed : List LoadCheck → Option (Nat × Nat × Nat)
  | [] => none
  | c :: t =>
    match c.2.2 () with
    | [] => firstFailed t
    | o :: os => some (c.1, c.2.1, os.foldl min o)

/-- What refuses an image. -/
def loadRefusal (s : State) (l : List Byte) : Option (Nat × Nat × Nat) :=
  let img := leNat l
  (firstFailed (headerChecks s l img)).orElse (fun _ =>
    (firstFailed (directoryChecks img l.length)).orElse (fun _ =>
      (firstFailed (recordChecks s img)).orElse (fun _ => firstFailed (codeChecks s img (ctxCodes img)))))

end Sys2Proof.Machine
end

