-- ==== Sys2Proof/Machine/Load.lean ====
section
/-! DEFINITION. `SCHED_LOAD` and `SCHED_UNLOAD` (R98, R99, R202, R415). -/

namespace Sys2Proof.Machine

/-- Reads the image, grain by grain, under a domain: the bytes, or the status of the condition of Table 6.9 that a read
meets, none where that row halts the read until the grain is released. -/
def readImage (d : Nat) : Nat → State → Nat → Nat → State × (List Byte ⊕ Option Nat)
  | 0, s, _, _ => (s, .inl [])
  | f + 1, s, a, n =>
    if n = 0 then (s, .inl [])
    else
      let k := min n (65536 - a % 65536)
      let r := devMeet s a k d false 4
      match r.2 with
      | .served =>
        match readImage d f r.1 (a + k) (n - k) with
        | (s', .inl l) => (s', .inl (devLoad s a k ++ l))
        | p => p
      | .held => (r.1, .inr none)
      | x => (s, .inr (some x.status))

/-- A refused load: the check code and the byte offset (Table 15.2). -/
def refuseLoad (s : State) (m : Fin 8) (status code off : Nat) : State := finish s m status (leBytes 8 (packBits [(16, code), (16, 0), (32, off)]))

/-- The entries of a tensor that declare its flags: a level-0 entry at another address than the level-1 entry gives only
its mirrored bit. -/
def wpDeclares (img e : Nat) : List Nat :=
  (wpEntries img).filter (fun f => wpTensor f == wpTensor e && !(wpLevel e == 1 && wpLevel f == 0 && wpAddress f != wpAddress e))

/-- The flags that the weight plan sets on grain i of a tensor. -/
def planGrain (s : State) (img e i g : Nat) : State :=
  let mir := (wpEntries img).any (fun f => wpTensor f == wpTensor e && wpLevel f == 0 && wpMirrored f)
  let ds := wpDeclares img e
  let x := s.grain g
  let src := (ds.find? (fun f => wpSource f != 0)).map (fun f => BitVec.ofNat 48 (wpSource f + 65536 * i))
  let s := s.setGrain g { x with cacheable := true, mirrored := x.mirrored || mir, restorable := x.restorable || ds.any wpRestorable, source := src.getD x.source }
  if mir && x.st == 4 then
    let r := giveMirror s g
    if r.2 then r.1 else r.1.setGrain g { (r.1.grain g) with degraded := true }
  else s

/-- The grains that an image pins, each once. -/
def imagePins (img : Nat) : List Nat := (((wpEntries img).filter (fun e => wpLevel e == 1 && wpPinned e)).flatMap wpGrains).eraseDups

/-- Maltster applies the weight plan (R202). -/
def applyPlan (s : State) (img : Nat) : State :=
  let s := s.forAll (wpPlaced img) (fun s e => s.forAll ((wpGrains e).zipIdx) (fun s g => planGrain s img e g.2 g.1))
  s.forAll (imagePins img) (fun s g => pinGrain s 0x3FF g)

/-- Objects that the host can reach: index and device address (R108). -/
def visibleObjs (n : Fin 16) (img : Nat) : List (Nat × Nat) :=
  ((secAll img 6).filter (fun e => bitAt e.2 32)).map (fun e => (e.1, objAddr img n e.1))

/-- Puts an image in a free load slot. -/
def loadImage (s : State) (m : Fin 8) (n : Fin 16) (d : BitVec 10) (l : List Byte) : State :=
  let img := leNat l
  let s := s.setSlot n { loaded := true, generation := (s.slot n).generation + 1, image := img, length := l.length, domain := d }
  let s := applyPlan s img
  finishList s m (fun k => leBytes 8 (packBits [(16, slotHandle s n), (16, 0), (32, k)])) ((visibleObjs n img).map (fun e => leBytes 8 (packBits [(48, e.2), (16, e.1)])))

/-- `SCHED_LOAD`: a command whose read is held stays taken, and reads again when it is run again. -/
def execSchedLoad (m : Fin 8) (s : State) : Outcome :=
  runCmd s m 0x0201 anyAction (fun k =>
    let a := k.arg 47 0
    let n := k.arg 95 64
    let d := k.arg 105 96
    refusing s m [(decide (a % 256 ≠ 0 ∨ n = 0), stBadArg), (!domainOpen s (BitVec.ofNat 10 d), stConflict)] (fun _ =>
      match readImage d (n / 65536 + 2) s a n with
      | (s', .inr none) => s'
      | (_, .inr (some st)) => refuseLoad s m st 0x0107 0
      | (s', .inl l) =>
        match loadRefusal s l, allSlots.find? (fun i => !(s.slot i).loaded) with
        | some (code, st, off), _ => refuseLoad s m st code off
        | none, none => refuseLoad s m stNoResource 0x0107 0
        | none, some i => loadImage s' m i (BitVec.ofNat 10 d) l))

/-- Removes an image: its pins, the cacheable mark of grains that no other loaded image names, its sync objects and
its retired ranks. -/
def unloadImage (s : State) (n : Fin 16) : State :=
  let x := s.slot n
  let others := ((allSlots.filter (fun i => i != n && (s.slot i).loaded)).flatMap (fun i => (wpPlaced (s.slot i).image).flatMap wpGrains))
  let s := s.forAll (imagePins x.image) (fun s g => s.setGrain g { (s.grain g) with pins := (s.grain g).pins - (if (s.grain g).pins = 0 then 0 else 1) })
  let s := s.forAll (((wpPlaced x.image).flatMap wpGrains).filter (fun g => !others.contains g)) (fun s g => s.setGrain g { (s.grain g) with cacheable := false })
  let s := { s with sync := { s.sync with objs := s.sync.objs.filter (fun e => !(inHomes e.1 && homeSlot e.1 == n.val)) } }
  let s := { s with tiers := { s.tiers with drains := s.tiers.drains.filter (fun e => e.1 / 1024 != n.val), retired := s.tiers.retired.filter (fun p => p.1 != n) } }
  s.setSlot n { generation := x.generation }

/-- `SCHED_UNLOAD`. -/
def execSchedUnload (m : Fin 8) (s : State) : Outcome :=
  runCmd s m 0x0202 anyAction (fun k =>
    match handleSlot s (k.arg 15 0) with
    | none => refuse s m stBadArg
    | some n => if (s.launch n).isSome then refuse s m stBusy else finish (unloadImage s n) m stOk [])

end Sys2Proof.Machine
end

