-- ==== Sys2Proof/Machine/Record.lean ====
section
/-! DEFINITION. Measurements, the protection log and the checks of protection records (R430 to R435, R441 to R445). -/

namespace Sys2Proof.Machine

/-! Measurements (R431). -/

def State.modProt (s : State) (f : Prot → Prot) : State := { s with prot := f s.prot }

/-- A 48-byte digest as the number that its bytes are, byte 0 least significant (R101). -/
def digestOf (l : List Byte) : BitVec 384 := BitVec.ofNat 384 (leNat (sha384 l))
def measOf (s : State) (i : Nat) : BitVec 384 := tabGet 0 s.prot.meas i

/-- M ← SHA-384(M ‖ d). -/
def chainWith (m : BitVec 384) (d : List Byte) : BitVec 384 := digestOf (leBytes 48 m.toNat ++ d)
def extend (s : State) (i : Nat) (d : List Byte) : State :=
  s.modProt (fun p => { p with meas := tabPut 0 p.meas i (chainWith (tabGet 0 p.meas i) d) })

/-! The protection log (R435, Table 16.3). -/

def LogEntry.bytes (e : LogEntry) : List Byte :=
  leBytes 64 (packBits [(16, 0), (16, e.kind.toNat), (32, e.nonceNo.toNat), (64, e.time.toNat), (384, e.digest.toNat)])

/-- Measurement 6 after entries, from a value before them. -/
def chainLog (m : BitVec 384) (l : List LogEntry) : BitVec 384 := l.foldl (fun m e => chainWith m e.bytes) m

/-- Appends an entry; a full log first gives up its oldest 32,768 for the measurement-6 value after them. -/
def ProtLog.append (x : ProtLog) (e : LogEntry) : ProtLog :=
  if 65536 ≤ x.entries.length + b2n x.compacted then
    { base := chainLog x.base (x.entries.take 32768), compacted := true, entries := x.entries.drop 32768 ++ [e] }
  else { x with entries := x.entries ++ [e] }

/-- Writes an entry to flash and extends it into measurement 6. -/
def logEntry (s : State) (kind : Nat) (number : Word32) (digest : BitVec 384) : State :=
  let e : LogEntry := { kind := BitVec.ofNat 16 kind, nonceNo := number, time := s.time.now, digest := digest }
  extend (s.modProt (fun p => { p with log := p.log.append e })) 6 e.bytes

/-! Boot (R430, R431). -/

/-- Digests of the configuration records (R431): the enrolled keys, the domain policy. -/
def keysDigest (k : BitVec 768 × BitVec 768) : List Byte := leBytes 48 (Config.digest 5 (leBytes 96 k.1.toNat ++ leBytes 96 k.2.toNat))
def policyBytes (t : Tab Word32) : List Byte := (List.range 1024).flatMap (fun d => leBytes 4 (tabGet (3 : Word32) t d).toNat)
def policyDigest (t : Tab Word32) : List Byte := leBytes 48 (Config.digest 5 (policyBytes t))
def fwPolicyBytes (p : Option FwPolicy) : List Byte :=
  match p with
  | some p => leBytes 4 p.minVersion.toNat ++ p.keys.flatMap (fun k => leBytes 48 k.toNat)
  | none => []
def fwPolicyDigest (p : Option FwPolicy) : List Byte := leBytes 48 (Config.digest 4 (fwPolicyBytes p))

/-- Digest of the control firmware of a bank. -/
def bankDigest (s : State) (b : Fin 2) : List Byte :=
  match bankImage s b.val with
  | some i => leBytes 48 i.digest.toNat
  | none => leBytes 48 (Config.digest 3 [BitVec.ofNat 8 b.val])

/-- The measurements that a boot takes: each starts at zero, the log is replayed.  Where no firmware was booted the loader
and the firmware stay unmeasured. -/
def bootMeasure (s : State) (booted : Bool) : State :=
  let s := s.modProt (fun p => { p with meas := [] })
  let s := extend s 1 (leBytes 48 (Config.digest 1 []))
  let s := if booted then extend (extend s 2 (leBytes 48 (Config.digest 2 (bankDigest s s.prot.bank)))) 3 (bankDigest s s.prot.bank) else s
  let s := extend s 4 (fwPolicyDigest s.prot.fwPolicy)
  let s := match s.prot.enrolled with
    | some k => extend (extend s 5 (keysDigest k)) 5 (policyDigest s.prot.policy)
    | none => s
  s.modProt (fun p => { p with meas := tabPut 0 p.meas 6 (chainLog p.log.base p.log.entries) })

/-! Records (R441, Table 16.6b). -/

structure ProtRecord where
  kind : Nat
  number : Word32
  nonce : BitVec 256
  body : List Byte
  /-- Header and body, over which both signatures are taken. -/
  signed : List Byte
  operator : Nat
  custodian : Nat
  digest : BitVec 384

def recordOf (k : Taken) : ProtRecord :=
  let h := k.ext % 2 ^ 512
  let n := bits h 223 192
  let sig := fun (i : Nat) => leNat ((k.args.drop (64 + n + i)).take 96)
  { kind := bits h 63 48, number := BitVec.ofNat 32 (bits h 255 224), nonce := BitVec.ofNat 256 (bits h 511 256), body := (k.args.drop 64).take n, signed := k.args.take (64 + n), operator := sig 0, custodian := sig 96, digest := digestOf k.args }

/-- Body length by kind (Table 16.7). -/
def bodyLength (kind : Nat) : Option Nat :=
  match kind with
  | 1 => some 192 | 2 => some 8256 | 3 => some 8 | 4 => some 8256 | 5 => some 4096 | 6 => some 200 | 7 => some 392 | 8 => some 64 | 9 => some 0 | _ => none

/-! The grant body (Table 16.10). -/

def gbHost (b : Nat) : Nat := bits b 511 464
def gbHostLen (b : Nat) : Nat := bits b 463 432
def gbTarget (b : Nat) : Nat := bits b 431 384
def gbTargetLen (b : Nat) : Nat := bits b 383 352
def gbSteps (b : Nat) : Nat := bits b 351 320
def gbTile (b : Nat) : Nat := bits b 255 240
def gbDomain (b : Nat) : Nat := bits b 239 230
def gbScope (b : Nat) : Nat := bits b 223 216

/-- The fields break Table 16.10 (R452). -/
def badGrant (b : Nat) : Bool :=
  decide (bits b 287 256 ≠ 0 ∨ bits b 229 224 ≠ 0 ∨ bits b 215 0 ≠ 0 ∨ gbHost b % 4096 ≠ 0 ∨ gbTarget b % 64 ≠ 0 ∨ gbTargetLen b % 64 ≠ 0 ∨ 2 ^ 30 < gbTargetLen b) ||
  decide (gbScope b < 1 ∨ 3 < gbScope b) || (gbScope b == 1 && decide (gbSteps b < 1 ∨ 65536 < gbSteps b ∨ 192 ≤ gbTile b))

/-- Words of a domain policy body; word 1,023 is ignored. -/
def policyWords (body : List Byte) : List Nat := (pieces 4 body).map leNat

/-- A reserved bit of a body is set; those of a routing table are judged by Table 13.6. -/
def badBody (r : ProtRecord) : Bool :=
  let b := leNat r.body
  match r.kind with
  | 3 => decide (bits b 63 12 ≠ 0)
  | 5 => ((policyWords r.body).take 1023).any (fun w => decide (4 ≤ w))
  | 7 => decide (bits b 63 8 ≠ 0)
  | 8 => badGrant b
  | _ => false

/-- Check 1 of R443. -/
def badRecord (k : Taken) (carried : Nat → Bool) : Bool :=
  let h := k.ext % 2 ^ 512
  let r := recordOf k
  decide (bits h 31 0 ≠ 0x544F5250 ∨ bits h 47 32 ≠ 1 ∨ bits h 191 64 ≠ 0) || bodyLength r.kind != some (bits h 223 192) || decide (64 + bits h 223 192 + 192 ≠ k.argLen) || !carried r.kind || badBody r

/-- The keys that a record's signatures are checked under: those in the body of an ENROLL, else those enrolled. -/
def recordKeys (s : State) (r : ProtRecord) : Nat × Nat :=
  if r.kind = 1 then (leNat (r.body.take 96), leNat (r.body.drop 96))
  else
    match s.prot.enrolled with
    | some k => (k.1.toNat, k.2.toNat)
    | none => (0, 0)

/-- A DEBUG record of scope STEP or TRACE needs the Operator's signature alone. -/
def operatorAlone (r : ProtRecord) : Bool := r.kind == 8 && decide (gbScope (leNat r.body) ≤ 2)

/-- The current nonce is the record's. -/
def nonceCurrent (s : State) (r : ProtRecord) : Bool := s.prot.nonce.any (fun n => n.1 == r.nonce && n.2.1 == r.number)

/-- Checks 1 to 5 of R443, in order: the first failure's status and body; whether the nonce is spent. -/
def protCheck (s : State) (k : Taken) (carried : Nat → Bool) : State × Option (Nat × List Byte) :=
  let r := recordOf k
  let scrub := if r.kind = 3 ∨ r.kind = 9 then collides s 6 0 else none
  if badRecord k carried then (s, some (stBadArg, []))
  else if s.prot.enrolled.isNone && r.kind != 1 then (s, some (stConflict, []))
  else match scrub with
  | some x => (s, some (stBusy, maintBody x))
  | none =>
    if !nonceCurrent s r then (s, some (stDenied, []))
    else
      let keys := recordKeys s r
      let s := s.modProt (fun p => { p with nonce := none })
      if !ecdsaVerifies keys.1 r.signed r.operator || (!operatorAlone r && !ecdsaVerifies keys.2 r.signed r.custodian) then (s, some (stSigInvalid, []))
      else (s, none)

/-- `EV_PROT_APPLIED`. -/
def appliedEv (r : ProtRecord) : Ev := { type := 0x7001, items := [(16, r.kind), (32, r.number.toNat)] }

/-- A command that carries a record: the checks of R443, the rows of Table 16.7, the log entry, then its effect. -/
def runRecord (s : State) (m : Fin 8) (op : Nat) (mine : Taken → Bool) (carried : Nat → Bool) (rows : State → ProtRecord → List (Bool × Nat))
    (f : State → Taken → ProtRecord → State) : Outcome :=
  runCmd s m op mine (fun k =>
    match protCheck s k carried with
    | (s, some (st, body)) => finish s m st body
    | (s, none) =>
      let r := recordOf k
      refusing s m (rows s r) (fun _ => f (logEntry s r.kind r.number r.digest) k r))

end Sys2Proof.Machine
end

