-- ==== Sys2Proof/Machine/Scrub.lean ====
section
/-! DEFINITION. Closing domains, unbinding, the service state and scrubs (R412, R414, R449, R450, R453 to R455). -/

namespace Sys2Proof.Machine

/-! What a domain gives up before its scrub (R414). -/

/-- The OPEN sequences of a domain, visitors apart, ascending. -/
def domainSeqs (s : State) (d : BitVec 10) : List Nat :=
  (s.seqs.table.filter (fun e => e.2.st == 1 && e.2.domain == d && !isVisitor s e.1)).map (·.1)

/-- Backed grains tagged with a domain. -/
def taggedGrains (s : State) (d : BitVec 10) : List Nat := (s.tiers.dir.filter (fun e => e.2.st != 0 && e.2.domain == d)).map (·.1)

/-- Images loaded under a domain. -/
def domainImages (s : State) (d : BitVec 10) : List (Fin 16) := allSlots.filter (fun n => (s.slot n).loaded && (s.slot n).domain == d)

/-- Steps 1 to 3 of R414: images unloaded, sequences freed and their pages reclaimed, grains released, Tun lines
dropped. -/
def vacateDomain (s : State) (d : BitVec 10) : State :=
  let s := s.forAll (domainImages s d) unloadImage
  let s := reclaim (s.forAll (domainSeqs s d) freeSequence)
  let s := s.forAll ((taggedGrains s d).filter (fun g => !inKvArena g && !inListArena g)) releaseGrain
  dropTun s (fun e => e.domain == d)

/-! Frames (R453, Table 16.11). -/

/-- Near and far frames that some grain holds, by the indices of `nearUsed` and `farUsed`. -/
def nearOccupied (s : State) : List Nat :=
  s.tiers.dir.flatMap (fun e =>
    let x := e.2
    (if x.st = 2 ∨ x.st = 3 ∨ x.st = 6 ∨ x.st = 7 then [x.stack.val * nearLast + x.nearFrame.toNat] else []) ++
      (match x.target with
      | some (k, f) => [k.val * nearLast + f.toNat]
      | none => []))
def farOccupied (s : State) : List Nat :=
  s.tiers.dir.flatMap (fun e =>
    let x := e.2
    (if x.farHeld then [x.farPort.val * farStride + x.farFrame.toNat] else []) ++ (if x.mirrorHeld then [(otherPort x.farPort).val * farStride + x.mirrorFrame.toNat] else []))

/-- Frames retired by R208: given out and held by no grain. -/
def nearRetired (s : State) : List Nat := let o := nearOccupied s
  (s.tiers.nearUsed.map (·.1)).filter (fun i => !o.contains i)
def farRetired (s : State) : List Nat := let o := farOccupied s
  (s.tiers.farUsed.map (·.1)).filter (fun i => !o.contains i)

/-- What a scrub writes: near bytes, far bytes, and the frames that it skips. -/
structure ScrubCounts where
  near : Nat
  far : Nat
  retired : Nat

/-- A domain close: the frames that held its grains since it opened. -/
def domainCounts (s : State) (d : BitVec 10) : ScrubCounts :=
  let l := (s.tiers.held.filter (fun e => e.1 / 2 ^ 28 == d.toNat)).map (fun e => e.1 % 2 ^ 28)
  let near := l.filter (fun i => decide (i < 2 ^ 27) && stackUp s (i / nearLast))
  let far := (l.filter (fun i => decide (2 ^ 27 ≤ i))).map (fun i => i - 2 ^ 27)
  let nr := nearRetired s
  let fr := farRetired s
  { near := 65536 * (near.filter (fun i => !nr.contains i)).length, far := 65536 * (far.filter (fun i => !fr.contains i)).length, retired := (near.filter nr.contains).length + (far.filter fr.contains).length }

/-- A full scrub: every frame of every stack in service and of both ports. -/
def fullCounts (s : State) : ScrubCounts :=
  let near := 2 ^ 20 * ((List.range 24).filter (stackUp s)).length
  let far := farFrames s 0 + farFrames s 1
  let nr := ((nearRetired s).filter (fun i => stackUp s (i / nearLast))).length
  let fr := (farRetired s).length
  { near := 65536 * (near - nr), far := 65536 * (far - fr), retired := nr + fr }

/-! Certificates (Table 16.12). -/

def certBody (s : State) (x : Scrub) (c : ScrubCounts) : List Byte :=
  leBytes 128 (packBits [(32, 0x42524353), (16, 1), (16, x.kind), (64, c.retired), (128, Config.serial), (30, 0), (10, x.domain.toNat), (12, x.slice.toNat), (12, moduleId s), (32, if x.kind = 1 then 0x1FF else 0x3FF), (32, x.nonceNo.toNat), (64, x.start.toNat), (64, s.time.now.toNat), (64, c.near), (64, c.far), (384, (measOf s 6).toNat)])

/-- A 96-byte signature by the identity key. -/
def signBytes (s : State) (l : List Byte) : State × List Byte := (s.bump, leBytes 96 (Config.sign l s.free))

/-- Body and signature; the certificate is logged and reported (R455). -/
def certify (s : State) (x : Scrub) (c : ScrubCounts) : State × List Byte :=
  let b := certBody s x c
  let r := signBytes s b
  let cert := b ++ r.2
  let s := logEntry r.1 0x0100 0 (digestOf cert)
  (emit s { type := 0x7005, items := [(16, x.kind), (16, if x.kind = 1 then x.domain.toNat else x.slice.toNat), (64, c.near), (64, c.far)] }, cert)

/-! Starting a scrub: a maintenance instance of activity 6 (R454, R471). -/

def startScrub (s : State) (m : Fin 8) (kind : Nat) (domain : BitVec 10) (number : Word32) (freed : Nat) : State :=
  let r := startMaint s 6 (if kind = 1 then domain.toNat else 0x3FF)
  r.1.modProt (fun p => { p with scrub := some { kind := kind, inst := r.2.inst, mbx := m, domain := domain, slice := s.cmd.slice, nonceNo := number, start := s.time.now, freed := freed } })

/-- A launch that keeps a domain from closing: under it, or of an image loaded under it. -/
def domainBusy (s : State) (d : BitVec 10) : Bool := allSlots.any (fun n => (s.launch n).any (fun l => l.domain == d || (s.slot n).domain == d))

/-- `DOMAIN_CLOSE` (R414): completes when its scrub does. -/
def execDomainClose (m : Fin 8) (s : State) : Outcome :=
  runCmd s m 0x0104 anyAction (fun k =>
    let d := BitVec.ofNat 10 (k.arg 9 0)
    refusing s m [(d == 0x3FF, stBadArg), (!s.cmd.domains.contains d, stConflict), (domainBusy s d, stBusy)] (fun _ =>
      match collides s 6 d.toNat with
      | some x => finish s m stBusy (maintBody x)
      | none =>
        let n := (domainSeqs s d).length
        let s := setWorking { s with cmd := { s.cmd with closing := s.cmd.closing ++ [d] } } m []
        serveHeld (startScrub (vacateDomain s d) m 1 d 0 n)))

/-! `SLICE_BIND` UNBIND (R412). -/

/-- Steps 1 to 4: launches stopped, images unloaded, domains closed, rings and groups FREE. -/
def dissolveSlice (s : State) : State :=
  let s := s.forAll (allSlots.filter (fun n => (s.launch n).isSome)) (fun s n => stopLaunch s n 0)
  let s := s.forAll (allSlots.filter (fun n => (s.slot n).loaded)) unloadImage
  let s := { s with cmd := { s.cmd with closing := s.cmd.domains } }
  let s := s.forAll s.cmd.domains vacateDomain
  serveHeld { s with rings := {}, colls := {} }

/-- `SLICE_BIND_UNBIND`, of a bound module alone (Table 16.8, log entry 116): completes when its scrub does. -/
def execSliceBindUnbind (m : Fin 8) (s : State) : Outcome :=
  runRecord s m 0x0101 (action 1) (fun n => n == 3) (fun s r => [(!s.cmd.bound || decide (bits (leNat r.body) 11 0 ≠ s.cmd.slice.toNat), stConflict)]) (fun s _ r =>
    emit (startScrub (dissolveSlice (setWorking s m [])) m 2 0x3FF r.number 0) (appliedEv r))

/-! SERVICE (R449, R450). -/

/-- `SERVICE`, of an unbound module out of service alone (Table 16.8, log entry 116): answered when it is applied; the service state is entered at the end of its scrub. -/
def execService (m : Fin 8) (s : State) : Outcome :=
  runRecord s m 0x0702 (fun k => recKind k == 9) (fun n => n == 9) (fun s _ => [(s.cmd.bound || s.prot.service, stConflict)]) (fun s _ r =>
    emit (finish (startScrub s m 3 0x3FF r.number 0) m stOk (leBytes 2 9)) (appliedEv r))

/-! The end of a scrub. -/

/-- The SRAM bytes of ranges that launches use now. -/
def launchRanges (s : State) : List (Nat × Nat) :=
  (allSlots.filter (fun n => (s.launch n).isSome)).flatMap (fun n => (secAll (s.slot n).image 3).map (fun (e : Nat × Nat) => (bits e.2 15 0 * 2 ^ 23 + bits e.2 95 64, bits e.2 127 96)))

def inRanges (l : List (Nat × Nat)) (a : Nat) : Bool := l.any (fun r => decide (r.1 ≤ a ∧ a < r.1 + r.2))

/-- Zeroes the SRAM ranges of a domain's launches, but for bytes that other launches use now (R472). -/
def scrubDomain (s : State) (d : BitVec 10) : State :=
  let mine := (s.cmd.ranges.filter (fun r => r.1 == d)).map (·.2)
  let others := launchRanges s
  let s := { s with sram := s.sram.filter (fun e => !(inRanges mine e.1 && !inRanges others e.1)) }
  let s := { s with tiers := { s.tiers with held := s.tiers.held.filter (fun e => e.1 / 2 ^ 28 != d.toNat) } }
  { s with cmd := { s.cmd with domains := s.cmd.domains.filter (· != d), closing := s.cmd.closing.filter (· != d), ranges := s.cmd.ranges.filter (fun r => r.1 != d) } }

/-- Everything of Table 16.11 for a full scrub; retired frames stay given out. -/
def scrubAll (s : State) : State :=
  let n := (nearRetired s).map (fun i => (i, true))
  let f := (farRetired s).map (fun i => (i, true))
  let t := s.tiers
  let s := s.forAll s.fabric.heldIn (fun s h => returnCredit s h.size.1 h.size.2)
  let h := s.fabric
  { s with sram := [], dev := [], saves := [], ctxs := [], blocks := [], aeCtxs := [], sync := {}, seqs := { epoch := s.seqs.epoch }, rings := {}, colls := {}
           streams := { issues := s.streams.issues }
           tiers := { t with dir := [], nearUsed := n, farUsed := f, pend := [], evicting := false, seen := [], lead := [], drains := [], retired := [], near := [], hub := [], held := [] }
           fabric := { h with waiting := [], sent := [], heldIn := [], inbound := [], complete := [], acks := [], sessions := [] }
           cmd := { s.cmd with domains := [], closing := [], ranges := [] } }

/-- The module is Unbound: no table, no slice, the tolerance of R461, the expanders recorded (R454). -/
def leaveSlice (s : State) : State :=
  let s := { s with cmd := { s.cmd with bound := false, slice := 0, tolerance := 30000000 } }
  let s := { s with fabric := { s.fabric with route := none, reported := [], unreachable := [] } }
  let s := { s with time := { s.time with serving := false, followBackup := false } }
  s.modProt (fun p => { p with cxlRecorded := p.cxlIds })

/-- The response of a command with a certificate. -/
def certResponse (s : State) (x : Scrub) (op first : Nat) (cert : List Byte) : State :=
  if (s.mbx x.mbx).taken.any (fun k => k.op == op && k.working) then finish s x.mbx stOk (leBytes 8 (packBits [(32, first), (32, cert.length)]) ++ cert) else s

/-- The instance of a scrub ends DONE. -/
def endScrub (s : State) (x : Scrub) : State :=
  let s := s.modProt (fun p => { p with scrub := none })
  match s.cmd.maint.find? (fun y => y.inst == x.inst) with
  | some y => endMaint s y true
  | none => s

/-- `SCRUB_COMPLETE` (R455): the regions are zeroed, the certificate is logged and returned.  A domain whose grains are
still in copies goes on. -/
def execScrubComplete (s : State) : Outcome :=
  match s.prot.scrub with
  | none => .next s
  | some x =>
    if x.kind = 1 then
      let s := vacateDomain s x.domain
      if !(taggedGrains s x.domain).isEmpty then .next s
      else
        let r := certify s x (domainCounts s x.domain)
        .next (serveHeld (certResponse (endScrub (scrubDomain r.1 x.domain) x) x 0x0104 x.freed r.2))
    else
      let r := certify s x (fullCounts s)
      let s := scrubAll r.1
      if x.kind = 2 then .next (serveHost (certResponse (endScrub (leaveSlice s) x) x 0x0101 x.slice.toNat r.2))
      else
        let s := endScrub (s.modProt (fun p => { p with service := true })) x
        .next (serveHost { s with cmd := { s.cmd with module := 2 } })

end Sys2Proof.Machine
end

