-- ==== Sys2Proof/Machine/Prot.lean ====
section
/-! DEFINITION. Protection records that bind, route, enrol and set policy, nonces and evidence (R412, R433, R440 to R448). -/

namespace Sys2Proof.Machine

/-! Routing tables (R356, R357, Tables 13.4 to 13.6). -/

def routeEntries (body : List Byte) : Tab (BitVec 16) :=
  (((pieces 2 (body.drop 64)).zipIdx).map (fun p => (p.2, BitVec.ofNat 16 (leNat p.1)))).filter (fun e => e.2 != 0)

def routeOf' (body : List Byte) : Route :=
  let h := leNat (body.take 64)
  { configId := BitVec.ofNat 64 (bits h 511 448), version := BitVec.ofNat 32 (bits h 447 416), slice := BitVec.ofNat 12 (bits h 415 404), master := BitVec.ofNat 12 (bits h 403 392), backup := BitVec.ofNat 12 (bits h 391 380), stepLog2 := bits h 379 375, sealAll := bitAt h 374, entries := routeEntries body }

/-- The rows of Table 13.6. -/
def routeRows (s : State) (body : List Byte) : List (Bool × Nat) :=
  let r := routeOf' body
  let es := r.entries
  let member := fun (e : Nat × BitVec 16) => e.2.getLsbD 15
  let self := fun (e : Nat × BitVec 16) => e.2.getLsbD 14
  let planes := fun (e : Nat × BitVec 16) => e.2.toNat % 256
  let source := fun (d : Nat) => d == r.master.toNat || d == r.backup.toNat
  let entry := fun (d : Nat) => (d, tabGet (0 : BitVec 16) es d)
  [(decide (bits (leNat (body.take 64)) 373 0 ≠ 0 ∨ r.stepLog2 < 10 ∨ 24 < r.stepLog2) || es.any (fun e => decide (bits e.2.toNat 13 8 ≠ 0)), stBadArg),
   (decide ((es.filter self).length ≠ 1) || es.any (fun e => self e && (!member e || planes e != 0)), stBadArg),
   (es.any (fun e => member e && !self e && planes e == 0), stBadArg),
   ([r.master.toNat, r.backup.toNat].any (fun d => planes (entry d) == 0 && !self (entry d)) || es.any (fun e => !member e && !source e.1 && planes e != 0), stBadArg),
   (es.any (fun e => self e && e.1 % 64 != s.geo.toNat), stConflict),
   (r.stepLog2 != stepLog2 s && (s.time.st == .locked || s.time.st == .holdover), stConflict)]

/-- Remote transfers to modules that are no longer members end with `ST_DENIED` (R359). -/
def dropOutsiders (s : State) : State :=
  s.forAll allQueues (fun s q =>
    match (s.queue q).active with
    | some x =>
      let d := streamDesc s x.slot x.desc.toNat
      if x.remote.isSome && !isMember s (sdModule d) then endXfer s q (xBaseDst d x) stDenied else s
    | none => s)

/-- A table comes into force: the period it brings into use is reported where it changes one in use (R372); a module that is
neither master nor backup serves no longer. -/
def installRoute (s : State) (r : Route) : State :=
  let old := stepLog2 s
  let first := s.fabric.route.isNone
  let s := { s with fabric := { s.fabric with route := some r } }
  let s := { s with time := { s.time with firstStep := s.time.firstStep.orElse (fun _ => some r.stepLog2) } }
  let s := if !first && stepLog2 s != old then timeEvent s s.time.st s.time.st else s
  let s := { s with time := { s.time with serving := s.time.serving && (selfMaster s || selfBackup s) } }
  loseEmpty (flush (dropOutsiders s))

/-- `SLICE_BIND` BIND (R412, R461), of an unbound module out of service alone (Table 16.8, log entry 116), and the reserved
actions. -/
def execSliceBind (m : Fin 8) (s : State) : Outcome :=
  match (s.mbx m).taken with
  | some k =>
    if k.op = 0x0101 ∧ 2 ≤ k.arg 7 0 then runCmd s m 0x0101 anyAction (fun _ => refuse s m stBadArg)
    else
      runRecord s m 0x0101 (action 0) (fun n => n == 2) (fun s r => [(s.cmd.bound || s.prot.service, stConflict)] ++ routeRows s r.body) (fun s _ r =>
        let t := routeOf' r.body
        let s := installRoute s t
        let s := { s with cmd := { s.cmd with bound := true, slice := t.slice, tolerance := 1000 } }
        emit (finish s m stOk (leBytes 8 t.slice.toNat)) (appliedEv r))
  | none => .next s

/-! `PROT_APPLY`. -/

/-- The kinds of record that `PROT_APPLY` carries. -/
def applyKinds (n : Nat) : Bool := n == 1 || n == 4 || n == 5 || n == 6 || n == 7 || n == 9

/-- The response of `PROT_APPLY` and its event. -/
def applied (s : State) (m : Fin 8) (r : ProtRecord) : State := emit (finish s m stOk (leBytes 2 r.kind)) (appliedEv r)

def applyRecord (s : State) (m : Fin 8) (mine : Nat → Bool) (rows : State → ProtRecord → List (Bool × Nat)) (f : State → ProtRecord → State) : Outcome :=
  runRecord s m 0x0702 (fun k => mine (recKind k)) applyKinds rows (fun s _ r => applied (f s r) m r)

/-- Stores the keys and measures them (R431). -/
def storeKeys (s : State) (o c : Nat) : State :=
  let k := (BitVec.ofNat 768 o, BitVec.ofNat 768 c)
  extend (s.modProt (fun p => { p with enrolled := some k })) 5 (keysDigest k)

def storePolicy (s : State) (t : Tab Word32) : State := extend (s.modProt (fun p => { p with policy := t })) 5 (policyDigest t)

/-- `ENROLL` (R448), and the kinds that `PROT_APPLY` does not carry: the keys and the default domain policy. -/
def execEnroll (m : Fin 8) (s : State) : Outcome :=
  applyRecord s m (fun n => !(n == 4 || n == 5 || n == 6 || n == 7 || n == 9)) (fun s _ => [(s.prot.enrolled.isSome, stConflict)])
    (fun s r => storePolicy (storeKeys s (leNat (r.body.take 96)) (leNat (r.body.drop 96))) [])

/-- `ROUTING_UPDATE` (Table 16.7). -/
def execRoutingUpdate (m : Fin 8) (s : State) : Outcome :=
  applyRecord s m (fun n => n == 4) (fun s r =>
      let t := routeOf' r.body
      [(!s.cmd.bound || !s.fabric.route.any (fun o => o.slice == t.slice && o.configId == t.configId), stConflict)] ++ routeRows s r.body)
    (fun s r => installRoute s (routeOf' r.body))

/-- The policy words of a body. -/
def policyOf (body : List Byte) : Tab Word32 :=
  (((policyWords body).zipIdx).map (fun p => (p.2, BitVec.ofNat 32 p.1))).filter (fun e => e.2 != 3)

/-- `DOMAIN_POLICY` (R440). -/
def execDomainPolicy (m : Fin 8) (s : State) : Outcome :=
  applyRecord s m (fun n => n == 5) (fun s r => [(s.cmd.domains.any (fun d => !(tabGet (3 : Word32) (policyOf r.body) d.toNat).getLsbD 0), stConflict)])
    (fun s r => storePolicy s (policyOf r.body))

/-- `FW_POLICY` (Table 16.7). -/
def execFwPolicy (m : Fin 8) (s : State) : Outcome :=
  let keys := fun (r : ProtRecord) => bits (leNat r.body) 63 32
  applyRecord s m (fun n => n == 6) (fun _ r => [(decide (keys r < 1 ∨ 4 < keys r), stBadArg)])
    (fun s r =>
      let p : FwPolicy := { minVersion := BitVec.ofNat 32 (leNat (r.body.take 4)), keys := ((pieces 48 (r.body.drop 8)).take (keys r)).map (fun l => BitVec.ofNat 384 (leNat l)) }
      extend (s.modProt (fun q => { q with fwPolicy := some p })) 4 (fwPolicyDigest (some p)))

/-- The parts of a KEY_ROTATE body: which, and part i of 96 bytes. -/
def rotWhich (r : ProtRecord) : Nat := bits (leNat r.body) 7 0
def rotPart (r : ProtRecord) (i : Nat) : Nat := leNat ((r.body.drop (8 + 96 * i)).take 96)

/-- A new key that the record names has no proof over the header (R446). -/
def rotUnproved (r : ProtRecord) : Bool :=
  let bad := fun (i : Nat) => !ecdsaVerifies (rotPart r i) (r.signed.take 64) (rotPart r (2 + i))
  (rotWhich r != 2 && bad 0) || (rotWhich r != 1 && bad 1)

/-- `KEY_ROTATE` (R446). -/
def execKeyRotate (m : Fin 8) (s : State) : Outcome :=
  applyRecord s m (fun n => n == 7) (fun _ r => [(decide (rotWhich r < 1 ∨ 3 < rotWhich r), stBadArg), (rotUnproved r, stSigInvalid)])
    (fun s r =>
      let old := (s.prot.enrolled.map (fun k => (k.1.toNat, k.2.toNat))).getD (0, 0)
      storeKeys s (if rotWhich r = 2 then old.1 else rotPart r 0) (if rotWhich r = 1 then old.2 else rotPart r 1))

/-! Nonces (R444). -/

/-- `PROT_NONCE_GET`: 32 fresh bytes and the next number. -/
def execProtNonceGet (m : Fin 8) (s : State) : Outcome :=
  runCmd s m 0x0701 anyAction (fun _ =>
    let v := BitVec.ofNat 256 s.freeVal
    let n := s.prot.nonceNo + 1
    let s := s.bump.modProt (fun p => { p with nonce := some (v, n, s.time.now), nonceNo := n })
    finish s m stOk (leBytes 32 v.toNat ++ leBytes 4 n.toNat))

/-- `NONCE_EXPIRY`. -/
def execNonceExpiry (s : State) : Outcome := .next (s.modProt (fun p => { p with nonce := none }))

/-! Evidence (R433, R434). -/

/-- Index of the last entry that p holds of. -/
def lastIndex (p : LogEntry → Bool) (l : List LogEntry) : Option Nat := (l.zipIdx.filter (fun e => p e.1)).getLast?.map (·.2)

/-- The entries that evidence carries, and measurement 6 before the first of them. -/
def evidenceLog (s : State) : List LogEntry × BitVec 384 :=
  let l := s.prot.log.entries
  let from' := if s.cmd.bound then lastIndex (fun e => e.kind == 2) l else (lastIndex (fun e => e.kind == 3) l).orElse (fun _ => lastIndex (fun e => e.kind == 1) l)
  let start := if s.prot.log.compacted then 0 else l.length
  let k := max (from'.getD start) (l.length - 1024)
  (l.drop k, chainLog s.prot.log.base (l.take k))

/-- Header (Table 16.4), measurements and entries. -/
def evidenceBody (s : State) (nonce : Nat) : List Byte :=
  let e := evidenceLog s
  leBytes 128 (packBits [(32, 0x44495645), (16, 1), (16, 6), (32, e.1.length), (3, 0), (1, b2n s.trusted), (3, s.cmd.module.val), (1, b2n s.cmd.bound), (12, s.cmd.slice.toNat), (12, moduleId s), (128, Config.serial), (64, idDevice s), (64, s.time.now.toNat), (256, nonce), (384, e.2.toNat)]) ++
    ([1, 2, 3, 4, 5, 6].flatMap (fun i => leBytes 48 (measOf s i).toNat)) ++ e.1.flatMap LogEntry.bytes

/-- `ATTEST_GET`; a response buffer too small is refused by R395. -/
def execAttestGet (m : Fin 8) (s : State) : Outcome :=
  runCmd s m 0x0703 anyAction (fun k =>
    let b := evidenceBody s (k.arg 255 0)
    let n := b.length + 96
    if k.respLen ≠ 0 ∧ k.respLen < 16 + 4 + n then refuse s m stBadArg
    else
      let r := signBytes s b
      finish r.1 m stOk (leBytes 4 n ++ b ++ r.2))

end Sys2Proof.Machine
end

