-- ==== Sys2Proof/Machine/Debug.lean ====
section
/-! DEFINITION. Debug grants (R451, R452, Tables 4.14 to 4.18, 16.9, 16.10). -/

namespace Sys2Proof.Machine

/-! Instruction words (Tables 4.14 to 4.18) as a single step runs them. -/

/-- A 22-bit SRAM operand whose bit 0 is bit `lo` of the word (R117). -/
def wordOp (w lo : Nat) : SramOp := { region := BitVec.ofNat 3 (w >>> (lo + 19)), areg := Fin.ofNat 16 (w >>> (lo + 15)), off := BitVec.ofNat 15 (w >>> lo) }

def wordMma (w : Nat) : MmaFields :=
  { acc := Fin.ofNat 16 (w >>> 108), accumulate := bitAt w 107, bResident := bitAt w 106, fmtA := BitVec.ofNat 4 (w >>> 102), fmtB := BitVec.ofNat 4 (w >>> 98), groups := BitVec.ofNat 6 (w >>> 92), bnd := Fin.ofNat 32 (w >>> 87), opa := wordOp w 65, opb := wordOp w 43 }

def wordVec (w : Nat) : VecFields :=
  { func := BitVec.ofNat 6 (w >>> 106), fmtD := BitVec.ofNat 4 (w >>> 102), fmtA := BitVec.ofNat 4 (w >>> 98), fmtB := BitVec.ofNat 4 (w >>> 94), bnd := Fin.ofNat 32 (w >>> 89), rows := Fin.ofNat 32 (w >>> 84), bsel := Fin.ofNat 4 (w >>> 82), sb := Fin.ofNat 32 (w >>> 77), opd := wordOp w 55, opa := wordOp w 33, opb := wordOp w 11 }

def wordSmt (w : Nat) : SmtFields :=
  { toDevice := bitAt w 111, lengthM1 := BitVec.ofNat 8 (w >>> 103), region := BitVec.ofNat 3 (w >>> 100), aS := Fin.ofNat 16 (w >>> 96), off := BitVec.ofNat 23 (w >>> 73), aD := Fin.ofNat 16 (w >>> 69), devOff := BitVec.ofNat 48 w }

def wordMem (w : Nat) : ScalarMem :=
  { s := Fin.ofNat 32 (w >>> 107), log2w := Fin.ofNat 4 (w >>> 105), region := BitVec.ofNat 3 (w >>> 101), areg := Fin.ofNat 16 (w >>> 97), off := BitVec.ofNat 23 (w >>> 74) }

/-- The second operand of SALU and SCMP: use_imm and sb, with imm32 in the low bits. -/
def wordSrc (w useImm sb : Nat) : ScalarSrc := if bitAt w useImm then .imm (BitVec.ofNat 32 w) else .reg (Fin.ofNat 32 (w >>> sb))

def wordReg (w lo add : Nat) : Option (Fin 16) := if bitAt w add then some (Fin.ofNat 16 (w >>> lo)) else none

def wordIssue (t : Fin 192) (c : Fin 4) (w : Nat) : Issue := { tile := t, ctx := c, pe := bitAt w 119, pn := bitAt w 118, pidx := Fin.ofNat 8 (w >>> 115) }

/-- Runs the instruction that a word of CODE encodes; a reserved opcode is an undefined instruction (R72). -/
def runWord (s : State) (t : Fin 192) (c : Fin 4) (w : Nat) : Outcome :=
  let u := wordIssue t c w
  let r5 := fun (lo : Nat) => (Fin.ofNat 32 (w >>> lo) : Fin 32)
  let vid := BitVec.ofNat 16 (w >>> 96)
  let imm := BitVec.ofNat 32 w
  match wOp w with
  | 0x00 => execNop u s
  | 0x01 => execSli u (r5 107) (BitVec.ofNat 64 w) s
  | 0x02 => execSalu u (BitVec.ofNat 6 (w >>> 106)) (r5 101) (r5 96) (wordSrc w 95 90) s
  | 0x03 => execScmp u (Fin.ofNat 8 (w >>> 109)) (BitVec.ofNat 4 (w >>> 105)) (r5 100) (wordSrc w 99 94) s
  | 0x04 => execPlog u (Fin.ofNat 8 (w >>> 109)) (Fin.ofNat 8 (w >>> 106)) (Fin.ofNat 8 (w >>> 103)) (Fin.ofNat 4 (w >>> 101)) s
  | 0x05 => execAadd u (Fin.ofNat 16 (w >>> 108)) (bitAt w 107) (Fin.ofNat 16 (w >>> 103)) (r5 98) (BitVec.ofNat 48 w) s
  | 0x06 => execSget u (r5 107) (BitVec.ofNat 6 (w >>> 101)) s
  | 0x07 => execLds u (wordMem w) (bitAt w 104) s
  | 0x08 => execSts u (wordMem w) s
  | 0x0E => execBr u imm s
  | 0x0F => execLoop u (Fin.ofNat 8 (w >>> 109)) (bitAt w 108) (r5 103) (BitVec.ofNat 16 (w >>> 87)) (BitVec.ofNat 32 (w >>> 32)) imm s
  | 0x10 => execEnd u s
  | 0x20 => execMma u (wordMma w) s
  | 0x30 => execVop u (wordVec w) s
  | 0x31 => execSfn u (wordVec w) s
  | 0x32 => execRowstat u (wordVec w) s
  | 0x40 => execSqis u vid (Fin.ofNat 256 (w >>> 88)) (wordReg w 84 83) (wordReg w 79 78) (r5 73) s
  | 0x41 => execSmt u (wordSmt w) s
  | 0x42 => execAeq u vid (Fin.ofNat 32 (w >>> 91)) (Fin.ofNat 4 (w >>> 89)) (r5 84) s
  | 0x43 => execColl u vid (wordReg w 92 91) (wordReg w 87 86) s
  | 0x50 => execWaitc u vid (r5 91) imm s
  | 0x51 => execSigc u vid (r5 91) imm s
  | 0x52 => execTake u vid (r5 91) s
  | 0x53 => execPut u vid (r5 91) s
  | 0x54 => execFaa u vid (r5 91) (r5 86) imm s
  | 0x55 => execStr u (Fin.ofNat 16 (w >>> 108)) (bitAt w 107) s
  | 0x56 => execBlkcnt u (BitVec.ofNat 8 (w >>> 104)) (r5 99) s
  | _ => .next (issue s u (fun x => issueFault s u x 0x03 none))

/-! Context records (R73). -/

def CtxSt.code : CtxSt → Nat
  | .empty => 0 | .ready => 1 | .running => 2 | .spinning => 3 | .parked => 4 | .faulted => 5 | .halted => 6

/-- The state of Table 3.4 in the table's order. -/
def ctxWords (x : Ctx) : Nat :=
  packBits ([(32, x.pc.toNat)] ++ (List.range 32).map (fun i => (64, (tabGet (0 : Word64) x.sregs i).toNat)) ++ (List.range 16).map (fun i => (64, (tabGet (0 : Word64) x.aregs i).toNat)) ++
    (List.range 8).map (fun i => (32, (x.getL i).toNat)) ++ [(8, x.preds.toNat)] ++ (List.range 8).map (fun i => (32, (x.getX i).toNat)) ++
    [(64, (x.wait.map (·.obj)).getD 0), (2, x.prio.toNat), (3, x.st.code)])

/-- The 1 KiB record: its layout is not in the manual (log entry 15). -/
def contextRecord (x : Ctx) : List Byte := leBytes 1024 (Config.contextRecord (ctxWords x))

/-! Single steps. -/

def grantOf (s : State) (n : Word32) : Option DebugGrant := s.prot.grants.find? (fun g => g.number == n)
def setGrant (s : State) (g : DebugGrant) : State :=
  s.modProt (fun p => { p with grants := p.grants.map (fun h => if h.number = g.number then g else h) })
def DebugGrant.num (g : DebugGrant) : Nat := g.body.toNat
def DebugGrant.scope (g : DebugGrant) : Nat := gbScope g.num
def DebugGrant.tile (g : DebugGrant) : Fin 192 := Fin.ofNat 192 (gbTile g.num)

/-- Writes to the result buffer; what lies beyond it is not written.  Answers the bytes written. -/
def writeResult (s : State) (g : DebugGrant) (l : List Byte) : State × Nat :=
  let l := l.take (gbHostLen g.num)
  (s.hostWrite (gbHost g.num) l, l.length)

/-- SRAM and context registers of a tile are zeroed. -/
def zeroTile (s : State) (t : Fin 192) : State :=
  let s := { s with sram := memZero s.sram (sramIx t 0) (2 ^ 23) }
  let s := s.forAll allCtx (fun s c => s.setCtx t c {})
  s.modTile t (fun y => { y with mxu := [], vxu := [], sfu := [], mxuRuns := 0, mxuFirst := none, loaded := none, switching := none, stepGrant := none, stepLen := none })

/-- n instructions of context 0, one at a time, each complete before the next; the record after each. -/
def stepMany : Nat → State → Fin 192 → List Byte → List Byte → State × List Byte
  | 0, s, _, _, out => (s, out)
  | n + 1, s, t, code, out =>
    if (s.ctx t 0).st ≠ .running then (s, out)
    else
      let s := nextOf s (runWord s t 0 (leNat ((code.drop (s.ctx t 0).pc.toNat).take 16)))
      let s := drainUnits 4 s t [0]
      stepMany n s t code (out ++ contextRecord (s.ctx t 0))

/-- Bytes that a grant reads regardless of access domain: zeros of grains that `want` excludes; free bytes where a grain
gives none in time, or the address is not grain space. -/
def grantBytes (s : State) (a n : Nat) (want : Grain → Bool) : List Byte :=
  (rangeGrains a n).flatMap (fun g =>
    let lo := max a (g * 65536)
    let k := min (a + n) ((g + 1) * 65536) - lo
    let x := s.grain g
    if !inGrains lo then leBytes k (s.freeVal / 2 ^ (8 * (lo - a)))
    else if !want x then List.replicate k 0
    else if x.st = 1 ∨ x.st = 5 ∨ x.st = 7 ∨ x.st = 8 ∨ x.st = 9 then leBytes k (s.freeVal / 2 ^ (8 * (lo - a)))
    else s.devRead lo k)

/-- A tile that holds no bound context and no other grant. -/
def tileFree (s : State) (t : Fin 192) : Bool :=
  (s.tile t).stepGrant.isNone && allCtx.all (fun c => let x := s.ctx t c
    x.st == .empty && x.slot.isNone)

/-- `STEP_TILE_TAKE` (R452): the tile is taken, zeroed and loaded, and the instructions run. -/
def execStepTileTake (n : BitVec 32) (s : State) : Outcome :=
  match grantOf s n with
  | none => .next s
  | some g =>
    let t := g.tile
    if g.scope ≠ 1 ∨ g.holds ∨ !tileFree s t then .next s
    else
      let len := gbTargetLen g.num
      let code := grantBytes s (gbTarget g.num) len (fun _ => true)
      let s := (zeroTile (s.setLevel t.val 0) t).setWake t.val 0
      let s := s.setCtx t 0 { st := .running }
      let s := s.modTile t (fun y => { y with loaded := some 0, stepGrant := some n, stepLen := some len })
      let r := stepMany (gbSteps g.num) s t code []
      let w := writeResult r.1 g r.2
      .next (setGrant w.1.bump { g with holds := true, ready := true, written := w.2 })

/-! Applying and ending grants. -/

/-- `EV_DEBUG_GRANT`. -/
def grantEv (n : Word32) (b : Nat) : Ev :=
  { type := 0x7003, items := [(32, n.toNat), (8, gbScope b), (16, gbTile b), (16, gbDomain b), (64, gbTarget b)] }

/-- Scope of the grant record that a command carries. -/
def grantScope (k : Taken) : Nat := gbScope (bits k.ext 1023 512)

/-- `DEBUG_GRANT` (R425, R451): a grant that passes R443 is applied. -/
def debugGrant (s : State) (m : Fin 8) (mine : Nat → Bool) : Outcome :=
  runRecord s m 0x0704 (fun k => mine (grantScope k)) (fun n => n == 8) (fun _ _ => []) (fun s _ r =>
    let n := s.prot.grantNo + 1
    let b := leNat r.body
    let s := s.modProt (fun p => { p with grantNo := n, grants := p.grants ++ [{ number := n, body := BitVec.ofNat 512 b, since := s.time.now }] })
    emit (emit (finish s m stOk (leBytes 4 n.toNat)) (appliedEv r)) (grantEv n b))

/-- `STEP`, and the scopes that are not of Table 16.9. -/
def execStep (m : Fin 8) (s : State) : Outcome := debugGrant s m (fun n => n != 2 && n != 3)
/-- `TRACE`. -/
def execTrace (m : Fin 8) (s : State) : Outcome := debugGrant s m (fun n => n == 2)
/-- `MEMORY_READ`. -/
def execMemoryRead (m : Fin 8) (s : State) : Outcome := debugGrant s m (fun n => n == 3)

/-- A grant is over: a tile that it holds is zeroed and returned, `EV_DEBUG_DONE` is written. -/
def endGrant (s : State) (g : DebugGrant) (status written : Nat) : State :=
  let s := s.modProt (fun p => { p with grants := p.grants.filter (fun h => h.number != g.number) })
  let s := if g.holds then resched (zeroTile s g.tile) g.tile else s
  emit s { type := 0x7004, status := status, items := [(32, g.number.toNat), (32, written)] }

/-- The trace buffer: the records of queues 0 to 3, oldest first, then what firmware has traced, a free amount of free
bytes. -/
def traceBytes (s : State) : List Byte :=
  (List.range 4).flatMap (fun q => (tabGet [] s.prot.trace q).reverse.flatMap (fun w => leBytes 64 w.toNat)) ++
    leBytes (64 * (s.freeVal % 65536)) (s.freeVal / 65536)

/-- `DEBUG_WORK_END` (R452). -/
def execDebugWorkEnd (n : BitVec 32) (s : State) : Outcome :=
  match grantOf s n with
  | none => .next s
  | some g =>
    if g.scope = 1 then (if g.ready then .next (endGrant s g stOk g.written) else .next s)
    else
      let l := if g.scope = 2 then traceBytes s else grantBytes s (gbTarget g.num) (gbTargetLen g.num) (fun x => x.st != 0 && x.domain.toNat == gbDomain g.num)
      let w := writeResult s.bump g l
      .next (endGrant w.1 g stOk w.2)

/-- `GRANT_EXPIRY` (R452). -/
def execGrantExpiry (n : BitVec 32) (s : State) : Outcome :=
  match grantOf s n with
  | none => .next s
  | some g => .next (endGrant s g stAbandoned g.written)

end Sys2Proof.Machine
end

