-- ==== Sys2Proof/Machine/Firmware.lean ====
section
/-! DEFINITION. Staging and activating control firmware, and the firmware reset (R426, R427, R447, R465, R467). -/

namespace Sys2Proof.Machine

/-! The trailer (R447). -/

def imgTrailer (l : List Byte) : List Byte := l.drop (l.length - 256)
def trMagic (t : List Byte) : Nat := leNat (t.take 4)
def trField (t : List Byte) (off n : Nat) : Nat := leNat ((t.drop off).take n)

/-- The digests of the keys that may sign firmware: the policy's, or before any policy the Beynel firmware key's. -/
def firmwareKeys (s : State) : List (BitVec 384) :=
  match s.prot.fwPolicy with
  | some p => p.keys
  | none => [BitVec.ofNat 384 (Config.digest 6 [])]

def minFirmware (s : State) : Nat := (s.prot.fwPolicy.map (·.minVersion.toNat)).getD 0

/-- The verdict on a whole image: a failed verification, any other failure, or the image. -/
def judgeImage (s : State) (l : List Byte) (total : Nat) : FwImage ⊕ Nat :=
  let t := imgTrailer l
  if l.length < 256 ∨ l.length ≠ total then .inr stDenied
  else
    let digest := digestOf (l.take (l.length - 256))
    if trField t 12 48 ≠ digest.toNat || !ecdsaVerifies (trField t 60 96) (t.take 160) (trField t 160 96) then .inr stSigInvalid
    else if trMagic t ≠ 0x4C525446 ∨ !(firmwareKeys s).contains (digestOf ((t.drop 60).take 96)) ∨ trField t 4 4 < minFirmware s ∨ trField t 8 2 ≠ 1 then .inr stDenied
    else .inl { major := BitVec.ofNat 16 (trField t 8 2), minor := BitVec.ofNat 16 (trField t 10 2), version := BitVec.ofNat 32 (trField t 4 4), digest := digest }

/-- `FW_STAGE` (R426): a chunk in order; the last is judged, and an accepted image is written to the inactive bank as
activity 5. -/
def execFwStage (m : Fin 8) (s : State) : Outcome :=
  runCmd s m 0x0801 anyAction (fun k =>
    let off := k.arg 31 0
    let total := k.arg 63 32
    let n := s.prot.staged.length
    refusing s m [(off != 0 && off != n, stBadArg), (decide (67108864 < total) || (off != 0 && total != s.prot.stagedTotal), stBadArg)] (fun _ =>
      match collides s 5 0 with
      | some x => finish s m stBusy (maintBody x)
      | none =>
        let l := (if off = 0 then [] else s.prot.staged) ++ k.args
        let s := s.modProt (fun p => { p with staged := l, stagedTotal := total })
        if !bitAt k.num 64 then finish s m stOk (leBytes 4 l.length)
        else
          match judgeImage s l total with
          | .inr st => refuse (s.modProt (fun p => { p with staged := [], stagedTotal := 0 })) m st
          | .inl i =>
            let s := s.modProt (fun p => { p with staged := [], stagedTotal := 0, accepted := some i })
            finish (startMaint s 5 0).1 m stOk (leBytes 4 l.length)))

/-! The firmware reset (Table 17.7). -/

/-- Maintenance instances with what they hold, the nonce and its numbering, and the measurements start again. -/
def restartFirmware (s : State) : State :=
  let s := setRecal { s with cmd := { s.cmd with maint := [], ended := [], maintNo := 0, module := 0 } } 15 false
  s.modProt (fun p => { p with nonce := none, nonceNo := 0, meas := [], staged := [], stagedTotal := 0, scrub := none })

/-- Control firmware restarts from the bank that becomes active with the accepted image. -/
def firmwareReset (s : State) (i : FwImage) : State :=
  let old := (BitVec.ofNat 16 (fwMajor s), BitVec.ofNat 16 (fwMinor s))
  let b : Fin 2 := if s.prot.bank = 0 then 1 else 0
  let s := s.forAll (allSlots.filter (fun n => (s.slot n).loaded)) unloadImage
  (restartFirmware s).modProt (fun p => { p with bank := b, banks := tabPut none p.banks b.val (some i), accepted := none, replaced := some old })

/-- No other mailbox has a command that has been taken. -/
def othersDone (s : State) (m : Fin 8) : Bool := (List.finRange 8).all (fun j => j == m || (s.mbx j).taken.isNone)

/-- The response, then the reset. -/
def activateImage (s : State) (m : Fin 8) (i : FwImage) : State :=
  firmwareReset (finish s m stOk (leBytes 4 (packBits [(16, i.minor.toNat), (16, i.major.toNat)]))) i

/-- Any launch, or an activity other than code 5. -/
def activateBusy (s : State) : Bool := allSlots.any (fun n => (s.launch n).isSome) || s.cmd.maint.any (fun x => x.activity != 5)

/-- `FW_ACTIVATE` (R427): once accepted it waits for the commands already taken on other mailboxes; given again, it
completes when they have. -/
def execFwActivate (m : Fin 8) (s : State) : Outcome :=
  match (s.mbx m).taken, s.prot.accepted with
  | some k, some i =>
    if k.op = 0x0802 ∧ k.working then (if othersDone s m then .next (activateImage s m i) else .next s)
    else
      runCmd s m 0x0802 anyAction (fun _ =>
        refusing s m [(activateBusy s, stBusy)] (fun _ =>
          let s := setWorking s m []
          if othersDone s m then activateImage s m i else s))
  | _, _ => runCmd s m 0x0802 anyAction (fun _ => refuse s m stConflict)

/-- `FW_READY` (R467): the new firmware has booted and is READY, or in SERVICE where that state was kept. -/
def execFwReady (s : State) : Outcome :=
  match s.prot.replaced with
  | none => .next s
  | some old =>
    let s := bootMeasure (s.modProt (fun p => { p with replaced := none })) true
    let s := { s with cmd := { s.cmd with module := if s.prot.service then 2 else 1 } }
    .next (emit s { type := 0x5003, items := [(16, old.1.toNat), (16, old.2.toNat), (16, fwMajor s), (16, fwMinor s), (8, s.prot.bank.val)] })

end Sys2Proof.Machine
end

