-- ==== Sys2Proof/Machine/Reset.lean ====
section
/-! DEFINITION. Resets, power and bring-up (R430, R454, R464 to R470, R495, R497, R501, R502, Tables 17.6 to 17.9). -/

namespace Sys2Proof.Machine

def State.modPins (s : State) (f : Pins → Pins) : State := { s with pins := f s.pins }

/-! The link reset (R466). -/

/-- A mailbox after a link reset: disabled and cleared; a command already taken goes on and writes nothing. -/
def linkMailbox (x : Mailbox) : Mailbox := { taken := x.taken.map (fun k => { k with silent := true }) }

/-- `LINK_RESET`: the host function's registers, mailboxes and queues; TDISP, the IDE keys and the session. -/
def execLinkReset (s : State) : Outcome :=
  let h := s.host
  let s := { s with host := { mbx := tabMap {} (fun _ x => linkMailbox x) h.mbx, takes := h.takes, linkRate := h.linkRate, linkWidth := h.linkWidth, trainedRate := h.trainedRate, trainedWidth := h.trainedWidth } }
  .next (setTdisp (s.modProt (fun p => { p with keyed := false, session := 0, sessionKeys := 0 })) .unlocked 0)

/-! Cold reset (Table 17.7). -/

/-- What flash keeps. -/
def flashOf (p : Prot) : Prot :=
  { enrolled := p.enrolled, fwPolicy := p.fwPolicy, log := p.log, banks := p.banks, bank := p.bank, cxlRecorded := p.cxlRecorded, serviceLeft := p.serviceLeft || p.service }

/-- A cold reset: flash, the pins and the standby stage keep what they hold; all else is as after State.reset.  Bring-up has
not begun. -/
def coldReset (s : State) : State :=
  { State.reset with
    hostMem := s.hostMem, geo := s.geo, out := s.out, pending := s.pending, free := s.free, smbus := { s.smbus with alertSeen := s.smbus.alertSeen &&& 1 }
    prot := flashOf s.prot
    pins := { s.pins with phase := 0, warm := false, cxlPerst := false } }

/-- Flash is connected to the header while FLASH_SEL# and PWR_GOOD are low (R497). -/
def setPass (s : State) : State := s.modPins (fun p => { p with flashPass := !p.flashSel && !p.pwrGood })

/-- Bring-up begins at phase 1 once 54 V, PWR_GOOD and COLD_RST# allow it and FLASH_SEL# is high (R497, R502). -/
def beginBringup (s : State) : State :=
  let p := s.pins
  if p.input && p.stbyOk && p.pwrGood && p.coldRst && p.flashSel && p.phase == 0 then s.modPins (fun p => { p with phase := 1 }) else s

/-- A release of reset samples the geographic address pins (R19): nothing holds the module in reset any more. -/
def sampleGeo (s : State) (ga : BitVec 6) : State :=
  let p := s.pins
  if p.input && p.stbyOk && p.pwrGood && p.coldRst && p.phase == 0 then { s with geo := ga } else s

/-- `POWER_APPLIED` (R502): the standby stage comes up; 54 V is a cold reset. -/
def execPowerApplied (ga : BitVec 6) (s : State) : Outcome :=
  if s.pins.input then .next s
  else .next (beginBringup (sampleGeo (setPass ((coldReset s).modPins (fun p => { p with input := true, stbyOk := true }))) ga))

/-- `PWR_GOOD_RISE` (R19, R502). -/
def execPwrGoodRise (ga : BitVec 6) (s : State) : Outcome :=
  .next (beginBringup (sampleGeo (setPass (s.modPins (fun p => { p with pwrGood := true }))) ga))

/-- `PWR_GOOD_LOW` (R501): the module powers down. -/
def execPwrGoodLow (s : State) : Outcome :=
  .next (setPass ((if s.pins.pwrGood then coldReset s else s).modPins (fun p => { p with pwrGood := false })))

/-- `INPUT_OUT_OF_RANGE` (R501, R503): the module powers down; the standby stage stays up at 40 V and above. -/
def execInputOutOfRange (below40 : Bool) (s : State) : Outcome :=
  .next ((coldReset s).modPins (fun p => { p with input := false, stbyOk := p.stbyOk && !below40 }))

/-- `INPUT_RECOVERED` (R501): 54 V has been back for 10 ms and PWR_GOOD is high. -/
def execInputRecovered (ga : BitVec 6) (s : State) : Outcome :=
  if s.pins.input || !s.pins.pwrGood then .next s
  else .next (beginBringup (sampleGeo ((coldReset s).modPins (fun p => { p with input := true, stbyOk := true })) ga))

/-- `COLD_RST` (R464, R502): held low, it keeps the module powered down. -/
def execColdRst (s : State) : Outcome :=
  .next ((if s.pins.pwrGood then coldReset s else s).modPins (fun p => { p with coldRst := false }))

/-- `COLD_RST_RELEASE` (R19, R502). -/
def execColdRstRelease (ga : BitVec 6) (s : State) : Outcome :=
  .next (beginBringup (sampleGeo (s.modPins (fun p => { p with coldRst := true })) ga))

/-- `FLASH_SEL` (R497). -/
def execFlashSel (s : State) : Outcome := .next (setPass (s.modPins (fun p => { p with flashSel := false })))

/-- `FLASH_SEL_RELEASE` (R497): a bring-up that waited goes on. -/
def execFlashSelRelease (s : State) : Outcome := .next (beginBringup (setPass (s.modPins (fun p => { p with flashSel := true }))))

/-! Warm reset (Table 17.7). -/

/-- Host link, BAR0, mailboxes, event queues, TDISP, IDE keys, session. -/
def clearHost (s : State) : State :=
  { s with host := {}, prot := { s.prot with tdisp := .unlocked, keyed := false, session := 0, sessionKeys := 0, accepted := none } }

/-- Launches are stopped, their objects abandoned, images unloaded. -/
def clearLaunches (s : State) : State :=
  let s := s.forAll (allSlots.filter (fun n => (s.launch n).isSome)) (fun s n => stopLaunch s n 1)
  s.forAll (allSlots.filter (fun n => (s.slot n).loaded)) unloadImage

/-- The ports retrain and the sessions are gone. -/
def clearFabric (h : Fabric) : Fabric := { route := h.route, halts := h.halts, xferNo := h.xferNo }

/-- What a warm reset clears itself: rings, collectives, fabric, time, counters; SRAM, Tuns and sync homes are zeroed as the
dies are powered (Table 17.9). -/
def clearModule (s : State) : State :=
  let u := s.rings
  { s with
    rings := { u with table := tabMap {} (fun _ r => if r.st = 1 then { r with st := 2 } else r) u.table, early := [], earlyHolds := [] }
    colls := { s.colls with active := [], early := [] }
    sram := [], streams := { s.streams with tun := [], fills := [] }, sync := { s.sync with objs := [] }
    fabric := clearFabric s.fabric, time := {}, tiers := { s.tiers with cxl := [], hub := [] }, counters := [], idle := {}
    cmd := { s.cmd with closing := [] }
    smbus := { s.smbus with alertSeen := s.smbus.alertSeen &&& 3 }
    pins := { s.pins with phase := 2, warm := true, cxlPerst := false } }

/-- The state that a warm reset clears (Table 17.7): the host's part, the launches, the running firmware's work, the rest. -/
def warmReset (s : State) : State := clearModule (restartFirmware (clearLaunches (clearHost s)))

/-- `PERST` (R464). -/
def execPerst (s : State) : Outcome :=
  let low := fun (s : State) => s.modPins (fun p => { p with perst := false })
  if s.pins.perst && s.pins.phase != 0 then .next (low (warmReset s)) else .next (low s)

/-- `PERST_RELEASE` (R469): the release of a reset samples the geographic address pins (R19). -/
def execPerstRelease (ga : BitVec 6) (s : State) : Outcome :=
  if s.pins.perst then .next s else .next ({ s with geo := ga }.modPins (fun p => { p with perst := true }))

/-- `WATCHDOG_EXPIRY` (R464). -/
def execWatchdogExpiry (s : State) : Outcome := if s.pins.phase = 0 then .next s else .next (warmReset s)

/-! The end of bring-up (R469, R470). -/

/-- Phase 2: the exit from service and a fallback to the other bank are logged, then the boot is measured (R430, R449). -/
def bootRom (s : State) (r : BringupResult) : State :=
  let s := if s.prot.serviceLeft then logEntry (s.modProt (fun p => { p with serviceLeft := false })) 0x0101 0 0 else s
  let s := if r.fellBack && r.firmwareOk then logEntry (s.modProt (fun p => { p with bank := if p.bank = 0 then 1 else 0 })) 0x0102 0 0 else s
  bootMeasure s r.firmwareOk

/-- A stack that fails its training is out of service (R470); one that held frames is treated as in R485. -/
def bringStacks (s : State) (ok : BitVec 24) : State :=
  let s := if s.tiers.dir.isEmpty then s else s.forAll (List.finRange 24) (fun s k => if ok.getLsbD k.val then s else stackFails k s)
  { s with tiers := { s.tiers with stacksUp := ok } }

/-- A fabric port trains at a width; which lanes of a narrower one failed is a free value. -/
def bringPort (s : State) (p : Nat) (w : Fin 4) : State :=
  if w = 0 then s.setPort p {}
  else if w = 3 then s.setPort p { st := 0, width := 3 }
  else
    let l := lanesFor w.val
    s.bump.setPort p { st := 0, width := w, failed := BitVec.ofNat 4 (l.getD (s.freeVal % l.length) 0) }

/-- A far frame on the expander's poison list is retired before use (R186); a grain that has kept it loses that copy. -/
def retirePoisoned (p : Fin 2) (s : State) (f : BitVec 26) : State :=
  let holds := fun (x : Grain) => (x.farHeld && x.farPort == p && x.farFrame == f) ||
    (x.mirrorHeld && otherPort x.farPort == p && x.mirrorFrame == f)
  if farFrames s p.val ≤ f.toNat then s
  else match s.tiers.dir.find? (fun e => holds e.2) with
    | some e => copyFails s e.1 (if e.2.farHeld && e.2.farPort == p && e.2.farFrame == f then 1 else 2)
    | none =>
      if tabGet false s.tiers.farUsed (p.val * farStride + f.toNat) then s
      else count (takeFar s p.val f.toNat) 0x1D00

/-- A CXL port trains: a width of 0 or no frames leaves it out of service.  An expander other than the one recorded at the
last unbind, and not in service before, is sanitized (R454); far copies on a port that does not come back, or comes back
with another expander, are lost (R211).
Frames on its poison list are retired (R186). -/
def bringCxl (s : State) (p : Fin 2) (w : Fin 4) (frames : Nat) (id : BitVec 64) (poison : List (BitVec 26)) : State :=
  let old := tabGet 0 s.prot.cxlIds p.val
  let up := w != 0 && frames != 0
  let lost := s.tiers.dir.any (fun e => (e.2.farHeld && e.2.farPort == p) || (e.2.mirrorHeld && otherPort e.2.farPort == p)) && (!up || id != old)
  let s := if lost then portOut (s.setCxl p.val { inService := true }) p 3 else s
  if !up then s.setCxl p.val {}
  else
    let s := if id != tabGet 0 s.prot.cxlRecorded p.val && id != old then { s with out := { s.out with sanitized := s.out.sanitized ++ [p] } } else s
    let s := (s.setCxl p.val { inService := true, width := w, frames := frames }).modProt (fun q => { q with cxlIds := tabPut 0 q.cxlIds p.val id })
    poison.foldl (retirePoisoned p) s

/-- Mirrored grains that lost a copy gain a new twin (R211). -/
def regainTwins (s : State) : State :=
  s.forAll (s.tiers.dir.filter (fun e => e.2.mirrored && e.2.degraded && e.2.farHeld)) (fun s e => (giveMirror s e.1).1)

/-- Phases 3 to 5. -/
def bringUnits (s : State) (r : BringupResult) : State :=
  let s := bringStacks s r.stacksOk
  let s := s.forAll (List.range 8) (fun s p => bringPort s p (r.portWidth.getD p 0))
  let s := s.forAll ([0, 1] : List (Fin 2)) (fun s p => bringCxl s p (r.cxlWidth.getD p.val 0) (r.cxlFrames.getD p.val 0) (r.cxlId.getD p.val 0) (r.cxlPoison.getD p.val []))
  flush (regainTwins (s.modPins (fun p => { p with cxlPerst := true })))

/-- `BRINGUP_END`: READY, SERVICE where that state was kept, or FAILED. -/
def execBringupEnd (r : BringupResult) (s : State) : Outcome :=
  let p := s.pins
  if p.phase = 0 ∨ p.phase = 7 ∨ (p.warm && !p.perst) then .next s
  else
    let s := bootRom s r
    let ok := r.firmwareOk && r.configOk && r.diesOk
    let s := if ok then bringUnits s r else s
    let s := s.modPins (fun p => { p with phase := 7, warm := false })
    .next { s with cmd := { s.cmd with module := if !ok then 3 else if s.prot.service then 2 else 1 } }

end Sys2Proof.Machine
end

