-- ==== Sys2Proof/Machine/Idle.lean ====
section
/-! DEFINITION. Idle levels and wakes (R460 to R463), SMBus, the leak sensor and JTAG (R450, R496, R498). -/

namespace Sys2Proof.Machine

def unitIx : IdleUnit → Nat
  | .tile t => t.val
  | .ae e => aeUnit e

/-- `IDLE_I2_ENTRY` (Table 17.2). -/
def execIdleI2Entry (u : IdleUnit) (s : State) : Outcome :=
  if s.level (unitIx u) = 1 ∧ s.wakePhase (unitIx u) = 0 ∧ 2 ≤ permitted s then .next (s.setLevel (unitIx u) 2) else .next s

/-- Tiles and AEs of a die, as units. -/
def dieUnits (d : Fin 4) : List Nat := (List.range 48).map (fun i => d.val * 48 + i) ++ (List.range 8).map (fun i => 192 + d.val * 8 + i)

/-- The die's engines have no work: no transfer in its queues, no small transfer of its tiles, no instance with chunks of its
collective engine (chunk c is die c mod 4's), no pass of its ring mover. -/
def enginesIdle (s : State) (d : Fin 4) : Bool :=
  allQueues.all (fun q => queueDie q != d || (s.queue q).active.isNone) && s.streams.smts.all (fun m => tileDie m.tile != d) &&
  s.colls.active.all (fun i => decide (collChunks i.d ≤ d.val)) && s.rings.binds.all (fun e => e.2.pass.isNone || moverDie s e.2 != die5 d)

/-- A launch runs: it is not HALTED. -/
def launchRuns (s : State) : Bool := allSlots.any (fun n => (s.launch n).any (fun l => !l.halted || l.phase != 0))

/-- `IDLE_I3_ENTRY` (Table 17.2): no request has reached the die's stacks for 1 ms. -/
def execIdleI3Entry (die : Fin 4) (s : State) : Outcome :=
  if 3 ≤ permitted s ∧ (dieUnits die).all (fun u => s.level u != 0 && s.wakePhase u == 0) ∧ enginesIdle s die ∧ !launchRuns s ∧
      s.cmd.maint.all (fun x => !(maintDies x.activity.val x.target).contains die.val) then
    let s := s.forAll (dieUnits die) (fun s u => s.setLevel u 2)
    .next { s with idle := { s.idle with dies := s.idle.dies ||| (1#4 <<< die.val) } }
  else .next s

/-- `IDLE_I4_ENTRY` (Table 17.2): SRAM, Tuns and sync homes are lost. -/
def execIdleI4Entry (s : State) : Outcome :=
  if 4 ≤ permitted s ∧ s.idle.dies = 15 ∧ allSlots.all (fun n => !(s.slot n).loaded) ∧ s.rings.table.all (fun e => e.2.st == 0) ∧
      s.colls.groups.all (fun e => !e.2.set) ∧ s.cmd.maint.isEmpty then
    .next { s with idle := { s.idle with module := true }, sram := [], streams := { s.streams with tun := [] }, sync := { s.sync with objs := [] } }
  else .next s

/-- `WAKE_SLOT` (R463): the slot of the unit's wave. -/
def execWakeSlot (u : IdleUnit) (s : State) : Outcome := if s.wakePhase (unitIx u) = 1 then .next (s.setWake (unitIx u) 2) else .next s

/-- `WAKE_DONE` (R462): the unit is at I0; a tile's sequencer goes on. -/
def execWakeDone (u : IdleUnit) (s : State) : Outcome :=
  if s.wakePhase (unitIx u) ≠ 2 then .next s
  else
    let s := (s.setLevel (unitIx u) 0).setWake (unitIx u) 0
    match u with
    | .tile t => .next (resched s t)
    | .ae _ => .next s

/-! SMBus (R498, Table 19.4). -/

def sendSmbus (s : State) (v : Option (BitVec 16)) : State := { s with out := { s.out with smbus := s.out.smbus ++ [v] } }

/-- The STATE word. -/
def smbusState (s : State) : BitVec 16 :=
  BitVec.ofNat 16 (packBits [(3, s.cmd.module.val), (1, b2n s.cmd.bound), (1, b2n !s.pins.leak), (1, b2n (statTherm s))])

/-- `SMBUS_REFRESH`. -/
def execSmbusRefresh (v : Telemetry) (s : State) : Outcome :=
  if !s.pins.stbyOk then .next s
  else
    let die := fun d => v.tDie.getD d 0x8000
    let l : List (BitVec 16) := [smbusState s, v.vin, v.iin, v.pin, v.tInlet, v.tOutlet, die 0, die 1, die 2, die 3, v.tStack]
    .next { s with smbus := { s.smbus with refreshed := true, values := (l.zipIdx 1).foldl (fun t e => tabPut 0 t e.2 e.1) [] } }

/-- `SMBUS_READ_WORD`: a command of Table 19.4 is answered, any other not acknowledged; temperatures read 0x8000 while not
yet measured. -/
def execSmbusReadWord (cmd : BitVec 8) (s : State) : Outcome :=
  let c := cmd.toNat
  if !s.pins.stbyOk || decide (c < 1 ∨ 0x0B < c) then .next (sendSmbus s none)
  else if s.smbus.refreshed then .next (sendSmbus s (some (tabGet 0 s.smbus.values c)))
  else .next (sendSmbus s (some (if 5 ≤ c then 0x8000 else 0)))

/-- The conditions of SMB_ALERT#: leak, thermal throttle, FAILED. -/
def alertConditions (s : State) : BitVec 3 := BitVec.ofNat 3 (packBits [(1, b2n !s.pins.leak), (1, b2n (statTherm s)), (1, b2n (s.cmd.module == 3))])

/-- SMB_ALERT# is low. -/
def smbAlert (s : State) : Bool := alertConditions s &&& ~~~s.smbus.alertSeen != 0

/-- `SMBUS_ALERT_RESPONSE`: the module answers while it drives SMB_ALERT# low, and releases it. -/
def execSmbusAlertResponse (s : State) : Outcome :=
  if s.pins.stbyOk && smbAlert s then
    .next (sendSmbus { s with smbus := { s.smbus with alertSeen := alertConditions s } } (some 0x4C))
  else .next (sendSmbus s none)

/-- `SMBUS_WRITE`: not acknowledged. -/
def execSmbusWrite (s : State) : Outcome := .next (sendSmbus s none)

/-- `LEAK_SENSOR_WET`: LEAK# goes low. -/
def execLeakSensorWet (s : State) : Outcome := .next (s.modPins (fun p => { p with leak := false }))

/-! JTAG (R450). -/

def sendJtag (s : State) (v : Word64) : State := { s with out := { s.out with jtag := s.out.jtag ++ [v] } }

/-- `JTAG_INSTRUCTION`: outside the service state an internal instruction reads 0; what boundary scan and internal access
read is a free value. -/
def execJtagInstruction (internal : Bool) (_data : BitVec 64) (s : State) : Outcome :=
  if internal && !s.prot.service then .next (sendJtag s 0) else .next (sendJtag s.bump (BitVec.ofNat 64 s.freeVal))

end Sys2Proof.Machine
end

