-- ==== Sys2Proof/Machine/Spdm.lean ====
section
/-! DEFINITION. SPDM over DOE, IDE key management and TDISP (R432, R436, R437, Tables 16.2, 16.5). -/

namespace Sys2Proof.Machine

/-- Answers a request. -/
def answerSpdm (s : State) (a : SpdmAnswer) : State := { s with out := { s.out with spdm := s.out.spdm ++ [a] } }

/-- `GET_VERSION`: 1.2 and 1.3. -/
def execGetVersion (s : State) : Outcome := .next (answerSpdm s (.version [0x12, 0x13]))

/-- `GET_CAPABILITIES`. -/
def execGetCapabilities (s : State) : Outcome := .next (answerSpdm s .capabilities)

/-- `NEGOTIATE_ALGORITHMS`: ECDSA P-384, SHA-384, secp384r1, AES-256-GCM. -/
def execNegotiateAlgorithms (s : State) : Outcome := .next (answerSpdm s .algorithms)

/-- `GET_DIGESTS`: slot 0 alone. -/
def execGetDigests (s : State) : Outcome := .next (answerSpdm s (.digests (sha384 Config.chain)))

/-- `GET_CERTIFICATE`. -/
def execGetCertificate (slot : Fin 8) (s : State) : Outcome :=
  .next (answerSpdm s (if slot = 0 then .certificate Config.chain else .error))

/-- `CHALLENGE`: a fresh nonce and a signature by the identity key over the two nonces. -/
def execChallenge (slot : Fin 8) (nonce : BitVec 256) (s : State) : Outcome :=
  if slot ≠ 0 then .next (answerSpdm s .error)
  else
    let v := BitVec.ofNat 256 s.freeVal
    let r := signBytes s.bump (leBytes 32 nonce.toNat ++ leBytes 32 v.toNat)
    .next (answerSpdm r.1 (.challengeAuth v r.2))

/-- The measurement blocks that an index asks for; none for an index that there is not. -/
def measBlocks (s : State) (index : Nat) : Option (List (Nat × BitVec 384)) :=
  if index = 0 then some []
  else if index = 0xFF then some ([1, 2, 3, 4, 5, 6].map (fun i => (i, measOf s i)))
  else if index ≤ 6 then some [(index, measOf s index)] else none

/-- `GET_MEASUREMENTS`: measurements 1 to 6, signed with the identity key. -/
def execGetMeasurements (index : BitVec 8) (nonce : BitVec 256) (s : State) : Outcome :=
  match measBlocks s index.toNat with
  | none => .next (answerSpdm s .error)
  | some l =>
    let v := BitVec.ofNat 256 s.freeVal
    let r := signBytes s.bump (leBytes 32 nonce.toNat ++ leBytes 32 v.toNat ++ l.flatMap (fun e => leBytes 48 e.2.toNat))
    .next (answerSpdm r.1 (.measurements l v r.2))

/-! The secured session: one at a time. -/

def setSession (s : State) (n : Fin 4) : State := s.modProt (fun p => { p with session := n, sessionKeys := 0 })

/-- `KEY_EXCHANGE`. -/
def execKeyExchange (exchange : BitVec 768) (s : State) : Outcome :=
  if s.prot.session ≠ 0 then .next (answerSpdm s .error)
  else
    let r := signBytes s (leBytes 96 exchange.toNat)
    .next (answerSpdm (setSession r.1 1) (.keyExchange r.2))

/-- `FINISH`: the session opens if its verification holds, and is gone otherwise. -/
def execFinish (verified : Bool) (s : State) : Outcome :=
  if s.prot.session ≠ 1 then .next (answerSpdm s .error)
  else if verified then .next (answerSpdm (setSession s 2) .finish) else .next (answerSpdm (setSession s 0) .error)

/-- A request that needs the open session. -/
def inSession (s : State) (f : State → State) (a : SpdmAnswer) : Outcome :=
  if s.prot.session = 2 then .next (answerSpdm (f s) a) else .next (answerSpdm s .error)

/-- `KEY_UPDATE`. -/
def execKeyUpdate (s : State) : Outcome := inSession s (fun s => s.modProt (fun p => { p with sessionKeys := p.sessionKeys + 1 })) .keyUpdate

/-- `HEARTBEAT`. -/
def execHeartbeat (s : State) : Outcome := inSession s id .heartbeat

/-- Loss of the secured session: in CONFIG_LOCKED and RUN the function goes to ERROR (Table 16.5). -/
def loseSession (s : State) : State :=
  let s := setSession s 0
  if s.prot.tdisp = .locked ∨ s.prot.tdisp = .run then setTdisp s .error 3 else s

/-- `END_SESSION`. -/
def execEndSession (s : State) : Outcome := inSession s loseSession .endSession

/-- `UNSUPPORTED_SPDM_REQUEST`. -/
def execUnsupportedSpdmRequest (_code : BitVec 8) (s : State) : Outcome := .next (answerSpdm s .unsupported)

/-! IDE and TDISP, within the session (R436, Table 16.5). -/

/-- `IDE_KM`: keys the selective stream. -/
def execIdeKm (s : State) : Outcome :=
  if s.prot.session = 2 then .next (s.modProt (fun p => { p with keyed := true })) else .next s

/-- `LOCK_INTERFACE`, with the stream keyed. -/
def execLockInterface (s : State) : Outcome :=
  if s.prot.session = 2 ∧ s.prot.keyed ∧ s.prot.tdisp = .unlocked then .next (setTdisp s .locked 0) else .next s

/-- `START_INTERFACE`. -/
def execStartInterface (s : State) : Outcome :=
  if s.prot.session = 2 ∧ s.prot.tdisp = .locked then .next (setTdisp s .run 0) else .next s

/-- `STOP_INTERFACE`: the one way out of ERROR. -/
def execStopInterface (s : State) : Outcome := if s.prot.session = 2 then .next (setTdisp s .unlocked 0) else .next s

/-- `IDE_INTEGRITY_FAILURE`, or the loss of the session: the function goes to ERROR, the stream keys are discarded. -/
def execIdeIntegrityFailure (sessionLost : Bool) (s : State) : Outcome :=
  if sessionLost then (if s.prot.session = 0 then .next s else .next (setTdisp (setSession s 0) .error 3))
  else if s.prot.keyed then .next (setTdisp s .error 2) else .next s

end Sys2Proof.Machine
end

