-- ==== Sys2Proof/Machine/Dispatch.lean ====
section
/-! DEFINITION. The meaning of every command, one arm per row of the table. -/

namespace Sys2Proof.Machine

/-- What a command does to everything but the queue of waiting commands. -/
def exec (i : Instr) (s : State) : Host.Outcome State Fault Refusal :=
  match i with
  | .nop u => Sys2Proof.Machine.execNop u s
  | .sli u sd imm => Sys2Proof.Machine.execSli u sd imm s
  | .salu u func sd sa b => Sys2Proof.Machine.execSalu u func sd sa b s
  | .scmp u pd cond sa b => Sys2Proof.Machine.execScmp u pd cond sa b s
  | .plog u pd pa pb op => Sys2Proof.Machine.execPlog u pd pa pb op s
  | .aadd u ad zeroBase aa sb imm => Sys2Proof.Machine.execAadd u ad zeroBase aa sb imm s
  | .sget u sd src => Sys2Proof.Machine.execSget u sd src s
  | .lds u a sx => Sys2Proof.Machine.execLds u a sx s
  | .sts u a => Sys2Proof.Machine.execSts u a s
  | .br u off => Sys2Proof.Machine.execBr u off s
  | .loop u level countInReg sc body bound imm => Sys2Proof.Machine.execLoop u level countInReg sc body bound imm s
  | .end_ u => Sys2Proof.Machine.execEnd u s
  | .mma u f => Sys2Proof.Machine.execMma u f s
  | .vop u f => Sys2Proof.Machine.execVop u f s
  | .sfn u f => Sys2Proof.Machine.execSfn u f s
  | .rowstat u f => Sys2Proof.Machine.execRowstat u f s
  | .sqis u desc queue aSrc aDst bnd => Sys2Proof.Machine.execSqis u desc queue aSrc aDst bnd s
  | .smt u f => Sys2Proof.Machine.execSmt u f s
  | .aeq u desc ae aeCtx bnd => Sys2Proof.Machine.execAeq u desc ae aeCtx bnd s
  | .coll u plan aSrc aDst => Sys2Proof.Machine.execColl u plan aSrc aDst s
  | .waitc u vid sThr imm => Sys2Proof.Machine.execWaitc u vid sThr imm s
  | .sigc u vid sVal imm => Sys2Proof.Machine.execSigc u vid sVal imm s
  | .take u vid sd => Sys2Proof.Machine.execTake u vid sd s
  | .put u vid ss => Sys2Proof.Machine.execPut u vid ss s
  | .faa u vid sd sInc imm => Sys2Proof.Machine.execFaa u vid sd sInc imm s
  | .str u channel arriveOnly => Sys2Proof.Machine.execStr u channel arriveOnly s
  | .blkcnt u operation bnd => Sys2Proof.Machine.execBlkcnt u operation bnd s
  | .mxuBlockCheck t mismatch => Sys2Proof.Machine.execMxuBlockCheck t mismatch s
  | .unitInstructionComplete t sfu => Sys2Proof.Machine.execUnitInstructionComplete t sfu s
  | .spinLimitReached t c => Sys2Proof.Machine.execSpinLimitReached t c s
  | .contextSwitchDone t c => Sys2Proof.Machine.execContextSwitchDone t c s
  | .waitMet t c => Sys2Proof.Machine.execWaitMet t c s
  | .waitCancelReply t c => Sys2Proof.Machine.execWaitCancelReply t c s
  | .preemptDrainDone t c => Sys2Proof.Machine.execPreemptDrainDone t c s
  | .contextSaveDone t c => Sys2Proof.Machine.execContextSaveDone t c s
  | .contextRestoreDone t c => Sys2Proof.Machine.execContextRestoreDone t c s
  | .syncRequest k => Sys2Proof.Machine.execSyncRequest k s
  | .transferStart q => Sys2Proof.Machine.execTransferStart q s
  | .streamRequestIssue q => Sys2Proof.Machine.execStreamRequestIssue q s
  | .streamRequestComplete q k => Sys2Proof.Machine.execStreamRequestComplete q k s
  | .streamResume q => Sys2Proof.Machine.execStreamResume q s
  | .drainReady q => Sys2Proof.Machine.execDrainReady q s
  | .deadlineExpiry q => Sys2Proof.Machine.execDeadlineExpiry q s
  | .creditWatchExpiry q => Sys2Proof.Machine.execCreditWatchExpiry q s
  | .stqCtlAbort q => Sys2Proof.Machine.execStqCtlAbort q s
  | .smtComplete t c => Sys2Proof.Machine.execSmtComplete t c s
  | .tunFillComplete die line => Sys2Proof.Machine.execTunFillComplete die line s
  | .aeDescriptorStart ae c => Sys2Proof.Machine.execAeDescriptorStart ae c s
  | .aeGroupBoundary ae => Sys2Proof.Machine.execAeGroupBoundary ae s
  | .aeGroupCheck ae scores values adders => Sys2Proof.Machine.execAeGroupCheck ae scores values adders s
  | .aeDescriptorEnd ae c => Sys2Proof.Machine.execAeDescriptorEnd ae c s
  | .aeContextSave ae c => Sys2Proof.Machine.execAeContextSave ae c s
  | .extend t c => Sys2Proof.Machine.execExtend t c s
  | .truncate t c => Sys2Proof.Machine.execTruncate t c s
  | .enter t c => Sys2Proof.Machine.execEnter t c s
  | .leave t c => Sys2Proof.Machine.execLeave t c s
  | .pageCopyDone h => Sys2Proof.Machine.execPageCopyDone h s
  | .forkPublished h => Sys2Proof.Machine.execForkPublished h s
  | .epochTick => Sys2Proof.Machine.execEpochTick s
  | .reclamationPass => Sys2Proof.Machine.execReclamationPass s
  | .rotate t c => Sys2Proof.Machine.execRotate t c s
  | .circulate t c => Sys2Proof.Machine.execCirculate t c s
  | .passBegin b => Sys2Proof.Machine.execPassBegin b s
  | .ringChunkArrival p h d first bytes => Sys2Proof.Machine.execRingChunkArrival p h d first bytes s
  | .slotFree p h visitor => Sys2Proof.Machine.execSlotFree p h visitor s
  | .ringAck p h d => Sys2Proof.Machine.execRingAck p h d s
  | .hold p h => Sys2Proof.Machine.execHold p h s
  | .resume p h => Sys2Proof.Machine.execResume p h s
  | .ringAbandon p h => Sys2Proof.Machine.execRingAbandon p h s
  | .brokenMessage p h => Sys2Proof.Machine.execBrokenMessage p h s
  | .ringDueTime b => Sys2Proof.Machine.execRingDueTime b s
  | .ringBreakTimer b => Sys2Proof.Machine.execRingBreakTimer b s
  | .grant p g firstChunk count plan => Sys2Proof.Machine.execGrant p g firstChunk count plan s
  | .collChunkArrival p header payload => Sys2Proof.Machine.execCollChunkArrival p header payload s
  | .collAck p g chunk => Sys2Proof.Machine.execCollAck p g chunk s
  | .nak p g chunk => Sys2Proof.Machine.execNak p g chunk s
  | .abandon p g status => Sys2Proof.Machine.execAbandon p g status s
  | .collStallTimer group seq => Sys2Proof.Machine.execCollStallTimer group seq s
  | .chunkResendTimer u => Sys2Proof.Machine.execChunkResendTimer u s
  | .write p payload => Sys2Proof.Machine.execWrite p payload s
  | .signal p => Sys2Proof.Machine.execSignal p s
  | .ack p => Sys2Proof.Machine.execAck p s
  | .deny p => Sys2Proof.Machine.execDeny p s
  | .ackFlush src => Sys2Proof.Machine.execAckFlush src s
  | .packetResendTimer dst xfer index => Sys2Proof.Machine.execPacketResendTimer dst xfer index s
  | .creditReturn port cls n => Sys2Proof.Machine.execCreditReturn port cls n s
  | .creditStallTimer port cls => Sys2Proof.Machine.execCreditStallTimer port cls s
  | .timeRequest p t1 => Sys2Proof.Machine.execTimeRequest p t1 s
  | .timeReply p r => Sys2Proof.Machine.execTimeReply p r s
  | .timeExchangeTimer => Sys2Proof.Machine.execTimeExchangeTimer s
  | .holdoverTimer => Sys2Proof.Machine.execHoldoverTimer s
  | .holdoverExpiry => Sys2Proof.Machine.execHoldoverExpiry s
  | .backupTakeover => Sys2Proof.Machine.execBackupTakeover s
  | .masterProbeTimer => Sys2Proof.Machine.execMasterProbeTimer s
  | .halt p stop => Sys2Proof.Machine.execHalt p stop s
  | .noticeDown p => Sys2Proof.Machine.execNoticeDown p s
  | .noticeUp p => Sys2Proof.Machine.execNoticeUp p s
  | .session p msg => Sys2Proof.Machine.execSession p msg s
  | .sessionRekeyTimer peer => Sys2Proof.Machine.execSessionRekeyTimer peer s
  | .oldKeyExpiry peer => Sys2Proof.Machine.execOldKeyExpiry peer s
  | .frameCrcFail port => Sys2Proof.Machine.execFrameCrcFail port s
  | .laneFailure port lanes => Sys2Proof.Machine.execLaneFailure port lanes s
  | .portRetrainDone port => Sys2Proof.Machine.execPortRetrainDone port s
  | .portDown port => Sys2Proof.Machine.execPortDown port s
  | .unreachableTimer dst => Sys2Proof.Machine.execUnreachableTimer dst s
  | .flitCrcFail link replayed => Sys2Proof.Machine.execFlitCrcFail link replayed s
  | .mbxTailWrite m v => Sys2Proof.Machine.execMbxTailWrite m v s
  | .mbxEnable m log2 => Sys2Proof.Machine.execMbxEnable m log2 s
  | .mbxDisable m => Sys2Proof.Machine.execMbxDisable m s
  | .descriptorReadDone m r => Sys2Proof.Machine.execDescriptorReadDone m r s
  | .evqEnable q ctl => Sys2Proof.Machine.execEvqEnable q ctl s
  | .evqDisable q ctl => Sys2Proof.Machine.execEvqDisable q ctl s
  | .evqConsWrite q v => Sys2Proof.Machine.execEvqConsWrite q v s
  | .moderationTimer q => Sys2Proof.Machine.execModerationTimer q s
  | .hostBar2BaseWrite v => Sys2Proof.Machine.execHostBar2BaseWrite v s
  | .pokeAdd v => Sys2Proof.Machine.execPokeAdd v s
  | .pokeSet v => Sys2Proof.Machine.execPokeSet v s
  | .pokePut v => Sys2Proof.Machine.execPokePut v s
  | .syncPokeValRead => Sys2Proof.Machine.execSyncPokeValRead s
  | .registerWrite a => Sys2Proof.Machine.execRegisterWrite a s
  | .bar2Read off len => Sys2Proof.Machine.execBar2Read off len s
  | .bar2Write off bytes => Sys2Proof.Machine.execBar2Write off bytes s
  | .bar2HoldTimeout k => Sys2Proof.Machine.execBar2HoldTimeout k s
  | .hostLinkRetrain rate width => Sys2Proof.Machine.execHostLinkRetrain rate width s
  | .linkReset => Sys2Proof.Machine.execLinkReset s
  | .sliceBind m => Sys2Proof.Machine.execSliceBind m s
  | .sliceBindUnbind m => Sys2Proof.Machine.execSliceBindUnbind m s
  | .sliceHaltPause m => Sys2Proof.Machine.execSliceHaltPause m s
  | .sliceHaltStop m => Sys2Proof.Machine.execSliceHaltStop m s
  | .domainOpen m => Sys2Proof.Machine.execDomainOpen m s
  | .domainClose m => Sys2Proof.Machine.execDomainClose m s
  | .schedLoad m => Sys2Proof.Machine.execSchedLoad m s
  | .schedUnload m => Sys2Proof.Machine.execSchedUnload m s
  | .schedLaunch m => Sys2Proof.Machine.execSchedLaunch m s
  | .schedStop m => Sys2Proof.Machine.execSchedStop m s
  | .schedPreempt m => Sys2Proof.Machine.execSchedPreempt m s
  | .schedResume m => Sys2Proof.Machine.execSchedResume m s
  | .seqCreate m => Sys2Proof.Machine.execSeqCreate m s
  | .seqFork m => Sys2Proof.Machine.execSeqFork m s
  | .seqTruncate m => Sys2Proof.Machine.execSeqTruncate m s
  | .seqFree m => Sys2Proof.Machine.execSeqFree m s
  | .ringForm m => Sys2Proof.Machine.execRingForm m s
  | .ringDissolve m => Sys2Proof.Machine.execRingDissolve m s
  | .ringBind m => Sys2Proof.Machine.execRingBind m s
  | .ringUnbind m => Sys2Proof.Machine.execRingUnbind m s
  | .groupSet m => Sys2Proof.Machine.execGroupSet m s
  | .groupClear m => Sys2Proof.Machine.execGroupClear m s
  | .preferNear m => Sys2Proof.Machine.execPreferNear m s
  | .preferFar m => Sys2Proof.Machine.execPreferFar m s
  | .noPreference m => Sys2Proof.Machine.execNoPreference m s
  | .pin m => Sys2Proof.Machine.execPin m s
  | .unpin m => Sys2Proof.Machine.execUnpin m s
  | .mirror m => Sys2Proof.Machine.execMirror m s
  | .unmirror m => Sys2Proof.Machine.execUnmirror m s
  | .source m => Sys2Proof.Machine.execSource m s
  | .release m => Sys2Proof.Machine.execRelease m s
  | .horizon m => Sys2Proof.Machine.execHorizon m s
  | .syncSignalAdd m => Sys2Proof.Machine.execSyncSignalAdd m s
  | .syncSignalSet m => Sys2Proof.Machine.execSyncSignalSet m s
  | .syncSignalPut m => Sys2Proof.Machine.execSyncSignalPut m s
  | .syncSignalTake m => Sys2Proof.Machine.execSyncSignalTake m s
  | .syncSignalQuery m => Sys2Proof.Machine.execSyncSignalQuery m s
  | .notify m => Sys2Proof.Machine.execNotify m s
  | .wakeToleranceSet m => Sys2Proof.Machine.execWakeToleranceSet m s
  | .patrolScrub m => Sys2Proof.Machine.execPatrolScrub m s
  | .memoryRetraining m => Sys2Proof.Machine.execMemoryRetraining m s
  | .linkRetraining m => Sys2Proof.Machine.execLinkRetraining m s
  | .timeResynchronisation m => Sys2Proof.Machine.execTimeResynchronisation m s
  | .thermalRecalibration m => Sys2Proof.Machine.execThermalRecalibration m s
  | .maintInstanceEnd inst r => Sys2Proof.Machine.execMaintInstanceEnd inst r s
  | .maintStatus m => Sys2Proof.Machine.execMaintStatus m s
  | .counterRead m => Sys2Proof.Machine.execCounterRead m s
  | .protNonceGet m => Sys2Proof.Machine.execProtNonceGet m s
  | .enroll m => Sys2Proof.Machine.execEnroll m s
  | .routingUpdate m => Sys2Proof.Machine.execRoutingUpdate m s
  | .domainPolicy m => Sys2Proof.Machine.execDomainPolicy m s
  | .fwPolicy m => Sys2Proof.Machine.execFwPolicy m s
  | .keyRotate m => Sys2Proof.Machine.execKeyRotate m s
  | .service m => Sys2Proof.Machine.execService m s
  | .nonceExpiry => Sys2Proof.Machine.execNonceExpiry s
  | .attestGet m => Sys2Proof.Machine.execAttestGet m s
  | .step m => Sys2Proof.Machine.execStep m s
  | .trace m => Sys2Proof.Machine.execTrace m s
  | .memoryRead m => Sys2Proof.Machine.execMemoryRead m s
  | .stepTileTake g => Sys2Proof.Machine.execStepTileTake g s
  | .grantExpiry g => Sys2Proof.Machine.execGrantExpiry g s
  | .fwStage m => Sys2Proof.Machine.execFwStage m s
  | .fwActivate m => Sys2Proof.Machine.execFwActivate m s
  | .fwReady => Sys2Proof.Machine.execFwReady s
  | .scrubComplete => Sys2Proof.Machine.execScrubComplete s
  | .getVersion => Sys2Proof.Machine.execGetVersion s
  | .getCapabilities => Sys2Proof.Machine.execGetCapabilities s
  | .negotiateAlgorithms => Sys2Proof.Machine.execNegotiateAlgorithms s
  | .getDigests => Sys2Proof.Machine.execGetDigests s
  | .getCertificate slot => Sys2Proof.Machine.execGetCertificate slot s
  | .challenge slot nonce => Sys2Proof.Machine.execChallenge slot nonce s
  | .getMeasurements index nonce => Sys2Proof.Machine.execGetMeasurements index nonce s
  | .keyExchange exchange => Sys2Proof.Machine.execKeyExchange exchange s
  | .finish verified => Sys2Proof.Machine.execFinish verified s
  | .keyUpdate => Sys2Proof.Machine.execKeyUpdate s
  | .heartbeat => Sys2Proof.Machine.execHeartbeat s
  | .endSession => Sys2Proof.Machine.execEndSession s
  | .unsupportedSpdmRequest code => Sys2Proof.Machine.execUnsupportedSpdmRequest code s
  | .ideKm => Sys2Proof.Machine.execIdeKm s
  | .lockInterface => Sys2Proof.Machine.execLockInterface s
  | .startInterface => Sys2Proof.Machine.execStartInterface s
  | .stopInterface => Sys2Proof.Machine.execStopInterface s
  | .frozenRegisterWrite r v => Sys2Proof.Machine.execFrozenRegisterWrite r v s
  | .ideIntegrityFailure sessionLost => Sys2Proof.Machine.execIdeIntegrityFailure sessionLost s
  | .backingComplete g => Sys2Proof.Machine.execBackingComplete g s
  | .promotionStart => Sys2Proof.Machine.execPromotionStart s
  | .promotionComplete g => Sys2Proof.Machine.execPromotionComplete g s
  | .evictionScan late => Sys2Proof.Machine.execEvictionScan late s
  | .evictionComplete g => Sys2Proof.Machine.execEvictionComplete g s
  | .moveWindow => Sys2Proof.Machine.execMoveWindow s
  | .moveComplete g => Sys2Proof.Machine.execMoveComplete g s
  | .uncorrectableError g e => Sys2Proof.Machine.execUncorrectableError g e s
  | .restoreComplete g r => Sys2Proof.Machine.execRestoreComplete g r s
  | .restoreTimeout g => Sys2Proof.Machine.execRestoreTimeout g s
  | .channelCrcFail stack channel g write failures => Sys2Proof.Machine.execChannelCrcFail stack channel g write failures s
  | .stackUnresponsive stack => Sys2Proof.Machine.execStackUnresponsive stack s
  | .cxlRequestTimeout port g => Sys2Proof.Machine.execCxlRequestTimeout port g s
  | .cxlLinkDown port => Sys2Proof.Machine.execCxlLinkDown port s
  | .powerMeasure watts => Sys2Proof.Machine.execPowerMeasure watts s
  | .moduleRateDown => Sys2Proof.Machine.execModuleRateDown s
  | .moduleRateUp => Sys2Proof.Machine.execModuleRateUp s
  | .diePowerRateDown die watts => Sys2Proof.Machine.execDiePowerRateDown die watts s
  | .diePowerRateUp die watts => Sys2Proof.Machine.execDiePowerRateUp die watts s
  | .thermalRateDown die => Sys2Proof.Machine.execThermalRateDown die s
  | .thermalRateUp die => Sys2Proof.Machine.execThermalRateUp die s
  | .thermalTrip die => Sys2Proof.Machine.execThermalTrip die s
  | .railLost die => Sys2Proof.Machine.execRailLost die s
  | .pllLockLost => Sys2Proof.Machine.execPllLockLost s
  | .powerApplied ga => Sys2Proof.Machine.execPowerApplied ga s
  | .pwrGoodRise ga => Sys2Proof.Machine.execPwrGoodRise ga s
  | .pwrGoodLow => Sys2Proof.Machine.execPwrGoodLow s
  | .inputOutOfRange below40 => Sys2Proof.Machine.execInputOutOfRange below40 s
  | .inputRecovered ga => Sys2Proof.Machine.execInputRecovered ga s
  | .coldRst => Sys2Proof.Machine.execColdRst s
  | .perst => Sys2Proof.Machine.execPerst s
  | .watchdogExpiry => Sys2Proof.Machine.execWatchdogExpiry s
  | .flashSel => Sys2Proof.Machine.execFlashSel s
  | .bringupEnd r => Sys2Proof.Machine.execBringupEnd r s
  | .idleI2Entry u => Sys2Proof.Machine.execIdleI2Entry u s
  | .idleI3Entry die => Sys2Proof.Machine.execIdleI3Entry die s
  | .idleI4Entry => Sys2Proof.Machine.execIdleI4Entry s
  | .wakeSlot u => Sys2Proof.Machine.execWakeSlot u s
  | .wakeDone u => Sys2Proof.Machine.execWakeDone u s
  | .smbusReadWord cmd => Sys2Proof.Machine.execSmbusReadWord cmd s
  | .smbusAlertResponse => Sys2Proof.Machine.execSmbusAlertResponse s
  | .smbusWrite => Sys2Proof.Machine.execSmbusWrite s
  | .smbusRefresh v => Sys2Proof.Machine.execSmbusRefresh v s
  | .jtagInstruction internal data => Sys2Proof.Machine.execJtagInstruction internal data s
  | .perstRelease ga => Sys2Proof.Machine.execPerstRelease ga s
  | .coldRstRelease ga => Sys2Proof.Machine.execColdRstRelease ga s
  | .flashSelRelease => Sys2Proof.Machine.execFlashSelRelease s
  | .resizableBarWrite log2Size => Sys2Proof.Machine.execResizableBarWrite log2Size s
  | .masterStartupTimer => Sys2Proof.Machine.execMasterStartupTimer s
  | .prefetchHorizonReached h layer page => Sys2Proof.Machine.execPrefetchHorizonReached h layer page s
  | .leakSensorWet => Sys2Proof.Machine.execLeakSensorWet s
  | .debugWorkEnd g => Sys2Proof.Machine.execDebugWorkEnd g s

end Sys2Proof.Machine
end

