-- ==== Sys2Proof/Safety.lean ====
section
/-! DEFINITION. What the statements say of states: that memories have their canonical form, and what a family of
operations leaves unchanged. -/

namespace Sys2Proof.Machine

/-- The memories have their canonical form. -/
def MemOk (s : State) : Prop := memWf s.sram = true ∧ memWf s.dev = true ∧ memWf s.hostMem = true

/-- t is s but for what counting, writing event records and sending interrupts changes: event queues and MSI-X vectors,
the records in host memory, the counters, the hub's trace buffer. -/
def Reported (s t : State) : Prop :=
  t = { s with
    host := { s.host with evq := t.host.evq, msix := t.host.msix }
    hostMem := t.hostMem
    out := { s.out with irqs := t.out.irqs }
    counters := t.counters
    prot := { s.prot with trace := t.prot.trace } }

/-- A release of the grain waits for the end of its eviction (R192). -/
def Leaving (s : State) (g : Nat) : Prop := (s.grain g).st = 6 ∧ (s.grain g).releasing = true

/-- Promotions were asked for between s and t (R197): only UNBACKED, FAR and EVICTING grains change, no release comes to
wait, and no byte changes but those of a grain whose eviction the request ends and which is then released. -/
def Promotes (s t : State) : Prop :=
  (∀ g, t.grain g = s.grain g ∨ (s.grain g).st = 0 ∨ (s.grain g).st = 4 ∨ (s.grain g).st = 6) ∧
  (∀ g, Leaving t g → Leaving s g) ∧
  (∀ a, memGet t.dev a = memGet s.dev a ∨ (Leaving s (a / 65536) ∧ memGet t.dev a = 0))

/-- Near and far memory of t hold what m holds, but for the grains whose release waited in s for the end of an eviction:
their bytes may be zero by now (R192). -/
def HoldsBytes (s : State) (m : Mem) (t : State) : Prop :=
  ∀ a, memGet t.dev a = memGet m a ∨ (Leaving s (a / 65536) ∧ memGet t.dev a = 0)

/-- Nothing waits for an event of memory: no write of the hub, no arrival, no host access, no pass and no collective
instance. -/
def NothingHeld (s : State) : Prop :=
  s.host.held = [] ∧ s.tiers.hub = [] ∧ s.fabric.heldIn = [] ∧ s.colls.active = [] ∧ ∀ b, (s.bind b).pass = none

/-- t is s but for what the sequencer of tile u decides (R69, R70, R177): which contexts of the tile are READY, RUNNING or
PARKED, its selection and switch, fill marks, idle levels, and the promotions that a new fill mark asks for, with their
counters and reports.  No register, no unit changes, and no byte but those that `Promotes` names. -/
def Scheduled (u : Fin 192) (s t : State) : Prop :=
  t = { s with
    ctxs := t.ctxs, tiles := t.tiles, parks := t.parks, idle := t.idle, dev := t.dev, hostMem := t.hostMem, counters := t.counters
    streams := { s.streams with queues := t.streams.queues, marks := t.streams.marks, tun := t.streams.tun, fills := t.streams.fills }
    tiers := { s.tiers with
      dir := t.tiers.dir, nearUsed := t.tiers.nearUsed, farUsed := t.tiers.farUsed, pend := t.tiers.pend
      seen := t.tiers.seen, lead := t.tiers.lead, held := t.tiers.held }
    host := { s.host with evq := t.host.evq, msix := t.host.msix }
    out := { s.out with irqs := t.out.irqs }
    prot := { s.prot with trace := t.prot.trace } } ∧
  (∀ v c, t.ctx v c = { s.ctx v c with st := (t.ctx v c).st, parked := (t.ctx v c).parked }) ∧
  (∀ v c, v ≠ u → t.ctx v c = s.ctx v c) ∧
  (∀ v, t.tile v = { s.tile v with lastSel := (t.tile v).lastSel, switching := (t.tile v).switching }) ∧
  (∀ v, v ≠ u → t.tile v = s.tile v) ∧
  (∀ q, t.queue q = { s.queue q with fillMark := (t.queue q).fillMark }) ∧
  Promotes s t

/-- Where an instruction goes on that neither branches nor loops: the next offset, the loops that are active there and
their indices (R116, R125). -/
def following (x : Ctx) : Nat × List LoopRec × Tab Word32 := leaveWord x.pc.toNat x.nest x.loops

/-- The instruction at u's context may issue: nothing holds the context, its predicate is true (R115), and another word
of CODE follows it (R116). -/
def Issues (s : State) (u : Issue) : Prop :=
  canIssue s u = true ∧ predTrue (s.ctx u.tile u.ctx) u = true ∧
    (BitVec.ofNat 32 (following (s.ctx u.tile u.ctx)).1).toNat < codeLen s u.tile u.ctx

/-- t follows s once an instruction of u's context has changed the context by f and the rest of the state to s', and the
program counter has moved on. -/
def Continues (s' : State) (u : Issue) (x : Ctx) (f : Ctx → Ctx) (t : State) : Prop :=
  Scheduled u.tile (s'.setCtx u.tile u.ctx
    { f x with pc := BitVec.ofNat 32 (following x).1, nest := (following x).2.1, loops := (following x).2.2 }) t

/-- Mailbox m holds a command of opcode op that has not started, need not wait, and that Table 15.1 allows in this state. -/
def Runs (s : State) (m : Fin 8) (op : Nat) (k : Taken) : Prop :=
  (s.mbx m).taken = some k ∧ k.op = op ∧ k.working = false ∧ k.waits = [] ∧ k.silent = false ∧ cmdWaits s m k = false ∧ gateOk s k = true

/-- Mailbox m holds no command any more, and `MBX_STATUS` gives a status (R396). -/
def Answered (t : State) (m : Fin 8) (status : Nat) : Prop :=
  (t.mbx m).taken = none ∧ (t.mbx m).status = BitVec.ofNat 8 status

/-- Mailbox m's command has been accepted and is at work, waiting for launches. -/
def AtWork (t : State) (m : Fin 8) (k : Taken) (waits : List (Fin 16)) : Prop :=
  (t.mbx m).taken = some { k with working := true, waits := waits }

/-- A placement hint that meets none of the refusals of R420 and R201. -/
def HintOk (s : State) (k : Taken) : Prop :=
  domainOpen s (BitVec.ofNat 10 (k.arg 17 8)) = true ∧ k.arg 111 64 % 65536 = 0 ∧ k.arg 175 128 % 65536 = 0 ∧
    k.arg 175 128 ≤ 64 * 2 ^ 30 ∧ k.arg 111 64 + k.arg 175 128 ≤ 0x100000000000 ∧
    ∀ e ∈ s.tiers.dir, inHint k e.1 = true → e.2.st = 0 ∨ e.2.domain.toNat = k.arg 17 8

/-- The mailbox, opcode and sub-action of a mailbox command's row (Table 15.1); none for a command of another kind. -/
def mailboxRow : Instr → Option (Fin 8 × Nat × (Taken → Bool))
  | .sliceHaltPause m => some (m, 0x0102, fun k => bitAt k.num 32 == false)
  | .sliceHaltStop m => some (m, 0x0102, fun k => bitAt k.num 32 == true)
  | .domainOpen m => some (m, 0x0103, anyAction)
  | .domainClose m => some (m, 0x0104, anyAction)
  | .schedLoad m => some (m, 0x0201, anyAction)
  | .schedUnload m => some (m, 0x0202, anyAction)
  | .schedLaunch m => some (m, 0x0203, anyAction)
  | .schedStop m => some (m, 0x0204, anyAction)
  | .schedPreempt m => some (m, 0x0205, anyAction)
  | .schedResume m => some (m, 0x0206, anyAction)
  | .seqCreate m => some (m, 0x0301, anyAction)
  | .seqFork m => some (m, 0x0302, anyAction)
  | .seqTruncate m => some (m, 0x0303, anyAction)
  | .seqFree m => some (m, 0x0304, anyAction)
  | .ringForm m => some (m, 0x0305, action 0)
  | .ringDissolve m => some (m, 0x0305, action 1)
  | .ringBind m => some (m, 0x0305, action 2)
  | .ringUnbind m => some (m, 0x0305, action 3)
  | .groupSet m => some (m, 0x0306, action 0)
  | .groupClear m => some (m, 0x0306, action 1)
  | .preferNear m => some (m, 0x0401, place 0)
  | .preferFar m => some (m, 0x0401, place 1)
  | .noPreference m => some (m, 0x0401, place 2)
  | .pin m => some (m, 0x0401, place 3)
  | .unpin m => some (m, 0x0401, place 4)
  | .mirror m => some (m, 0x0401, place 5)
  | .unmirror m => some (m, 0x0401, place 6)
  | .source m => some (m, 0x0401, place 7)
  | .release m => some (m, 0x0401, place 8)
  | .horizon m => some (m, 0x0401, place 9)
  | .syncSignalAdd m => some (m, 0x0402, place15 0)
  | .syncSignalSet m => some (m, 0x0402, place15 1)
  | .syncSignalPut m => some (m, 0x0402, place15 2)
  | .syncSignalTake m => some (m, 0x0402, place15 3)
  | .syncSignalQuery m => some (m, 0x0402, place15 4)
  | .notify m => some (m, 0x0402, place15 5)
  | .wakeToleranceSet m => some (m, 0x0501, anyAction)
  | .patrolScrub m => some (m, 0x0502, action 1)
  | .memoryRetraining m => some (m, 0x0502, action 2)
  | .linkRetraining m => some (m, 0x0502, action 3)
  | .timeResynchronisation m => some (m, 0x0502, action 4)
  | .thermalRecalibration m => some (m, 0x0502, action 7)
  | .maintStatus m => some (m, 0x0503, anyAction)
  | .counterRead m => some (m, 0x0601, anyAction)
  | .protNonceGet m => some (m, 0x0701, anyAction)
  | .routingUpdate m => some (m, 0x0702, fun k => recKind k == 4)
  | .domainPolicy m => some (m, 0x0702, fun k => recKind k == 5)
  | .fwPolicy m => some (m, 0x0702, fun k => recKind k == 6)
  | .keyRotate m => some (m, 0x0702, fun k => recKind k == 7)
  | .service m => some (m, 0x0702, fun k => recKind k == 9)
  | .enroll m => some (m, 0x0702, fun k => recKind k == 1)
  | .attestGet m => some (m, 0x0703, anyAction)
  | .step m => some (m, 0x0704, fun k => grantScope k == 1)
  | .trace m => some (m, 0x0704, fun k => grantScope k == 2)
  | .memoryRead m => some (m, 0x0704, fun k => grantScope k == 3)
  | .fwStage m => some (m, 0x0801, anyAction)
  | .sliceBind m => some (m, 0x0101, action 0)
  | .sliceBindUnbind m => some (m, 0x0101, action 1)
  | .fwActivate m => some (m, 0x0802, anyAction)
  | _ => none

/-- The context and predicate of a tile instruction (R115); none for a command of another kind. -/
def issuer : Instr → Option Issue
  | .nop u => some u
  | .sli u _ _ => some u
  | .salu u _ _ _ _ => some u
  | .scmp u _ _ _ _ => some u
  | .plog u _ _ _ _ => some u
  | .aadd u _ _ _ _ _ => some u
  | .sget u _ _ => some u
  | .lds u _ _ => some u
  | .sts u _ => some u
  | .br u _ => some u
  | .loop u _ _ _ _ _ _ => some u
  | .end_ u => some u
  | .mma u _ => some u
  | .vop u _ => some u
  | .sfn u _ => some u
  | .rowstat u _ => some u
  | .sqis u _ _ _ _ _ => some u
  | .smt u _ => some u
  | .aeq u _ _ _ _ => some u
  | .coll u _ _ _ => some u
  | .waitc u _ _ _ => some u
  | .sigc u _ _ _ => some u
  | .take u _ _ => some u
  | .put u _ _ => some u
  | .faa u _ _ _ _ => some u
  | .str u _ _ => some u
  | .blkcnt u _ _ => some u
  | _ => none

/-- The vector instruction of a kind. -/
def vecInstr (k : VecKind) (u : Issue) (f : VecFields) : Instr :=
  match k with
  | .vop => .vop u f
  | .sfn => .sfn u f
  | .rowstat => .rowstat u f

end Sys2Proof.Machine
end

