-- ==== Sys2Proof/Certificates/Slice0/Obligations.lean ====
section
/-! DEFINITION. The statements for the provers. -/

open Sys2Proof Sys2Proof.Machine

/-! Tile instructions (ch. 3, 4). -/

/-- R114, R124, R365: NOP, SLI, SALU, SCMP, PLOG, AADD and SGET write their destination register, move the program counter
on, and change nothing else but what the sequencer decides.  s0 ignores the write (R67). -/
def Obligations.ScalarInstructionsWriteTheirDestination : Prop :=
  ∀ (s : State) (u : Issue), Issues s u →
    let x := s.ctx u.tile u.ctx
    (∃ t, exec (.nop u) s = .next t ∧ Continues s u x id t) ∧
    (∀ sd imm, ∃ t, exec (.sli u sd imm) s = .next t ∧ Continues s u x (fun x => x.setS sd imm) t) ∧
    (∀ func sd sa b v, saluFn func.toNat (x.getS sa) (scalarSrc x b) = some v →
      ∃ t, exec (.salu u func sd sa b) s = .next t ∧ Continues s u x (fun x => x.setS sd v) t) ∧
    (∀ pd cond sa b v, scmpFn cond.toNat (x.getS sa) (scalarSrc x b) = some v →
      ∃ t, exec (.scmp u pd cond sa b) s = .next t ∧ Continues s u x (fun x => x.setP pd v) t) ∧
    (∀ pd pa pb op, ∃ t, exec (.plog u pd pa pb op) s = .next t ∧
      Continues s u x (fun x => x.setP pd (plogFn op (x.getP pa) (x.getP pb))) t) ∧
    (∀ ad zeroBase aa sb imm, ∃ t, exec (.aadd u ad zeroBase aa sb imm) s = .next t ∧
      Continues s u x (fun x => x.setA ad ((if zeroBase then 0 else x.getA aa) + x.getS sb + imm.signExtend 64)) t) ∧
    (∀ sd src v, sgetSrc s u x src.toNat = some v →
      ∃ t, exec (.sget u sd src) s = .next t ∧ Continues s u x (fun x => x.setS sd v) t)

/-- Table 3.4: s0 reads 0 and ignores writes; a write to another register, address register or predicate is what a later read
gives, and leaves the others as they were.
R124: shifts use the low 6 bits of their count; division by zero gives all ones and the dividend. -/
def Obligations.RegisterFilesAndScalarArithmetic : Prop :=
  (∀ (x : Ctx),
    (∀ i v j, (x.setS i v).getS j = if j.val = 0 then 0 else if i = j then v else x.getS j) ∧
    (∀ i v j, (x.setA i v).getA j = if i = j then v else x.getA j) ∧
    (∀ i v j, (x.setP i v).getP j = if i = j then v else x.getP j) ∧
    (∀ i v j, (x.setS i v).getA j = x.getA j ∧ (x.setS i v).getL j = x.getL j ∧ (x.setS i v).getX j = x.getX j) ∧
    (∀ v, x.setS 0 v = x)) ∧
  (∀ a b : Word64,
    saluFn 0x06 a b = some (a <<< (b.toNat % 64)) ∧ saluFn 0x07 a b = some (a >>> (b.toNat % 64)) ∧
    saluFn 0x08 a b = some (a.sshiftRight (b.toNat % 64)) ∧
    saluFn 0x0D a 0 = some 0xFFFFFFFFFFFFFFFF ∧ saluFn 0x0E a 0 = some a ∧
    (b ≠ 0 → ∃ q r, saluFn 0x0D a b = some q ∧ saluFn 0x0E a b = some r ∧
      q.toNat * b.toNat + r.toNat = a.toNat ∧ r.toNat < b.toNat) ∧
    (∀ f, 0x0F ≤ f → saluFn f a b = none))

/-- R124: LDS and STS of 2^log2w bytes at a multiple of their width inside their region, with no issued instruction
holding the bytes (R64).  LDS writes its register; STS writes exactly those bytes of the tile's SRAM. -/
def Obligations.ScalarLoadAndStore : Prop :=
  ∀ (s : State) (u : Issue) (a : ScalarMem), Issues s u →
    let x := s.ctx u.tile u.ctx
    let n := 2 ^ a.log2w.val
    let off := effOff x a.region a.areg a.off.toNat
    let old := leNat (s.sramRead u.tile off n)
    inRegion a.region.toNat off n = true → off % n = 0 →
    (∀ sx, readHeld s u.tile off n = false → ∃ t, exec (.lds u a sx) s = .next t ∧
      Continues s u x (fun x => x.setS a.s (if sx then sext64 (8 * n) old else BitVec.ofNat 64 old)) t ∧ t.sram = s.sram) ∧
    (writeHeld s u.tile off n = false → ∃ t, exec (.sts u a) s = .next t ∧
      Continues (s.sramWrite u.tile off (leBytes n (x.getS a.s).toNat)) u x id t ∧
      (∀ i, i < n → memGet t.sram (sramIx u.tile off + i) = ((leBytes n (x.getS a.s).toNat).getD i 0)) ∧
      (∀ b, b < sramIx u.tile off ∨ sramIx u.tile off + n ≤ b → memGet t.sram b = memGet s.sram b)) ∧
    (∀ sx, readHeld s u.tile off n = true → exec (.lds u a sx) s = .next s) ∧
    (writeHeld s u.tile off n = true → exec (.sts u a) s = .next s)

/-- R125, R126, R111: BR goes to its own offset plus 16 bytes per instruction; LOOP opens its level with index 0, or
continues after the body when the count is 0; BLKCNT counts one block of the launch; END empties the context once nothing that it
issued is outstanding, and until then only marks it. -/
def Obligations.ControlInstructionsMoveTheProgramCounter : Prop :=
  ∀ (s : State) (u : Issue), canIssue s u = true → predTrue (s.ctx u.tile u.ctx) u = true →
    let x := s.ctx u.tile u.ctx
    (∀ off, (x.pc + off * 16).toNat < codeLen s u.tile u.ctx →
      ∃ t, exec (.br u off) s = .next t ∧ Scheduled u.tile (s.setCtx u.tile u.ctx { x with pc := x.pc + off * 16 }) t) ∧
    (∀ level inReg sc body bound imm,
      let c : Word32 := if inReg then (x.getS sc).truncate 32 else imm
      (c ≠ 0 → c.toNat ≤ bound.toNat → (x.pc.toNat + 16) % 2 ^ 32 < codeLen s u.tile u.ctx →
        ∃ t, exec (.loop u level inReg sc body bound imm) s = .next t ∧
          Scheduled u.tile (s.setCtx u.tile u.ctx { x with
            pc := BitVec.ofNat 32 (x.pc.toNat + 16), loops := tabPut 0 x.loops level.val 0
            nest := ⟨level, x.pc.toNat + 16, x.pc.toNat + 16 * body.toNat, c.toNat⟩ :: x.nest }) t) ∧
      (c = 0 →
        let r := leaveWord (x.pc.toNat + 16 * body.toNat) x.nest x.loops
        r.1 % 2 ^ 32 < codeLen s u.tile u.ctx →
        ∃ t, exec (.loop u level inReg sc body bound imm) s = .next t ∧
          Scheduled u.tile (s.setCtx u.tile u.ctx { x with pc := BitVec.ofNat 32 r.1, nest := r.2.1, loops := r.2.2 }) t)) ∧
    (Issues s u → ∀ op bnd n, x.slot = some n →
      (boundZero x bnd = false → ∃ t, exec (.blkcnt u op bnd) s = .next t ∧
        Continues { s with blocks := tabPut 0 s.blocks (blockIx n op.toNat) (tabGet 0 s.blocks (blockIx n op.toNat) + 1) } u x id t) ∧
      (boundZero x bnd = true → ∃ t, exec (.blkcnt u op bnd) s = .next t ∧ Continues s u x id t)) ∧
    (outstanding s u.tile u.ctx = false → ∃ t, exec (.end_ u) s = .next t ∧
      Scheduled u.tile (leaveWalker (s.setCtx u.tile u.ctx { x with st := .empty, ending := false, slot := none })
        (tileWalker u.tile u.ctx)) t) ∧
    (outstanding s u.tile u.ctx = true → exec (.end_ u) s = .next (s.setCtx u.tile u.ctx { x with ending := true }))

/-! Instructions that go to a tile's units, waits and contexts (ch. 3, 4, 12). -/

/-- R115: an instruction whose predicate is false uses its issue cycle and has no other effect; one whose context may not
issue waits. -/
def Obligations.PredicatedInstructionsOnlyMoveOn : Prop :=
  ∀ (i : Instr) (u : Issue) (s : State), issuer i = some u →
    (canIssue s u = false → (∀ c m, i ≠ .str u c m) → exec i s = .next s) ∧
    (canIssue s u = true → predTrue (s.ctx u.tile u.ctx) u = false → exec i s = .next (advance s u.tile u.ctx))

/-- R61, R76, R79, R117, R118, R121, R122, R135, R142: MMA, VOP, SFN and ROWSTAT capture their operands and enter their
unit's queue, behind fewer than 8; with a zero extent, or no rows, they only move on; behind 8 they wait. -/
def Obligations.UnitInstructionsEnterTheirQueue : Prop :=
  ∀ (s : State) (u : Issue), Issues s u →
    let x := s.ctx u.tile u.ctx
    let y := s.tile u.tile
    (∀ f : MmaFields,
      let n := f.groups.toNat + 1
      let l := boundOf x f.bnd (n * 32)
      fmtMatrix f.fmtA.toNat = true → fmtMatrix f.fmtB.toNat = true →
      (boundZero x f.bnd = true → ∃ t, exec (.mma u f) s = .next t ∧ Continues s u x id t) ∧
      (boundZero x f.bnd = false → f.opa.region.toNat ≤ 2 → f.opb.region.toNat ≤ 2 →
        inRegion f.opa.region.toNat (opOff x f.opa) (n * groupBytes f.fmtA.toNat) = true →
        inRegion f.opb.region.toNat (opOff x f.opb) (n * groupBytes f.fmtB.toNat) = true →
        (y.mxu.length < 8 → ∃ t, exec (.mma u f) s = .next t ∧
          Continues (bumpIssue (s.setTile u.tile { y with
            mxu := y.mxu ++ [.mma u.ctx x.pc s.streams.issues f (opOff x f.opa) (opOff x f.opb) l.1 l.2.1 l.2.2 (mxuForwards y.mxu f)] })) u x id t) ∧
        (8 ≤ y.mxu.length → exec (.mma u f) s = .next s))) ∧
    (∀ (k : VecKind) (f : VecFields),
      let rows := (x.getS f.rows).toNat
      let len := (x.getS f.sb).toNat
      let op := UnitOp.vec u.ctx x.pc s.streams.issues k f (opOff x f.opd) (opOff x f.opa) (opOff x f.opb) rows
        (liveRows x f.bnd rows) (boundOf x f.bnd 0).2.1 len ((x.getS f.sb).truncate 32) ((sfnProg s x f.func.toNat).getD 0)
      vecLegal s x k f = true →
      (boundZero x f.bnd = true ∨ rows = 0 → ∃ t, exec (vecInstr k u f) s = .next t ∧ Continues s u x id t) ∧
      (boundZero x f.bnd = false → rows ≠ 0 →
        vecInRegion k f (opOff x f.opd) (opOff x f.opa) (opOff x f.opb) rows len = true →
        (k = .sfn → y.sfu.length < 8 → ∃ t, exec (vecInstr k u f) s = .next t ∧
          Continues (bumpIssue (s.setTile u.tile { y with sfu := y.sfu ++ [op] })) u x id t) ∧
        (k ≠ .sfn → y.vxu.length < 8 → ∃ t, exec (vecInstr k u f) s = .next t ∧
          Continues (bumpIssue (s.setTile u.tile { y with vxu := y.vxu ++ [op] })) u x id t) ∧
        (8 ≤ (vecQueue k y).length → exec (vecInstr k u f) s = .next s)))

/-- R64: the oldest instruction of the VXU or SFU, once its accesses are free, writes exactly the rows of its result into
its tile's SRAM and leaves its unit.
R76, R83 to R86: the MXU's comparison.  A pass, or a product with an infinity or NaN among its operands, writes the rows
it computed; the first two mismatches execute the block again, and the third in a row declares the MXU failed: every
context of the tile is FAULTED.
R126: the context whose END has issued becomes EMPTY once nothing that it issued is outstanding. -/
def Obligations.VectorAndMatrixResultsReachSram : Prop :=
  let after := fun (s w : State) (u : Fin 192) (c : Fin 4) (t : State) =>
    let x := s.ctx u c
    let ends := x.ending = true ∧ x.pre = .none ∧ outstanding w u c = false
    (¬ ends → Scheduled u w t) ∧
    (ends → Scheduled u (leaveWalker (w.setCtx u c { x with st := .empty, ending := false, slot := none }) (tileWalker u c)) t)
  let within := fun (s t : State) (u : Fin 192) (l : List (Nat × List Byte)) =>
    t.sram = (sramPuts s u l).sram ∧
    ∀ b, (∀ w ∈ l, b < sramIx u w.1 ∨ sramIx u w.1 + w.2.length ≤ b) → memGet t.sram b = memGet s.sram b
  (∀ (s : State) (u : Fin 192) (sfu : Bool) (op : UnitOp) (rest : List UnitOp),
    (if sfu then (s.tile u).sfu else (s.tile u).vxu) = op :: rest →
    (unitReady s u op = true → ∃ t, exec (.unitInstructionComplete u sfu) s = .next t ∧ within s t u (vecResult s u op) ∧
      (if sfu then (t.tile u).sfu else (t.tile u).vxu) = rest ∧
      after s ((sramPuts s u (vecResult s u op)).setTile u
        (if sfu then { s.tile u with sfu := rest } else { s.tile u with vxu := rest })) u op.ctx t) ∧
    (unitReady s u op = false → exec (.unitInstructionComplete u sfu) s = .next s)) ∧
  (∀ (s : State) (u : Fin 192) (c : Fin 4) (pc : Word32) (o : Nat) (f : MmaFields) (a b m n k : Nat) (fwd : Bool) (rest : List UnitOp),
    (s.tile u).mxu = .mma c pc o f a b m n k fwd :: rest → unitReady s u (.mma c pc o f a b m n k fwd) = true →
    let ab := mmaOperands s u f a b m n k
    let y := s.tile u
    let out := mmaResult s u f (mxuAhead y) ab
    (mmaUnchecked ab = false → y.mxuRuns = 0 → ∃ t, exec (.mxuBlockCheck u none) s = .next t ∧ within s t u out ∧
      (t.tile u).mxu = rest ∧ (t.tile u).mxuRuns = 0 ∧ after s (popMxu (sramPuts s u out) u out) u c t) ∧
    (mmaUnchecked ab = false → ∀ bad, y.mxuRuns < 2 → ∃ t, exec (.mxuBlockCheck u (some bad)) s = .next t ∧
      t = (count s (0x2000 + u.val)).setTile u { y with
        mxuRuns := y.mxuRuns + 1, mxuFirst := some (y.mxuFirst.getD (bad.1.val, bad.2.val)) }) ∧
    (mmaUnchecked ab = false → ∀ bad, 2 ≤ y.mxuRuns → ∃ t, exec (.mxuBlockCheck u (some bad)) s = .next t ∧
      (t.tile u).failed = true ∧ (t.tile u).mxu = [] ∧ t.sram = s.sram ∧ ∀ c, (t.ctx u c).st = .faulted) ∧
    (mmaUnchecked ab = true → y.mxuRuns = 0 → ∀ bad, ∃ t, exec (.mxuBlockCheck u bad) s = .next t ∧ within s t u out ∧
      (t.tile u).mxu = rest ∧ after s (popMxu (sramPuts (count s (0x2100 + u.val)) u out) u out) u c t))

/-- R329, R331, R334: WAITC, TAKE and PUT send a request to their object's home and make the context SPINNING at the
issue; SIGC sends its addition, FAA its fetch-and-add; SIGC and PUT are held back behind the context's earlier small
transfers (R333).  No register changes before the reply. -/
def Obligations.SyncInstructionsSendOneRequest : Prop :=
  ∀ (s : State) (u : Issue) (vid : BitVec 16) (a : Nat), canIssue s u = true → predTrue (s.ctx u.tile u.ctx) u = true →
    ctxVid s u.tile u.ctx vid.toNat = some a →
    let x := s.ctx u.tile u.ctx
    let req := fun (s : State) (act : SyncAct) (n : Nat) => { s with sync := { s.sync with reqs := s.sync.reqs ++ [⟨a, act, x.pc, n⟩] } }
    let spins := fun (k : WaitKind) (act : SyncAct) (n : Nat) (t : State) =>
      Scheduled u.tile (req (s.setCtx u.tile u.ctx { x with st := .spinning, wait := some ⟨a, k, none⟩, spunOut := false }) act n) t
    (∀ r imm, let v := (x.getS r).truncate 32 + imm
      ∃ t, exec (.waitc u vid r imm) s = .next t ∧ spins (.waitc v) (.waitc u.tile u.ctx v) 0 t) ∧
    (∀ sd, ∃ t, exec (.take u vid sd) s = .next t ∧ spins (.take sd) (.take u.tile u.ctx) 0 t) ∧
    (∀ r, ∃ t, exec (.put u vid r) s = .next t ∧
      spins (.put (x.getS r)) (.put u.tile u.ctx (x.getS r)) (openSmts s u.tile u.ctx) t) ∧
    (∀ sd r imm, exec (.faa u vid sd r imm) s =
      .next (req (s.setCtx u.tile u.ctx { x with wait := some ⟨a, .faa sd, none⟩ }) (.faa u.tile u.ctx ((x.getS r).truncate 32 + imm)) 0)) ∧
    (Issues s u → ∀ r imm, ∃ t, exec (.sigc u vid r imm) s = .next t ∧
      Continues (req s (.sigc u.tile u.ctx ((x.getS r).truncate 32 + imm)) (openSmts s u.tile u.ctx)) u x id t)

/-- R333, R337, R338, R350: an STR sets the tile's latch at its channel.  One that only arrives moves on; one that waits is
SPINNING until every participant has arrived.  The last arrival clears the latches and advances the generation.  Behind
the context's small transfers, or a latch that is set, the arrival is held at the channel; an STR that only arrives waits
behind a latch that is set; a channel that the launch does not claim for the tile, or an abandoned one, faults. -/
def Obligations.StringChannelsFireAtTheLastArrival : Prop :=
  ∀ (s : State) (u : Issue) (k : Fin 16), canIssue s u = true → predTrue (s.ctx u.tile u.ctx) u = true →
    let x := s.ctx u.tile u.ctx
    let h := s.chan k.val
    let claimed := h.slot ≠ none ∧ h.slot = x.slot ∧ h.tileMap.testBit u.tile.val = true
    let busy := h.latches.testBit u.tile.val
    let smts := openSmts s u.tile u.ctx
    let held := { h with heldBehind := h.heldBehind ++ [(u.tile, u.ctx, smts)] }
    (∀ n : Fin 16, claimed → x.slot = some n → h.abandoned = false → busy = false → smts = 0 → h.heldBehind = [] →
      let all := h.latches ||| 2 ^ u.tile.val
      let last := h.tileMap &&& all = h.tileMap ∧ ∀ e : Fin 32, h.aeMap.testBit e.val = true → aeArrived s e n = true
      (∀ arriveOnly, ¬ last → ∃ t, exec (.str u k arriveOnly) s = .next t ∧ t.chan k.val = { h with latches := all } ∧
        (arriveOnly = false → (t.ctx u.tile u.ctx).st = .spinning ∧ (t.ctx u.tile u.ctx).wait = some ⟨0, .string k h.gen, none⟩)) ∧
      (∀ arriveOnly, last → ∃ t, exec (.str u k arriveOnly) s = .next t ∧ t.chan k.val = { h with latches := 0, gen := h.gen + 1 })) ∧
    (claimed → h.abandoned = false → busy = false → smts ≠ 0 → Issues s u →
      ∃ t, exec (.str u k true) s = .next t ∧ Continues (s.setChan k.val held) u x id t) ∧
    (claimed → h.abandoned = false → busy = true → exec (.str u k true) s = .next s) ∧
    (claimed → h.abandoned = false → busy = true ∨ smts ≠ 0 → ∃ t, exec (.str u k false) s = .next t ∧ t.chan k.val = held ∧
      (t.ctx u.tile u.ctx).st = .spinning ∧ (t.ctx u.tile u.ctx).wait = some ⟨0, .string k h.gen, none⟩) ∧
    (∀ arriveOnly, ¬ claimed → exec (.str u k arriveOnly) s = .next (issueFault s u x 0x01 none)) ∧
    (∀ arriveOnly, claimed → h.abandoned = true → exec (.str u k arriveOnly) s = .next (issueFault s u x 0x08 (some 7)))

/-- R70, R71, R334, R335: a reply lets a waiting context go on past its instruction, a TAKE's value in its register; the
spin limit parks a context while another is READY; after a switch the incoming context runs. -/
def Obligations.ContextsWakeParkAndSwitch : Prop :=
  ∀ (s : State) (u : Fin 192) (c : Fin 4),
    let x := s.ctx u c
    (∀ (w : Wait) v, x.wait = some ⟨w.obj, w.kind, some (.met v)⟩ → x.pre = .none →
      let r := following x
      let y := match w.kind with
        | .take sd => x.setS sd v
        | _ => x
      r.1 % 2 ^ 32 < codeLen s u c → ∃ t, exec (.waitMet u c) s = .next t ∧
        Scheduled u (s.setCtx u c { y with
          st := (if x.st = .spinning then .running else if x.st = .parked then .ready else x.st)
          wait := none, spunOut := false, pc := BitVec.ofNat 32 r.1, nest := r.2.1, loops := r.2.2 }) t) ∧
    (x.st = .spinning → (∀ d, d ≠ c → (s.ctx u d).st ≠ .spinning ∧ (s.ctx u d).st ≠ .running) →
      ∃ t, exec (.spinLimitReached u c) s = .next t ∧ Scheduled u (s.setCtx u c { x with spunOut := true }) t ∧
        ((∃ d, d ≠ c ∧ (s.ctx u d).st = .ready) → (t.ctx u c).st = .parked) ∧
        ((∀ d, (s.ctx u d).st ≠ .ready) → (t.ctx u c).st = .spinning)) ∧
    ((s.tile u).switching = some c → s.level u.val = 0 → x.st = .ready → x.pre = .none →
      ∃ t, exec (.contextSwitchDone u c) s = .next t ∧
        Scheduled u ((s.setTile u { s.tile u with switching := none, loaded := some c }).setCtx u c { x with st := .running }) t)

/-- R73, R346, R347: the home's answer to a cancel, the drain, the save and the restoration of a context, one after the
other. -/
def Obligations.ContextsAreSavedAndRestored : Prop :=
  ∀ (s : State) (u : Fin 192) (c : Fin 4),
    let x := s.ctx u c
    (∀ a k, x.pre = .cancel → x.wait = some ⟨a, k, none⟩ → (∀ ch g, k ≠ .string ch g) →
      ∃ t, exec (.waitCancelReply u c) s = .next t ∧ t.ctx u c = { x with pre := .drain } ∧
        (∀ w ∈ (t.obj a).waits, ∀ thr v, w ≠ .waitc u c thr ∧ w ≠ .take u c ∧ w ≠ .put u c v) ∧
        (t.obj a).value = (s.obj a).value ∧ t.sram = s.sram ∧ t.dev = s.dev) ∧
    (x.pre = .drain → outstanding s u c = false → queuesStopped s u c = true → x.ending = false → x.st ≠ .faulted →
      exec (.preemptDrainDone u c) s = .next (s.setCtx u c { x with pre := .save })) ∧
    (x.pre = .save →
      ∃ t, exec (.contextSaveDone u c) s = .next t ∧ (t.ctx u c) = { x with st := .halted, pre := .none } ∧
        tabGet [] t.saves (ctxIx u c) = (ctxRanges s u c).map (fun r => (r.1, s.sramRead u r.1 r.2)) ∧
        t.sram = s.sram ∧ Promotes s t ∧ (t.tile u).loaded ≠ some c) ∧
    (x.pre = .restore → ownedQueues s u c = [] →
      ∃ t, exec (.contextRestoreDone u c) s = .next t ∧ (t.ctx u c).sregs = x.sregs ∧ (t.ctx u c).pc = x.pc ∧
        (t.ctx u c).pre = .none ∧ ((t.ctx u c).st = .ready ∨ (t.ctx u c).st = .running) ∧
        t.sram = ((tabGet [] s.saves (ctxIx u c)).foldl (fun m r => memWrite m (sramIx u r.1) r.2) s.sram) ∧
        tabGet [] t.saves (ctxIx u c) = [])

/-! Sync homes and streams (ch. 6, 12). -/

/-- R12, R326, R333: a request reaches its home once no earlier request of its source to the object is under way and the
small transfers it must follow are complete; until then it stays.
R329: a wait with threshold t is met at value v exactly when (v − t) mod 2^32 is below 2^31: the counter may be up to
2^31 − 1 ahead of the threshold, across its wrap.
R329 to R331, R341, R350: what a home does with a request of a context that waits for it, at an object that nothing
else waits on: a met WAITC is answered, an unmet one queued; a TAKE empties a full word and answers its value, a PUT fills an
empty one; a fetch-and-add answers the value it found; a signal adds; the wrong kind, or an abandoned object, faults. -/
def Obligations.SyncHomesServeRequests : Prop :=
  (∀ (s : State) (k : Nat) (r : SyncReq), s.sync.reqs[k]? = some r →
    let free := r.after = 0 ∧ ∀ q ∈ s.sync.reqs.take k, q.obj = r.obj → q.act.unit ≠ r.act.unit
    (free → exec (.syncRequest k) s = .next (settleColls (settleRings
      (applyReq { s with sync := { s.sync with reqs := s.sync.reqs.eraseIdx k } } r)))) ∧
    (free → s.colls.active = [] → s.rings.binds = [] →
      let o := s.obj r.obj
      o.st = 0 ∨ o.st = 1 → o.kind = 0 → o.waits = [] → o.takers = [] → (∀ n ∈ s.sync.notifs, n.obj ≠ r.obj) →
      (∀ u c n, r.act = .sigc u c n → (s.ctx u c).ending = false → ∃ t, exec (.syncRequest k) s = .next t ∧
        t = { s with sync := { s.sync with
          reqs := s.sync.reqs.eraseIdx k, objs := tabPut {} s.sync.objs r.obj { o with value := (o.count + n).setWidth 64 } } }) ∧
      (∀ src, r.act = .release src → ∃ t, exec (.syncRequest k) s = .next t ∧
        t = { s with sync := { s.sync with
          reqs := s.sync.reqs.eraseIdx k, objs := tabPut {} s.sync.objs r.obj { o with value := (o.count + 1).setWidth 64 } } })) ∧
    (¬ free → exec (.syncRequest k) s = .next s)) ∧
  (∀ (v t : Word32), (waitMet v t = true ↔ ∃ n < 2 ^ 31, v = t + BitVec.ofNat 32 n) ∧
    (waitMet v t = false → waitMet t v = true ∨ v = t + BitVec.ofNat 32 (2 ^ 31))) ∧
  (∀ (s : State) (a : Nat) (u : Fin 192) (c : Fin 4) (pc : Word32),
    let o := s.obj a
    o.waits = [] → o.takers = [] → (∀ n ∈ s.sync.notifs, n.obj ≠ a) → (o.st = 0 ∨ o.st = 1) →
    let answered := fun (v : Word64) (t : State) => (t.ctx u c).wait = (s.ctx u c).wait.map (fun w => { w with reply := some (.met v) })
    (waitsFor s u c a = true → o.kind ≠ 1 → ∀ thr,
      let t := applyReq s ⟨a, .waitc u c thr, pc, 0⟩
      (waitMet o.count thr = true → answered o.value t ∧ t.obj a = o) ∧
      (waitMet o.count thr = false → t.obj a = { o with waits := [.waitc u c thr] })) ∧
    (waitsFor s u c a = true → o.kind = 1 →
      let t := applyReq s ⟨a, .take u c, pc, 0⟩
      (o.full = true → answered o.value t ∧ t.obj a = { o with full := false }) ∧
      (o.full = false → t.obj a = { o with waits := [.take u c] })) ∧
    (waitsFor s u c a = true → o.kind = 1 → ∀ v,
      let t := applyReq s ⟨a, .put u c v, pc, 0⟩
      (o.full = false → answered v t ∧ t.obj a = { o with full := true, value := v }) ∧
      (o.full = true → t.obj a = { o with waits := [.put u c v] })) ∧
    (∀ sd inc, (s.ctx u c).wait = some ⟨a, .faa sd, none⟩ → o.kind = 2 →
      let t := applyReq s ⟨a, .faa u c inc, pc, 0⟩
      t.obj a = { o with value := (o.count + inc).setWidth 64 } ∧
        (t.ctx u c).sregs = ((s.ctx u c).setS sd (o.count.setWidth 64)).sregs) ∧
    (∀ n, o.kind = 0 → (applyReq s ⟨a, .sigc u c n, pc, 0⟩).obj a = { o with value := (o.count + n).setWidth 64 }) ∧
    (∀ q n, o.kind ≠ 1 → o.count ≠ 0 →
      let t := applyReq s ⟨a, .credit (.stream q n), pc, 0⟩
      t.obj a = { o with value := (o.count - 1).setWidth 64 } ∧
        (∀ x, (s.queue q).active = some x → x.issued = n → x.credit = .waiting →
          (t.queue q).active = some { x with credit := .granted })) ∧
    (waitsFor s u c a = true → (s.ctx u c).st = .spinning → o.kind = 1 → ∀ thr,
      ((applyReq s ⟨a, .waitc u c thr, pc, 0⟩).ctx u c).st = .faulted))

/-- R158, R163, R164: SQIS writes a transfer into the queue of its context.  In an empty queue it becomes active, at once
at work where it takes no credit and drains nothing; behind an active one it waits in the shadow slot; behind both it is
refused with ST_BUSY and the queue keeps its transfers. -/
def Obligations.SqisFillsActiveThenShadowThenRefuses : Prop :=
  ∀ (s : State) (u : Issue) (desc : BitVec 16) (q : Fin 256) (aSrc aDst : Option (Fin 16)) (bnd : Fin 32) (n : Fin 16),
    Issues s u →
    let x := s.ctx u.tile u.ctx
    let r := s.queue q
    let reg := fun (a : Option (Fin 16)) => match a with
      | some i => x.getA i
      | none => 0
    let i := s.streams.issues
    let y : Xfer := { desc := desc, slot := n, tile := u.tile, ctx := u.ctx, pc := x.pc, aSrc := reg aSrc, aDst := reg aDst, zero := boundZero x bnd, issued := i, entered := i }
    let d := streamDesc s n desc.toNat
    x.slot = some n → r.enable = true → r.owner = some n → r.ownerTile.toNat = u.tile.val → r.ownerCtx.toNat = u.ctx.val →
    desc.toNat < secCount (s.slot n).image 4 →
    ∃ t, exec (.sqis u desc q aSrc aDst bnd) s = .next t ∧ t.streams.issues ≠ i ∧
      HoldsBytes s s.dev t ∧ t.sram = s.sram ∧ (t.ctx u.tile u.ctx).pc = BitVec.ofNat 32 (following x).1 ∧ t.ctx u.tile u.ctx = { (t.ctx u.tile u.ctx) with sregs := x.sregs, aregs := x.aregs, preds := x.preds } ∧
      (r.active = none → sdDrain d = false → xferConsume s y = none → (t.queue q).state = 2 ∧
        (t.queue q).active = some { y with credit := .granted } ∧ (t.queue q).shadow = r.shadow ∧
        (t.queue q).deadlineAt = deadlineFrom s y) ∧
      (∀ a, r.active = none → sdDrain d = false → xferConsume s y = some a → (t.queue q).state = 1 ∧
        (t.queue q).active = some { y with credit := .waiting, entered := i + 1 } ∧
        t.sync.reqs = s.sync.reqs ++ [⟨a, .credit (.stream q i), x.pc, 0⟩]) ∧
      (r.active = none → sdDrain d = true → (t.queue q).state = 4 ∧ (t.queue q).active = some y) ∧
      (∀ z, r.active = some z → r.shadow = none → (t.queue q).active = some z ∧ (t.queue q).shadow = some y ∧
        (t.queue q).state = r.state) ∧
      (∀ z w, r.active = some z → r.shadow = some w → (t.queue q).active = some z ∧ (t.queue q).shadow = some w ∧
        (t.queue q).rearmRefused = true)

/-- R166: an SMT inside its region, behind fewer than 8 of its context, is recorded with its SRAM offset, device address
and length; a ninth waits.
R16, R64, R166, R167, R260, R333: the oldest small transfer of a context, once nothing orders it behind another access,
moves its bytes into SRAM, or writes them to near memory, within one 256-byte block, or hands its record to the sequence
window, and is then no longer outstanding; until then it stays. -/
def Obligations.SmallTransfersAreRecordedAndMove : Prop :=
  (∀ (s : State) (u : Issue) (f : SmtFields) (n : Fin 16), Issues s u →
    let x := s.ctx u.tile u.ctx
    let len := f.lengthM1.toNat + 1
    let off := effOff x f.region f.aS f.off.toNat
    x.slot = some n → inRegion f.region.toNat off len = true → (f.toDevice = true ∨ f.region ≠ 3) →
    (openSmts s u.tile u.ctx < 8 → ∃ t, exec (.smt u f) s = .next t ∧
      Continues { s with streams := { s.streams with
        issues := s.streams.issues + 1
        smts := s.streams.smts ++ [{ tile := u.tile, ctx := u.ctx, slot := n, pc := x.pc, toDevice := f.toDevice, sram := off, dev := (x.getA f.aD + f.devOff.signExtend 64).toNat, len := len, issued := s.streams.issues, since := s.time.now }] } } u x id t) ∧
    (8 ≤ openSmts s u.tile u.ctx → exec (.smt u f) s = .next s)) ∧
  (∀ (s : State) (u : Fin 192) (c : Fin 4) (m : Smt),
    s.streams.smts.find? (fun m => m.tile == u && m.ctx == c) = some m →
    (smtReady s m = false ∨ mayServe s m.issued = false → exec (.smtComplete u c) s = .next s) ∧
    (smtReady s m = true → mayServe s m.issued = true →
      (m.dev % 256 + m.len ≤ 256 → inGrains m.dev = true → 1 ≤ m.len →
        let g := s.grain (grainOf m.dev)
        inKvArena (grainOf m.dev) = false → inListArena (grainOf m.dev) = false → g.st = 2 → g.cacheable = false →
        g.domain.toNat = slotDomain s m.slot →
        (m.toDevice = false → ∃ t, exec (.smtComplete u c) s = .next t ∧
          t.sram = memWrite s.sram (sramIx u m.sram) (s.devRead m.dev m.len) ∧ HoldsBytes s s.dev t ∧
          t.streams.smts = s.streams.smts.erase m) ∧
        (m.toDevice = true → ∃ t, exec (.smtComplete u c) s = .next t ∧
          HoldsBytes s (memWrite s.dev m.dev (s.sramRead u m.sram m.len)) t ∧ t.sram = s.sram ∧
          t.streams.smts = s.streams.smts.erase m)) ∧
      (m.toDevice = true → m.dev = seqWindow → m.len = 32 → ∃ t r, exec (.smtComplete u c) s = .next t ∧
        t.seqs.records = s.seqs.records ++ [r] ∧ r.tile = u ∧ r.ctx = c ∧ r.pass = false ∧
        r.data = BitVec.ofNat 1024 (leNat (s.sramRead u m.sram 32)) ∧ t.streams.smts = s.streams.smts.erase m)))

/-- R149, R159, R161, R168, R169, R173, R178: a transfer with its credit starts, and one without data completes with its
release; the queue that gets its die's next slot captures the bytes of a request and moves on, another one waits; a
request's completion writes exactly its bytes into the destination's SRAM; a halted transfer resumes once its grain is free; a
drain transfer proceeds once the context's earlier work is done. -/
def Obligations.TransfersStartMoveAndResume : Prop :=
  ∀ (s : State) (q : Fin 256) (x : Xfer), (s.queue q).active = some x →
    let r := s.queue q
    let d := streamDesc s x.slot x.desc.toNat
    let live := ctxStopped s x.tile x.ctx = false
    (x.started = false → x.credit = .granted → live →
      (x.zero = false → exec (.transferStart q) s = .next (s.setQueue q { r with
        active := some { x with started := true, pos := 0 }, state := 2 })) ∧
      (x.zero = true → sdIsRemote d = false → x.back = none → x.inflight = [] → x.remote = none → r.shadow = none →
        ∃ t, exec (.transferStart q) s = .next t ∧ (t.queue q).active = none ∧ (t.queue q).state = 0 ∧ t.sram = s.sram ∧
          HoldsBytes s s.dev t ∧
          ∀ a, xferRelease s x = some a → t.sync.reqs = s.sync.reqs ++ [⟨a, .release (.stream q x.issued), x.pc, 0⟩])) ∧
    (x.started = true ∨ (x.credit ≠ .granted ∧ x.credit ≠ .abandoned) → exec (.transferStart q) s = .next s) ∧
    (slotGrant s (queueDie q) = some q → sdKindDst d = 1 → sdFmtSrc d = sdFmtDst d → sdFmtSrc d ≠ 6 → sdKindSrc d = 1 →
      x.remote = none →
      let n := runLength d x x.pos
      let a := xSrc d x x.pos
      let b := xDst d x x.pos
      let len := n * unitBytes d (sdFmtSrc d)
      sramMeet q (xBaseSrc d x) a len false = true → sramMeet q (xBaseDst d x) b len true = true →
      readHeld s (tileOf a) (saOff a) len = false →
      ∃ t, exec (.streamRequestIssue q) s = .next t ∧
        t.queue q = { r with active := some { x with pos := x.pos + n, inflight := x.inflight ++ [{ pos := x.pos, count := n, dst := b, bytes := s.sramRead (tileOf a) (saOff a) len, ord := s.streams.issues, since := s.time.now, slots := runSlots d x x.pos n }] } } ∧
        (∀ p, p ≠ q → t.queue p = s.queue p) ∧ t.sram = s.sram ∧ t.dev = s.dev ∧ t.ctxs = s.ctxs) ∧
    (slotGrant s (queueDie q) ≠ some q → exec (.streamRequestIssue q) s = .next s) ∧
    (∀ k z, x.inflight[k]? = some z → z.fills = [] → z.packets = [] →
      (landHeld s q d z = true ∨ mayServe s z.ord = false → exec (.streamRequestComplete q k) s = .next s) ∧
      (landHeld s q d z = false → mayServe s z.ord = true → z.scales = [] → sdKindDst d = 1 →
        ∃ t, exec (.streamRequestComplete q k) s = .next t ∧
          t.sram = memWrite s.sram (sramIx (tileOf z.dst) (saOff z.dst)) z.bytes ∧ HoldsBytes s s.dev t ∧
          (x.pos < sdUnits d → z.pos ∉ x.doneAt → ∃ y, (t.queue q).active = some y ∧ y.inflight = x.inflight.erase z ∧
            y.moved = x.moved + z.bytes.length ∧ (t.queue q).bytes = stick64 r.bytes z.bytes.length))) ∧
    (r.state = 3 → live →
      (∀ a w, x.haltAt = some (a, w) → inGrains a = true → grainAccess s (grainOf a) (slotDomain s x.slot) w false ≠ .held) →
      exec (.streamResume q) s = .next (s.setQueue q { r with state := 2, halted := false, active := some { x with haltAt := none } })) ∧
    (r.state = 4 → live →
      (∀ p y, y ∈ (s.queue p).xfers → y.tile = x.tile → y.ctx = x.ctx → x.issued ≤ y.issued) →
      (∀ m ∈ s.streams.smts, m.tile = x.tile → m.ctx = x.ctx → x.issued ≤ m.issued) →
      (xferConsume s x = none →
        exec (.drainReady q) s = .next (s.setQueue q { r with active := some { x with credit := .granted }, state := 2 })) ∧
      (∀ a, xferConsume s x = some a → ∃ t, exec (.drainReady q) s = .next t ∧ (t.queue q).state = 1 ∧
        (t.queue q).active = some { x with credit := .waiting, entered := s.streams.issues } ∧
        t.sync.reqs = s.sync.reqs ++ [⟨a, .credit (.stream q x.issued), x.pc, 0⟩]))

/-- R162, R174, R175, R180, R508: a missed deadline is flagged and reported once; the credit watchdog ends the cycle's
victim with ST_ABANDONED; an aborted queue is disabled and empty; a completed line fill enters its set and lets its
waiters go on. -/
def Obligations.StreamWatchdogsAbortsAndFills : Prop :=
  ∀ (s : State),
    (∀ q x, (s.queue q).active = some x → (s.queue q).deadlineAt ≠ 0 → x.missed = false →
      ∃ t, exec (.deadlineExpiry q) s = .next t ∧ (t.queue q).deadlineMissed = true ∧
        (t.queue q).active = some { x with missed := true } ∧ t.sram = s.sram ∧ HoldsBytes s s.dev t) ∧
    (∀ q x, (s.queue q).active = some x → (s.queue q).deadlineAt = 0 ∨ x.missed = true → exec (.deadlineExpiry q) s = .next s) ∧
    (∀ q x a, (s.queue q).active = some x → inCycle s q x = true →
      let cyc := chainFrom s (waitingXfers s) ((waitingXfers s).length + 1) [(q, false, x)] (q, false, x)
      (cycleVictim s cyc = none → exec (.creditWatchExpiry q) s = .next s) ∧
      (cycleVictim s cyc = some (q, false, x) → xferRelease s x = some a → (s.ctx x.tile x.ctx).slot = some x.slot →
      ∃ t, exec (.creditWatchExpiry q) s = .next t ∧ (t.queue q).state = 5 ∧ (t.queue q).active = none ∧ (t.queue q).shadow = none ∧
        (⟨a, .release (.stream q x.issued), x.pc, 0⟩ : SyncReq) ∈ t.sync.reqs ∧ t.sram = s.sram ∧ HoldsBytes s s.dev t ∧
        (t.ctx x.tile x.ctx).st = (if (s.ctx x.tile x.ctx).st = .empty then .empty else .faulted))) ∧
    (∀ q, ∃ t, exec (.stqCtlAbort q) s = .next t ∧ (t.queue q).enable = false ∧ (t.queue q).active = none ∧
      (t.queue q).shadow = none ∧ (t.queue q).state = 0 ∧ (t.queue q).limit = (s.queue q).limit ∧
      (∀ p, p ≠ q → t.queue p = s.queue p) ∧ t.sram = s.sram ∧ t.dev = s.dev ∧ t.ctxs = s.ctxs) ∧
    (∀ die line f, s.streams.fills.find? (fun f => f.die == die && f.line == line) = some f → f.stale = false →
      mayServe s f.ord = true → (s.grain (line.toNat / 64)).st = 2 →
      ∃ t, exec (.tunFillComplete die line) s = .next t ∧ t.streams.fills = s.streams.fills.erase f ∧
        tunSet t die line.toNat = (⟨line, f.domain⟩ :: tunSet s die line.toNat).take 16 ∧ t.dev = s.dev ∧
        ∀ q y i, queueDie q = die → (t.queue q).active = some y → i ∈ y.inflight → line ∉ i.fills)

/-! Attention engines (ch. 8). -/

/-- R213, R214, R245: AEQ appends its descriptor, with its bound value, to the queue of an AE context that its launch holds;
with 16 descriptors already there it appends none and moves on; at a failed AE, at a context that its launch does not hold, or
with a descriptor that its image does not have, it faults.
R214, R266: the descriptor at the head of an AE context starts once its credit, if it takes one, is here; an ATTEND
enters its walker slot, unless it did when it took its credit, and starts with the tables it read; an abandoned credit ends
it. -/
def Obligations.AeqDescriptorsQueueAndStart : Prop :=
  (∀ (s : State) (u : Issue) (desc : BitVec 16) (e : Fin 32) (c : Fin 4) (bnd : Fin 32) (n : Fin 16), Issues s u →
    let x := s.ctx u.tile u.ctx
    let y := s.aeCtx e c
    let i : AeIssue := { desc := desc, slot := n, tile := u.tile, ctx := u.ctx, pc := x.pc, issued := s.streams.issues, mLive := (boundOf x bnd 65535).1, zero := boundZero x bnd }
    let mine := y.owner = some n ∧ desc.toNat < secCount (s.slot n).image 0xC
    x.slot = some n →
    ((s.ae e).failed = false → mine → y.queue.length < 16 → ∃ t, exec (.aeq u desc e c bnd) s = .next t ∧
      t.aeCtx e c = { y with queue := y.queue ++ [i] } ∧ Continues (bumpIssue (s.setAeCtx e c { y with queue := y.queue ++ [i] })) u x id t) ∧
    ((s.ae e).failed = false → mine → 16 ≤ y.queue.length → ∃ t, exec (.aeq u desc e c bnd) s = .next t ∧ Continues s u x id t) ∧
    ((s.ae e).failed = true → exec (.aeq u desc e c bnd) s = .next (issueFault s u x 0x07 (some stNoResource))) ∧
    ((s.ae e).failed = false → ¬ mine → exec (.aeq u desc e c bnd) s = .next (issueFault s u x 0x01 none))) ∧
  (∀ (s : State) (e : Fin 32) (c : Fin 4) (i : AeIssue) (rest : List AeIssue),
    let x := s.aeCtx e c
    let d := aeDesc s i.slot i.desc.toNat
    let credit := aeObj s e c i (adConsume d)
    x.queue = i :: rest → x.run = none → x.stopping = false → x.saved = false → (s.ae e).failed = false →
    s.level (aeUnit e) = 0 → (∀ r ∈ s.sync.reqs, r.act ≠ .withdraw (.ae e c i.issued)) →
    let old := (tabGet {} s.seqs.walkers (aeWalker e c)).epoch
    let entered := if old = none then enterAe s e c else s
    (∀ a, credit = some a → x.credit = .notTaken → exec (.aeDescriptorStart e c) s =
      .next { s with
        aeCtxs := tabPut {} s.aeCtxs (aeIx e c) { x with credit := .waiting }
        sync := { s.sync with reqs := s.sync.reqs ++ [⟨a, .credit (.ae e c i.issued), i.pc, 0⟩] } }) ∧
    (∀ a, credit = some a → x.credit = .waiting → exec (.aeDescriptorStart e c) s = .next s) ∧
    (∀ a, credit = some a → x.credit = .abandoned → exec (.aeDescriptorStart e c) s = .next (aeFault s e c 0xFF a stAbandoned)) ∧
    (credit = none ∨ x.credit = .granted → adKind d ≠ 0 →
      exec (.aeDescriptorStart e c) s = .next (s.setAeCtx e c { x with run := some {}, heldAt := none })) ∧
    (credit = none ∨ x.credit = .granted → adKind d = 0 → i.zero = true →
      ∃ t, exec (.aeDescriptorStart e c) s = .next t ∧ (t.aeCtx e c).run = some {} ∧ (t.aeCtx e c).queue = x.queue ∧
        (tabGet {} t.seqs.walkers (aeWalker e c)).epoch = some (old.getD s.seqs.epoch) ∧ t.dev = s.dev ∧ t.sram = s.sram) ∧
    (∀ w run, credit = none ∨ x.credit = .granted → adKind d = 0 → i.zero = false →
      attendEntry entered e i (entered.aeCtx e c).entered d = (w, .ok run) →
      ∃ t, exec (.aeDescriptorStart e c) s = .next t ∧ (t.aeCtx e c).run = some run ∧ (t.aeCtx e c).queue = x.queue ∧
        (tabGet {} t.seqs.walkers (aeWalker e c)).epoch = some (old.getD s.seqs.epoch) ∧ t.dev = w.dev ∧ t.sram = s.sram))

/-- R83, R215, R244, R245: at a group boundary the first context in order whose operands can be read works on its next group.  A
check that passes commits the rows and moves to the next group; a mismatch runs the group again; the third declares the AE
failed.
R236, R238: a row of an attention group sees a span position exactly when its segment is the group's and, in a causal
segment, the position is not above its own. -/
def Obligations.AeGroupsAreOrderedMaskedAndChecked : Prop :=
  (∀ (s : State) (e : Fin 32) (c : Fin 4),
    (∀ l w, (s.ae e).failed = false → (s.ae e).group = none → aeOrder s e = c :: l → tryGroup s e c = (w, .ok ()) →
      exec (.aeGroupBoundary e) s = .next w ∧ (w.ae e).group = some c ∧ (w.ae e).last = c ∧ w.dev = s.dev ∧ w.sram = s.sram) ∧
    (∀ i q run g rest rows clamps, (s.ae e).group = some c → (s.ae e).runs = 0 → (s.aeCtx e c).queue = i :: q →
      (s.aeCtx e c).run = some run → run.groups = g :: rest → run.awaiting = some (rows, clamps) →
      ∀ scores values, (scores = true → run.badScores = true) → (values = true → run.badValues = true) →
      ∃ t, exec (.aeGroupCheck e scores values false) s = .next t ∧ (t.ae e).group = none ∧ (t.ae e).runs = 0 ∧
        (t.aeCtx e c).run = some { run with rows := rows, groups := rest, awaiting := none, badScores := false, badValues := false } ∧
        (t.aeCtx e c).queue = i :: q ∧ t.dev = s.dev ∧ t.sram = s.sram) ∧
    (∀ run scores values adders, (s.ae e).group = some c → (s.aeCtx e c).run = some run →
      adders = true ∨ (scores = true ∧ run.badScores = false) ∨ (values = true ∧ run.badValues = false) →
      ((s.ae e).runs < 2 → ∃ t, exec (.aeGroupCheck e scores values adders) s = .next t ∧ (t.ae e).runs = (s.ae e).runs + 1 ∧
        (t.ae e).group = some c ∧ t.aeCtxs = s.aeCtxs ∧ t.dev = s.dev ∧ t.sram = s.sram) ∧
      (2 ≤ (s.ae e).runs → ∃ t, exec (.aeGroupCheck e scores values adders) s = .next t ∧ (t.ae e).failed = true ∧
        (t.ae e).group = none ∧ ∀ d, (t.aeCtx e d).queue = []))) ∧
  (∀ (run : AeRun) (g : AeGroup) (w row j : Nat), g.cand = false →
    let r := run.rowTab.getD row 0
    (visible run g w row j = true ↔ rwSegment r = g.seg ∧ (sgCausal w = true → g.first + (j - g.index) ≤ rwPos r)))

/-- R64, R214, R216, R232: a descriptor whose groups are all processed writes its rows to its output in scratch SRAM, once no
instruction of the tile reads those bytes, signals its release and leaves the queue; a pre-empted context writes the partial
records of its rows to its save area at a group boundary. -/
def Obligations.AeDescriptorsEndOrAreSaved : Prop :=
  ∀ (s : State) (e : Fin 32) (c : Fin 4) (i : AeIssue) (rest : List AeIssue) (run : AeRun),
    let x := s.aeCtx e c
    let d := aeDesc s i.slot i.desc.toNat
    let out := finishRows d run.rows
    let u := tileOf (adOut d)
    let off := saOff (adOut d)
    let ended := fun (t : State) => (t.aeCtx e c).queue = rest ∧ (t.aeCtx e c).run = none ∧
      (tabGet {} t.seqs.walkers (aeWalker e c)).epoch = none ∧ HoldsBytes s s.dev t ∧
      ∀ a, aeObj s e c i (adRelease d) = some a → ⟨a, .release (.ae e c i.issued), i.pc, 0⟩ ∈ t.sync.reqs
    x.queue = i :: rest → x.run = some run →
    (run.groups = [] → run.awaiting = none → x.stopping = false → x.saved = false →
      (i.zero = true → ∃ t, exec (.aeDescriptorEnd e c) s = .next t ∧ ended t ∧ t.sram = s.sram) ∧
      (i.zero = false → adKind d = 0 → adOutSram d = true → out ≠ [] → aeSram e (adOut d) out.length = true →
        (writeHeld s u off out.length = false → ∃ t, exec (.aeDescriptorEnd e c) s = .next t ∧ ended t ∧
          t.sram = memWrite s.sram (sramIx u off) out) ∧
        (writeHeld s u off out.length = true →
          exec (.aeDescriptorEnd e c) s = .next (s.setAeCtx e c { x with heldAt := none })))) ∧
    (run.groups ≠ [] → exec (.aeDescriptorEnd e c) s = .next s) ∧
    (x.stopping = true → (s.ae e).group ≠ some c → ∃ t, exec (.aeContextSave e c) s = .next t ∧
      t.aeCtx e c = { x with stopping := false, saved := true, heldAt := none, credit := if x.credit = .waiting then .notTaken else x.credit, area := run.rows.flatMap partialBytes, left := run.groups.length, run := some { run with rows := [] } } ∧
      t.sram = s.sram ∧ t.dev = s.dev)

/-- R53, R54: additions into the Keg are exact and in any order the same; when the anchor rises by d the Keg is shifted right
by d bits, bits below 2^-64 are discarded, and a shift of 96 or more leaves zero. -/
def Obligations.KegAddsExactlyAndShiftsDown : Prop :=
  (∀ a b, a + b < 2 ^ 96 → kegAdd a b = a + b) ∧
  (∀ (k : Nat) (l l' : List Nat), l.Perm l' → l.foldl kegAdd k = l'.foldl kegAdd k) ∧
  ∀ (k d : Nat) (num : List Val), k < 2 ^ 96 →
    (raise' k num d).1 * 2 ^ d ≤ k ∧ k < ((raise' k num d).1 + 1) * 2 ^ d ∧ (96 ≤ d → (raise' k num d).1 = 0)

/-! Sequences (ch. 9). -/

/-- R258, R261, R266, R268: a sequence record that meets no refusal has its effect at its oldest turn: EXTEND publishes
the longer length under the next version, at once where no page is to be copied and else, once all it needs is taken, after
its copies; TRUNCATE publishes the shorter one; ENTER records the epoch in the context's walker slot once, LEAVE empties it.
The record leaves the window when its operation ends. -/
def Obligations.SequenceRecordsTakeEffect : Prop :=
  ∀ (s : State) (u : Fin 192) (c : Fin 4) (r : WindowRec), recRefusal s r = stOk →
    let h := r.handle
    let e := s.seq h
    let k := tileWalker u c
    let need := extendNeeds s h r.value
    (∀ s1, oldestRec s u c 1 = some r → need.1 = [] → need.2.length ≤ slotsFree s →
      takeItems s h ((newLists s h need.1 (e.length + r.value)).countP id) = some s1 →
      ∃ t, exec (.extend u c) s = .next t ∧ (t.seq h).length = e.length + r.value ∧ (t.seq h).base = e.base ∧
        (t.seq h).version = e.version + 1 ∧ t.seqs.records = s.seqs.records.erase r) ∧
    (∀ s1, oldestRec s u c 1 = some r → need.1 ≠ [] → need.1.length + need.2.length ≤ slotsFree s →
      takeItems s h ((newLists s h need.1 (e.length + r.value)).countP id) = some s1 →
      ∃ t y, exec (.extend u c) s = .next t ∧ t.seqs.copies = s.seqs.copies ++ [y] ∧ y.handle = h ∧ y.length = e.length + r.value ∧
        y.copies.map (fun x => (x.1, x.2.1)) = need.1 ∧ y.record = r ∧ t.seqs.records = s.seqs.records ∧ t.seq h = e) ∧
    (∀ s1, oldestRec s u c 2 = some r → truncSeq s h r.value = some s1 →
      ∃ t, exec (.truncate u c) s = .next t ∧ (t.seq h).length = r.value ∧ (t.seq h).base = e.base ∧
        (t.seq h).version = e.version + 1 ∧ t.seqs.records = s.seqs.records.erase r) ∧
    (oldestRec s u c 3 = some r → (s.ctx u c).st ≠ .empty → (s.ctx u c).st ≠ .faulted →
      ∃ t, exec (.enter u c) s = .next t ∧ t.seqs.records = s.seqs.records.erase r ∧ t.seqs.table = s.seqs.table ∧
        (tabGet {} t.seqs.walkers k).epoch = (match (tabGet {} s.seqs.walkers k).epoch with
          | some x => some x
          | none => some s.seqs.epoch)) ∧
    (oldestRec s u c 4 = some r → ∃ t, exec (.leave u c) s = .next t ∧ t.seqs.records = s.seqs.records.erase r ∧
      t.seqs.table = s.seqs.table ∧ (tabGet {} t.seqs.walkers k).epoch = none)

/-- R256, R264, R265, R269, R271: a copied extension is published or, with a poisoned page, undone; a fork's version becomes
readable; the epoch advances at a tick after a publication unless a walker lies 2^31 − 1 behind; a reclamation pass frees
exactly the limbo pages that no walker may still read.
R264: a page in limbo stays while some entered walker recorded an epoch at or before its stamp, and only then. -/
def Obligations.PagesAndVersionsAreReclaimedSafely : Prop :=
  (∀ (s : State),
    (∀ (h : BitVec 17) y, s.seqs.copies.find? (fun y => y.handle == h.toNat) = some y →
      (∃ g ∈ (neededCopies s y).flatMap (fun x => pageGrains s x.2.1), (s.grain g).st = 9) →
      ∃ t, exec (.pageCopyDone h) s = .next t ∧ t.seqs.copies = s.seqs.copies.erase y ∧ t.seqs.table = s.seqs.table ∧
        ∀ x ∈ y.copies ++ y.fresh, t.page x.2.2 = {}) ∧
    (∀ (h : BitVec 17) y, s.seqs.copies.find? (fun y => y.handle == h.toNat) = some y →
      let e := s.seq y.handle
      let gs := (neededCopies s y).flatMap (fun x => pageGrains s x.2.1)
      let met := gs.foldl (fun (p : State × Bool) g =>
        let m := meetGrain p.1 g e.domain.toNat false true (e.homeDie.castLE (by omega))
        (m.1, p.2 && decide (m.2 = .served))) (s, true)
      (∀ g ∈ gs, (s.grain g).st ≠ 9) → met.2 = true →
      ∃ t, exec (.pageCopyDone h) s = .next t ∧ t.seqs.copies = s.seqs.copies.erase y ∧ (t.seq y.handle).length = y.length ∧
        (t.seq y.handle).version = e.version + 1 ∧ (t.seq y.handle).base = e.base) ∧
    (∀ (h : BitVec 17) f, s.seqs.forks.find? (fun f => f.handle == h.toNat) = some f →
      ∃ t, exec (.forkPublished h) s = .next t ∧ t.seq f.handle = { s.seq f.handle with version := 1 } ∧
        t.seqs.forks = s.seqs.forks.erase f ∧ t.seqs.published = true) ∧
    (let near := s.seqs.walkers.any (fun w => match w.2.epoch with
        | some x => decide (2 ^ 31 - 1 ≤ (s.seqs.epoch + 1 - x).toNat)
        | none => false)
      ∃ t, exec .epochTick s = .next t ∧ t.seqs.published = false ∧
        t.seqs.epoch = (if s.seqs.published = true ∧ near = false then s.seqs.epoch + 1 else s.seqs.epoch) ∧
        t.seqs.table = s.seqs.table ∧ t.seqs.pages = s.seqs.pages ∧ t.dev = s.dev) ∧
    (tabWf {} s.seqs.pages = true → ∃ t, exec .reclamationPass s = .next t ∧
      ∀ p, t.page p = if (s.page p).st = 2 ∧ walkerBlocks s (s.page p).epoch = false then {} else s.page p)) ∧
  (∀ (s : State) (e : Word32), walkerBlocks s e = true ↔
    ∃ w ∈ s.seqs.walkers, ∃ x, w.2.epoch = some x ∧ ∃ n < 2 ^ 31, e = x + BitVec.ofNat 32 n)

/-! Rings (ch. 10). -/

/-- R278 to R280, R282: a pass record that meets no refusal becomes the active pass of its binding, under the version
current then, and begins when the step counter has reached g_start; a refused one becomes no pass and leaves the window.
R282: a pass begins, at the later of its acceptance and the step's time, exactly when the step counter has reached its
g_start. -/
def Obligations.RingPassesAreAcceptedAndBegin : Prop :=
  (∀ (s : State) (u : Fin 192) (c : Fin 4) (w : WindowRec) (i : Instr) (op : Nat),
    (i = .rotate u c ∧ op = 0x11) ∨ (i = .circulate u c ∧ op = 0x12) →
    s.seqs.records.find? (fun w => w.tile == u && w.ctx == c && w.pass) = some w → prOp w.num = op →
    let s1 := { s with seqs := { s.seqs with records := s.seqs.records.erase w } }
    (∀ b r, passRefusal s1 w = stOk → bindOfSeq s1 (prHandle w.num) = some b → ringOf s1 (s1.bind b).ring = some r →
      exec i s = .next (settlePass (acceptPass s1 w b r) b) ∧
        ∃ p, ((acceptPass s1 w b r).bind b).pass = some p ∧ p.data = w.data ∧ p.begun = none ∧ p.reached = 0 ∧
          p.version = (s.seq (s.bind b).handle).versionAddr.toNat ∧ p.acceptedAt = s.time.now.toNat) ∧
    (passRefusal s1 w ≠ stOk → ∃ t, exec i s = .next t ∧ t.rings = s.rings ∧ t.seqs.records = s.seqs.records.erase w)) ∧
  (∀ (s : State) (b : Fin 16384) (p : Pass), (s.bind b.val).pass = some p → p.begun = none →
    (stepReached s (prG p.num) = true → exec (.passBegin b) s = .next (settlePass (s.setBind b.val { s.bind b.val with
      pass := some { p with begun := some (max p.acceptedAt (stepTime s (prG p.num))) } }) b.val)) ∧
    (stepReached s (prG p.num) = false → exec (.passBegin b) s = .next s))

/-- R281, R283, R285, R297: messages of a pass.  A chunk is written where it belongs, acknowledged and counted once, and one
whose grain is held stays in the receive buffer; a slot-free message is noted, an acknowledgement drops its chunk, HOLD and RESUME mark the neighbour, an abandonment ends the
pass and leaves the ring FORMED.
R273, R281: a chunk whose header differs from the member's own record in domain, formats or times is not written: the
pass ends on every member, and the fault is reported. -/
def Obligations.RingMessagesReachTheirPass : Prop :=
  (∀ (s s1 : State) (p : PktHdr) (h : RingHdr) (r : RingEntry) (b : Nat) (q : Pass),
    ringMsg (admitPacket s p 4) p h = (s1, some r) → passOf s1 h = some b → (s1.bind b).pass = some q →
    let x := s1.bind b
    (∀ d bytes w, chunkKnown s1 r x q d bytes.length = true →
      moverWrite s1 q (moverDie s1 x) d (chunkPlace s1 x q r.n true d).1 (s1.seq x.handle).domain.toNat bytes = (w, .served) →
      let w1 := w.setBind b { x with pass := some { q with got := if q.got.contains d then q.got else q.got ++ [d] } }
      exec (.ringChunkArrival p h d none bytes) s = .next (returnCredit (settlePass (sendPass
        (if q.got.contains d then count w1 0x0B00 else w1) r x q rmAck p.src.toNat (ringDataItems d)) b) p bytes.length)) ∧
    (∀ d bytes w, chunkKnown s1 r x q d bytes.length = true →
      moverWrite s1 q (moverDie s1 x) d (chunkPlace s1 x q r.n true d).1 (s1.seq x.handle).domain.toNat bytes = (w, .held) →
      exec (.ringChunkArrival p h d none bytes) s = .next (holdIn w (.ring p h d none bytes)))) ∧
  (∀ (s s1 : State) (p : PktHdr) (h : RingHdr) (r : RingEntry) (b : Nat) (q : Pass),
    ringMsg (ingress s p 4) p h = (s1, some r) → passOf s1 h = some b → (s1.bind b).pass = some q →
    let x := s1.bind b
    (∀ v, exec (.slotFree p h v) s = .next (settlePass (s1.setBind b { x with
      pass := some { q with frees := q.frees ++ [(p.src, v)] } }) b)) ∧
    (∀ d, exec (.ringAck p h d) s = .next (settlePass (s1.setBind b { x with
      pass := some { q with unacked := q.unacked.filter (fun u => !(u.dst == p.src && u.data == d)) } }) b)) ∧
    (∃ t y, exec (.hold p h) s = .next t ∧ (t.bind b).pass = some y ∧ p.src ∈ y.heldBy ∧ (∀ m, m ∈ y.heldBy ↔ m = p.src ∨ m ∈ q.heldBy) ∧
      t.dev = s1.dev) ∧
    (∃ t y, exec (.resume p h) s = .next t ∧ (t.bind b).pass = some y ∧ (∀ m, m ∈ y.heldBy ↔ m ≠ p.src ∧ m ∈ q.heldBy) ∧
      t.dev = s1.dev) ∧
    (∃ t, exec (.ringAbandon p h) s = .next t ∧ (t.bind b).pass = none ∧ t.rings.table = s1.rings.table)) ∧
  (∀ (s s1 : State) (p : PktHdr) (h : RingHdr) (r : RingEntry) (b : Nat) (q : Pass) (d : RingData) (f : RingFirst) (bytes : List Byte),
    ringMsg (admitPacket s p 4) p h = (s1, some r) → passOf s1 h = some b → (s1.bind b).pass = some q →
    ringOf s1 (s1.bind b).ring = some r →
    chunkKnown s1 r (s1.bind b) q d bytes.length = true → firstCheck s1 (s1.bind b) q f ≠ stOk →
    ∃ t, exec (.ringChunkArrival p h d (some f) bytes) s = .next t ∧ (t.bind b).pass = none ∧
      t.rings.table = s1.rings.table ∧ t.sram = s1.sram)

/-- R295, R296, R299: a due time missed is counted and, the first of a pass, reported; with break_us gone without progress and
no HOLD standing, or on a broken message, the ring is BROKEN and no pass of it stays active. -/
def Obligations.LateAndBrokenRings : Prop :=
  ∀ (s : State),
    (∀ (b : Fin 16384) p r t0, (s.bind b.val).pass = some p → ringOf s (s.bind b.val).ring = some r → p.begun = some t0 →
      (if p.rotates then p.due < r.n else p.due = 0) →
      ((dueState s p t0).2.2.1 = true → exec (.ringDueTime b) s = .next (s.setBind b.val { s.bind b.val with
        pass := some { p with due := p.due + 1, preempted := p.holding, throttled := rateHeld s, rerouted := false } })) ∧
      ((dueState s p t0).2.2.1 = false → ∃ t y, exec (.ringDueTime b) s = .next t ∧ (t.bind b.val).pass = some y ∧
        y.late = p.late + 1 ∧ y.reported = true ∧ y.due = p.due + 1 ∧ y.data = p.data ∧ y.reached = p.reached ∧
        t.dev = s.dev ∧ t.sram = s.sram)) ∧
    (∀ (b : Fin 16384) p r i, (s.bind b.val).pass = some p → ringOf s (s.bind b.val).ring = some r →
      (s.bind b.val).used = true → ringIx s r.id = some i → (s.bind b.val).ring = r.id → p.heldBy = [] →
      ∃ t, exec (.ringBreakTimer b) s = .next t ∧ (t.ring i).st = 2 ∧ (t.bind b.val).pass = none) ∧
    (∀ (b : Fin 16384) p, (s.bind b.val).pass = some p → p.heldBy ≠ [] → exec (.ringBreakTimer b) s = .next s) ∧
    (∀ p h s1 r i, ringMsg (ingress s p 4) p h = (s1, some r) → ringIx s1 r.id = some i →
      ∃ t, exec (.brokenMessage p h) s = .next t ∧ (t.ring i).st = 2 ∧
        ∀ b, (s1.bind b).used = true → (s1.bind b).ring = r.id → (t.bind b).pass = none)

/-! Collectives (ch. 11). -/

/-- R307: a COLL takes the group's next sequence number; with a slot free it becomes an active instance, with 256 active it
ends at once with its outcome bit set.
R314, R317, R318: an arriving chunk is held for its fold (reduce-scatter) or written (all-gather) and acknowledged, a repeated
one only acknowledged, one that fails its CRC answered with NAK. -/
def Obligations.CollectivesTakeNumbersAndChunks : Prop :=
  (∀ (s : State) (u : Issue) (plan : BitVec 16) (aSrc aDst : Option (Fin 16)) (n : Fin 16), Issues s u →
    let x := s.ctx u.tile u.ctx
    let d := collPlan s n plan.toNat
    let g := s.group (cpGroup d)
    x.slot = some n → plan.toNat < secCount (s.slot n).image 0xD → g.set = true →
    (256 ≤ s.colls.active.length → (∀ j ∈ s.colls.active, ¬ (j.group = cpGroup d ∧ j.seq = g.nextSeq)) →
      ∃ t, exec (.coll u plan aSrc aDst) s = .next t ∧ (t.group (cpGroup d)).nextSeq = g.nextSeq + 1 ∧
        t.colls.active.length = s.colls.active.length ∧ collOf t (cpGroup d) g.nextSeq = none ∧
        (t.group (cpGroup d)).outcome.getLsbD (g.nextSeq.toNat % 64) = true) ∧
    (∀ a, s.colls.active.length < 256 → cpConsume d ≠ 0xFFFF → ctxVid s u.tile u.ctx (cpConsume d) = some a →
      (∀ j ∈ s.colls.active, ¬ (j.group = cpGroup d ∧ j.seq = g.nextSeq)) → s.colls.early = [] →
      ∃ t i, exec (.coll u plan aSrc aDst) s = .next t ∧ (t.group (cpGroup d)).nextSeq = g.nextSeq + 1 ∧
        collOf t (cpGroup d) g.nextSeq = some i ∧ i.begun = false ∧ i.credit = .waiting ∧ i.plan.toNat = d % 2 ^ 512 ∧
        i.dst = (cpDst d + (match aDst with
          | some j => (x.getA j).toNat
          | none => 0)) % 2 ^ 64 ∧
        (⟨a, .credit (.coll (cpGroup d) g.nextSeq.toNat), x.pc, 0⟩ : SyncReq) ∈ t.sync.reqs)) ∧
  (∀ (s s1 : State) (p : PktHdr) (header : BitVec 512) (payload : List Byte) (i : Coll),
    let h := header.toNat
    let q : CollPart := ⟨chSender h, chStage h, chPiece h, chChunk h⟩
    let good := chCrc h = (chunkCrc (h % 2 ^ 448) payload).toNat ∧ payload.length = chLength h
    let ack := fun (t : State) (j : Coll) => settleColls (sendCollTo (setColl t j) j q.peer cmAck (partItems q))
    let done := fun (t : State) => returnCredit t p (64 + payload.length)
    chunkMsg (admitPacket s p 5) p header = (s1, true) →
    collOf s1 (chGroup h) (BitVec.ofNat 32 (chSeq h)) = some i → (s1.group i.group).id q.peer = p.src.toNat →
    (i.gathers = false → good → q ∈ i.granted → q ∉ i.got → ∃ j, exec (.collChunkArrival p header payload) s = .next (done (ack s1 j)) ∧
      j.held = i.held ++ [(q, payload)] ∧ j.got = i.got ++ [q] ∧ j.accs = i.accs ∧ j.group = i.group ∧ j.seq = i.seq) ∧
    (i.gathers = true → good → q ∈ i.granted → q ∉ i.got →
      let put := collPut s1 i (collDie q.chunk) (piecePlace i q.piece + 16384 * q.chunk) payload (fun t => ack t { acceptChunk i q with heldAt := none })
      (∀ t, put = .go t → exec (.collChunkArrival p header payload) s = .next (done t)) ∧
      (∀ t, put = .wait t → exec (.collChunkArrival p header payload) s = .next (holdIn t (.coll p header payload))) ∧
      (∀ t st, put = .fail t st → exec (.collChunkArrival p header payload) s = .next (done (settleColls (endColl t i st))))) ∧
    (good → q ∈ i.got → exec (.collChunkArrival p header payload) s = .next (done (sendCollTo (count s1 0x0F00) i q.peer cmAck (partItems q)))) ∧
    (¬ good → (∀ e ∈ i.crcFails, e.1 ≠ q) → ∃ j, exec (.collChunkArrival p header payload) s = .next (done (settleColls
        (sendCollTo (setColl (count s1 0x0E00) j) i q.peer cmNak (partItems q)))) ∧
      j = { i with crcFails := i.crcFails.filter (fun e => e.1 != q) ++ [(q, 1)] }) ∧
    (good → q ∉ i.got → q ∉ i.granted → exec (.collChunkArrival p header payload) s = .next (done s1)))

/-- R315, R317, R319, R320, R479: messages and timers of an active instance.  A GRANT lets chunks go, an acknowledgement drops its chunk, a NAK and the
resend timer send it again, ABANDON ends the instance, the stall timer reports it once and leaves it active.
R320, R479: the stall timer reports an instance once and leaves it active; a chunk unacknowledged for 100 µs is sent
again. -/
def Obligations.CollectiveMessagesAndTimers : Prop :=
  (∀ (s s1 : State) (p : PktHdr) (g : CollMsg) (i : Coll), collMsg (ingress s p 5) p g.group g.seq g.check = (s1, true) →
    collOf s1 g.group.toNat g.seq = some i →
    (∀ first n m, (s1.group i.group).index p.src = some m → exec (.grant p g first n none) s = .next (settleColls
      (setColl s1 (addGrants i m g.stage g.piece first (min n 16))))) ∧
    (∀ k m, (s1.group g.group.toNat).index p.src = some m → exec (.collAck p g k) s = .next (settleColls
      (setColl s1 { i with unacked := i.unacked.filter (fun u => u.part != ⟨m, g.stage, g.piece, k⟩) }))) ∧
    (∀ k m v, (s1.group g.group.toNat).index p.src = some m → i.unacked.find? (fun u => u.part == ⟨m, g.stage, g.piece, k⟩) = some v →
      exec (.nak p g k) s = .next (resendColl s1 i v)) ∧
    (∀ st, ∃ t, exec (.abandon p g st) s = .next t ∧ collOf t g.group.toNat g.seq = none ∧
      ((∀ j ∈ s1.colls.active, j.group = i.group → j.seq.toNat % 64 = i.seq.toNat % 64 → j.seq = i.seq) →
        (t.group i.group).outcome.getLsbD (i.seq.toNat % 64) = true))) ∧
  (∀ (s : State),
    (∀ (g : BitVec 12) (q : BitVec 32) i, collOf s g.toNat q = some i → i.stalled = false →
      ∃ t j, exec (.collStallTimer g q) s = .next t ∧ collOf t g.toNat q = some j ∧ j = { i with stalled := true } ∧
        t.dev = s.dev ∧ t.sram = s.sram) ∧
    (∀ (g : BitVec 12) (q : BitVec 32) i, collOf s g.toNat q = some i → i.stalled = true → exec (.collStallTimer g q) s = .next s) ∧
    (∀ (g : BitVec 12) (q : BitVec 32) dst stage piece chunk i m v, collOf s g.toNat q = some i →
      (s.group g.toNat).index dst = some m → i.unacked.find? (fun v => v.part == ⟨m, stage, piece, chunk⟩) = some v →
      exec (.chunkResendTimer (.coll g q dst stage piece chunk)) s = .next (resendColl s i v)) ∧
    (∀ (b : Fin 16384) dst d p v, (s.bind b.val).pass = some p → p.unacked.find? (fun v => v.dst == dst && v.data == d) = some v →
      exec (.chunkResendTimer (.ring b dst d)) s = .next (resendRing s b.val v)))

/-! The fabric (ch. 13). -/

/-- R360, R375, R376: a packet from outside the slice, a replayed counter and a failing tag are counted and dropped: a WRITE
that fails its ingress check changes no byte of near memory or tile SRAM, and no register of a tile.
R375, R376: within a session a packet whose counter lies 4,096 or more below the highest seen, or was seen, is dropped
before its tag matters; a fresh one with a good tag is accepted and its counter is seen from then on. -/
def Obligations.RefusedAndReplayedPacketsWriteNothing : Prop :=
  (∀ (s : State) (p : PktHdr) (l : List Byte), (admitPacket s p 0).2 = false →
    ∃ t, exec (.write p l) s = .next t ∧ t = returnCredit (admitPacket s p 0).1 p l.length ∧ t.dev = s.dev ∧ t.sram = s.sram ∧ t.ctxs = s.ctxs ∧
      t.sync = s.sync ∧ t.fabric.inbound = s.fabric.inbound ∧
      (ingressOk s p 0 = false → (t.counter 0x1500).value = min (2 ^ 32 - 1) ((s.counter 0x1500).value + 1))) ∧
  (∀ (s : State) (p : PktHdr), (s.sess p.src.toNat).st = 2 → p.keyGen = (s.sess p.src.toNat).gen →
    let x := s.sess p.src.toNat
    let c := p.ctr.toNat
    ((c + 4096 ≤ x.high ∨ c ∈ x.seen) → openSealed s p = (count s 0x1700, false)) ∧
    (x.high < c + 4096 → c ∉ x.seen → p.tagOk = true → ∃ t, openSealed s p = (t, true) ∧
      replayed (t.sess p.src.toNat).high (t.sess p.src.toNat).seen c = true ∧ (t.sess p.src.toNat).high = max x.high c))

/-- R355, R360: an accepted WRITE to a backed grain of its domain is written, noted and acknowledged, one whose grain is held
stays in the receive buffer, a refused one is answered with DENY; one of a transfer that is complete already is acknowledged
and counted, and not written again.  A SIGNAL is applied once every packet it covers
has arrived. -/
def Obligations.RemoteTransfersArriveOnce : Prop :=
  ∀ (s s1 : State) (p : PktHdr),
    (∀ l, admitPacket s p 0 = (s1, true) → completed s1 p = true →
      exec (.write p l) s = .next (returnCredit (ackWrite (count s1 0x1400) p) p l.length)) ∧
    (∀ l t, admitPacket s p 0 = (s1, true) → completed s1 p = false →
      let meet := devMeet s1 p.address.toNat l.length p.domain.toNat true (die5 (Fin.ofNat 4 (p.port.val / 2)))
      (meet = (t, .held) → exec (.write p l) s = .next (holdIn t (.write p l))) ∧
      (∀ st, meet = (t, .refused st) →
        exec (.write p l) s = .next (returnCredit (sendDeny (dropInXfer t (inXfer t p)) p st) p l.length))) ∧
    (∀ l, admitPacket s p 0 = (s1, true) → completed s1 p = false →
      let a := p.address.toNat
      let g := s1.grain (grainOf a)
      1 ≤ l.length → inGrains a = true → inGrains (a + l.length - 1) = true → grainOf a = grainOf (a + l.length - 1) →
      inKvArena (grainOf a) = false → inListArena (grainOf a) = false → g.st = 2 → g.domain = p.domain →
      ∃ w i, exec (.write p l) s = .next (returnCredit (settleIn (ackWrite (setInXfer (settleEngines w) i) p) i) p l.length) ∧
        w.dev = memWrite s1.dev a l ∧ w.sram = s1.sram ∧ i.src = p.src ∧ i.xfer = p.xfer ∧ p.index.toNat ∈ i.got) ∧
    (ingress s p 1 = (s1, true) → completed s1 p = false →
      let i := { inXfer s1 p with signal := some (p.address.toNat, p.domain, p.aux.toNat % 2 ^ 24) }
      exec (.signal p) s = .next (settleIn (setInXfer s1 i) i) ∧
        (i.got.length < p.aux.toNat % 2 ^ 24 → settleIn (setInXfer s1 i) i = setInXfer s1 i)) ∧
    (ingress s p 1 = (s1, true) → completed s1 p = true → exec (.signal p) s = .next (ackSignal (count s1 0x1400) p.src p.xfer))

/-- R355, R360, R361, R364: an ACK releases exactly the packets it names, and with the SIGNAL's the transfer; a DENY ends the
transfer with its status; acknowledgements held back are sent; a timer sends a packet again; credits come back; a stalled
class is reported once. -/
def Obligations.RemoteTransfersAreReleased : Prop :=
  ∀ (s s1 : State) (p : PktHdr),
    (ingress s p 2 = (s1, true) → ∃ t, exec (.ack p) s = .next t ∧ t.fabric.sent = s1.fabric.sent.filter (fun e =>
        !(e.packet.dst == p.src && e.packet.xfer == p.xfer && (p.aux.getLsbD 24 || (e.packet.kind == 0 &&
          decide (p.index.toNat ≤ e.packet.index) && decide (e.packet.index < p.index.toNat + p.aux.toNat % 2 ^ 24))))) ∧
      HoldsBytes s1 s1.dev t ∧ t.sram = s1.sram) ∧
    (∀ q x, ingress s p 3 = (s1, true) → queueOf s1 p.src.toNat p.xfer = some q → (s1.queue q).active = some x →
      ∃ t, exec (.deny p) s = .next t ∧ (t.queue q).active = none ∧ (t.queue q).state = 5 ∧ HoldsBytes s1 s1.dev t ∧ t.sram = s1.sram) ∧
    (∀ src, ∃ t, exec (.ackFlush src) s = .next t ∧ t.fabric.acks = s.fabric.acks.filter (fun e => e.src != src) ∧
      t.dev = s.dev ∧ t.sram = s.sram) ∧
    (∀ dst xfer index e, s.fabric.sent.find? (fun e => e.packet.dst == dst && e.packet.xfer == xfer && e.packet.index == index.toNat) = some e →
      exec (.packetResendTimer dst xfer index) s = .next (relaunch s e.packet)) ∧
    (∀ port cls n, exec (.creditReturn port cls n) s = .next (flush (s.setPort port.val ((s.port port.val).give cls.val n))) ∧
      ((s.port port.val).give cls.val n).free cls.val ≤ max ((s.port port.val).free cls.val) 1280) ∧
    (∀ port cls k, k ∈ s.fabric.waiting → k.cls.val = cls.val → port.val ∈ effSet s k.dst.toNat →
      (s.port port.val).free cls.val < k.units → (s.port port.val).stalled.getLsbD cls.val = false →
      ∃ t, exec (.creditStallTimer port cls) s = .next t ∧ (t.port port.val).stalled.getLsbD cls.val = true ∧
        t.fabric.waiting = s.fabric.waiting) ∧
    (∀ port cls, (s.port port.val).stalled.getLsbD cls.val = true → exec (.creditStallTimer port cls) s = .next s)

/-- R366 to R368, R370 to R372: a serving module answers a TIME request with its own time, any other counts it; a follower asks
its source, and uses a reply whose delay is not more than 50 ns above the least of the last 64; others leave rate and time.
R368, R371: LOCKED becomes HOLDOVER after 1 ms without a reply, with the rate word kept, and HOLDOVER FREE at its expiry;
the backup takes over; the master probes and starts up. -/
def Obligations.FabricTimeIsServedAndKept : Prop :=
  (∀ (s s1 : State) (p : PktHdr),
    (∀ t1, ingress s p 6 = (s1, true) → s1.time.serving = true → exec (.timeRequest p t1) s = .next (sendPacket s1
      { kind := 6, dst := p.src, cls := 2, domain := 0x3FF, aux := 1, items := [(64, t1), (64, s1.time.now.toNat), (64, s1.time.now.toNat), (8, s1.time.st.code), (8, 1), (8, stepLog2 s1)] })) ∧
    (∀ t1, ingress s p 6 = (s1, true) → s1.time.serving = false → exec (.timeRequest p t1) s = .next (count s1 0x1600)) ∧
    (∀ d, timeSource s = some d → d ≠ moduleId s → s.time.serving = false →
      exec .timeExchangeTimer s = .next (timeRequestTo s d)) ∧
    (∀ r, ingress s p 6 = (s1, true) → r.isSource = true → selfMaster s1 = false → isMaster s1 p.src.toNat = true →
      s1.time.st = .locked → exRejected s1 r = false → ∃ t, exec (.timeReply p r) s = .next t ∧
        t.time.st = .locked ∧ t.time.lastTheta = exTheta r ∧ t.time.now = s1.time.now ∧
        t.time.thetas = (exTheta r :: s1.time.thetas).take 8 ∧ t.time.rate ≤ nominalRate + nominalRate * 50 / 1000000 ∧
        nominalRate - nominalRate * 50 / 1000000 ≤ t.time.rate) ∧
    (∀ r, ingress s p 6 = (s1, true) → r.isSource = true → selfMaster s1 = false → isMaster s1 p.src.toNat = true →
      s1.time.st = .locked → exRejected s1 r = true → ∃ t, exec (.timeReply p r) s = .next t ∧
        t.time.st = .locked ∧ t.time.now = s1.time.now ∧ t.time.rate = s1.time.rate ∧ t.time.lastTheta = s1.time.lastTheta)) ∧
  (∀ (s : State),
    (s.time.st = .locked → s.time.serving = false → ∃ t, exec .holdoverTimer s = .next t ∧ t.time.st = .holdover ∧
      t.time.rate = s.time.rate ∧ t.time.now = s.time.now) ∧
    (s.time.st = .holdover → ∃ t, exec .holdoverExpiry s = .next t ∧ t.time.st = .free ∧ t.time.rate = s.time.rate ∧
      t.time.now = s.time.now) ∧
    (s.time.st ≠ .holdover → exec .holdoverExpiry s = .next s) ∧
    (selfMaster s = false → s.time.serving = false → selfBackup s = true → s.time.everLocked = true → s.time.stuck = false →
      ∃ t, exec .backupTakeover s = .next t ∧ t.time.serving = true ∧ t.time.st = .locked ∧ t.time.now = s.time.now) ∧
    (selfMaster s = false → s.time.serving = false → selfBackup s = false → s.time.st = .holdover →
      exec .backupTakeover s = .next { s with time := { s.time with followBackup := true } }) ∧
    (∀ r, s.fabric.route = some r → s.time.followBackup = true →
      exec .masterProbeTimer s = .next (timeRequestTo s r.master.toNat)) ∧
    (selfMaster s = true → s.time.startup = true → s.time.serving = false → s.time.stuck = false → ∃ t, exec .masterStartupTimer s = .next t ∧
      t.time.serving = true ∧ t.time.startup = false ∧ t.time.st = .locked ∧ t.time.now = s.time.now))

/-- R363, R379, R380: a HALT acts once on its number; a notice takes its plane out of the sender's effective set or puts it
back; a destination that stays silent is unreachable until heard again.
R11, R13, R352, R377, R378, R480: a failed frame is counted; a lane failure retrains the port on the lanes left and a port
with none goes down; a port that is down carries nothing; the eighth failing replay of a die-to-die flit is a module fault. -/
def Obligations.FabricPortsHaltsAndNotices : Prop :=
  (∀ (s s1 : State) (p : PktHdr),
    (∀ stop, ingress s p 7 = (s1, true) → (∀ n, s1.launch n = none) → (∀ m, (s1.mbx m).taken = none) →
      ∃ t, exec (.halt p stop) s = .next t ∧ (p.aux.truncate 32) ∈ t.fabric.halts ∧
        (∀ h, h ∈ s1.fabric.halts → h ∈ t.fabric.halts) ∧ t.ctxs = s1.ctxs) ∧
    (∀ stop, ingress s p 7 = (s1, true) → (p.aux.truncate 32) ∈ s1.fabric.halts → exec (.halt p stop) s = .next (settleCmds (endResumes s1 []))) ∧
    (ingress s p 8 = (s1, true) → ∃ t, exec (.noticeDown p) s = .next t ∧ p.aux.toNat % 8 ∉ effSet t p.src.toNat ∧
      (∀ k, k ∈ effSet t p.src.toNat → k ∈ effSet s1 p.src.toNat)) ∧
    (ingress s p 8 = (s1, true) → ∃ t, exec (.noticeUp p) s = .next t ∧
      (tabGet (0 : BitVec 8) t.fabric.reported p.src.toNat).getLsbD (p.aux.toNat % 8) = false ∧
      ∀ d, d ≠ p.src.toNat → tabGet (0 : BitVec 8) t.fabric.reported d = tabGet 0 s1.fabric.reported d) ∧
    (∀ dst, (chunksTo s dst = true ∨ ∃ e ∈ s.fabric.sent, e.packet.dst = dst ∧ ∀ k ∈ effSet s dst.toNat, e.tried.getLsbD k = true) →
      dst ∉ s.fabric.unreachable → ∃ t, exec (.unreachableTimer dst) s = .next t ∧
      dst ∈ t.fabric.unreachable)) ∧
  (∀ (s : State) (p : Fin 8),
    exec (.frameCrcFail p) s = .next (count s (0x2C00 + p.val)) ∧
    (∀ lanes, (s.port p.val).st ≠ 2 → (s.port p.val).failed ||| lanes ≠ 15 → s.fabric.waiting = [] →
      exec (.laneFailure p lanes) s = .next (s.setPort p.val { s.port p.val with failed := (s.port p.val).failed ||| lanes, st := 1 })) ∧
    (∀ lanes, (s.port p.val).st ≠ 2 → (s.port p.val).failed ||| lanes = 15 →
      ∃ t, exec (.laneFailure p lanes) s = .next t ∧ (t.port p.val).st = 2 ∧ (t.port p.val).width = 0) ∧
    ((s.port p.val).st = 1 → ∃ t, exec (.portRetrainDone p) s = .next t ∧ (t.port p.val).st = 0 ∧
      (t.port p.val).width = widthOf (s.port p.val).failed) ∧
    ((s.port p.val).st ≠ 2 → ∃ t, exec (.portDown p) s = .next t ∧ (t.port p.val).st = 2 ∧ (t.port p.val).width = 0 ∧
      ∀ d, p.val ∉ effSet t d) ∧
    (∀ link, tabGet 0 s.fabric.flitFails (Fin.val (n := 10) link) = 7 → ∃ t, exec (.flitCrcFail link true) s = .next t ∧ t.cmd.module = 3) ∧
    (∀ link, tabGet 0 s.fabric.flitFails (Fin.val (n := 10) link) + 1 ≠ 8 → ∃ t, exec (.flitCrcFail link true) s = .next t ∧
      tabGet 0 t.fabric.flitFails link.val = tabGet 0 s.fabric.flitFails link.val + 1 ∧ t.cmd = s.cmd) ∧
    (∀ link, ∃ t, exec (.flitCrcFail link false) s = .next t ∧ tabGet 0 t.fabric.flitFails link.val = 0 ∧ t.cmd = s.cmd))

/-- R374, R376: an accepted SESSION message opens the session under its generation with fresh counters; rekeying keeps the
keys in use; the old generation expires once a packet under the new one was seen. -/
def Obligations.SessionsOpenRekeyAndExpire : Prop :=
  ∀ (s s1 : State) (p : PktHdr) (m : SessionMsg),
    (ingress s p 9 = (s1, true) → sessionOk s1 p m = true →
      (m.answer = true → (s1.sess p.src.toNat).st = 1 ∨ ((s1.sess p.src.toNat).st = 2 ∧ (s1.sess p.src.toNat).rekey = true)) →
      s1.fabric.waiting = [] → ∃ t, exec (.session p m) s = .next t ∧ (t.sess p.src.toNat).st = 2 ∧ (t.sess p.src.toNat).gen = m.gen ∧
        (t.sess p.src.toNat).seen = [] ∧ (t.sess p.src.toNat).high = 0 ∧ (t.sess p.src.toNat).timeOnly = m.timeOnly ∧ (t.sess p.src.toNat).sendCtr = 0 ∧
        (t.sess p.src.toNat).keyOut = Config.sessionKey (t.sess p.src.toNat).eph m.share true) ∧
    (ingress s p 9 = (s1, true) → sessionOk s1 p m = false → m.answer = false → ∃ t, exec (.session p m) s = .next t ∧
      (t.sess p.src.toNat).st ≠ 2 ∧ ∀ k ∈ t.fabric.waiting, k.seals t = true → k.dst ≠ p.src) ∧
    (∀ peer, (s.sess peer.toNat).st = 2 → (s.sess peer.toNat).rekey = false → ∃ t, exec (.sessionRekeyTimer peer) s = .next t ∧
      (t.sess peer.toNat).st = 2 ∧ (t.sess peer.toNat).gen = (s.sess peer.toNat).gen ∧ (t.sess peer.toNat).rekey = true) ∧
    (∀ peer, (s.sess peer.toNat).newSeen = true → exec (.oldKeyExpiry peer) s = .next (s.setSess peer.toNat
      { s.sess peer.toNat with oldOk := false, oldHigh := 0, oldSeen := [] })) ∧
    (∀ peer, (s.sess peer.toNat).newSeen = false → exec (.oldKeyExpiry peer) s = .next s)

/-! The host link (ch. 14). -/

/-- R343, R386, R391: with nothing waiting at the host port a doorbell sets the tail, below its ring's size, and a poke acts
at once on the object that SYNC_POKE_ADDR names, under the operation of its row; behind a held BAR2 write both wait.
R343: what a poke does to a host-visible live object that nothing waits on: ADD adds to a counter and SET replaces it,
PUT fills an empty full/empty word; an abandoned object keeps its value. -/
def Obligations.DoorbellsAndPokesActInOrder : Prop :=
  (∀ (s : State),
    (∀ m v, s.host.held = [] → exec (.mbxTailWrite m v) s = .next (s.setMbx m { s.mbx m with tail := v.toNat % 2 ^ (s.mbx m).log2 })) ∧
    (∀ v, s.host.held = [] → s.host.pokeOp = 0 → exec (.pokeAdd v) s = .next (settleEngines (poke s 0 s.host.pokeAddr.toNat v))) ∧
    (∀ v, s.host.held = [] → s.host.pokeOp = 1 → exec (.pokeSet v) s = .next (settleEngines (poke s 1 s.host.pokeAddr.toNat v))) ∧
    (∀ v, s.host.held = [] → s.host.pokeOp = 2 → exec (.pokePut v) s = .next (settleEngines (poke s 2 s.host.pokeAddr.toNat v))) ∧
    (∀ a l m v, s.host.held = [.access (.write a l)] → (Bar2Access.write a l).meet s = .held →
      (∀ g ∈ rangeGrains a l.length, (s.grain g).st ≠ 0) →
      exec (.mbxTailWrite m v) s = .next { s with host := { s.host with held := [.access (.write a l), .tail m v] } }) ∧
    (∀ o, pokeRead s = some o → exec .syncPokeValRead s = .next { s with out := { s.out with
      completions := s.out.completions ++ [.data (leBytes 8 o.toNat)] } }) ∧
    (pokeRead s = none → ∃ t v, exec .syncPokeValRead s = .next t ∧ t.out.completions = s.out.completions ++ [.data (leBytes 8 v)] ∧
      t.sync = s.sync)) ∧
  (∀ (s : State) (a : Nat) (v : Word64),
    let o := s.obj a
    o.waits = [] → o.takers = [] → (∀ n ∈ s.sync.notifs, n.obj ≠ a) → o.hostVisible = true →
    (o.st = 0 → o.kind = 0 → (poke s 0 a v).obj a = { o with value := (o.count + v.truncate 32).setWidth 64 }) ∧
    (o.st = 0 → o.kind = 0 → (poke s 1 a v).obj a = { o with value := (v.truncate 32 : Word32).setWidth 64 }) ∧
    (o.st = 0 → o.kind = 1 → o.full = false → (poke s 2 a v).obj a = { o with value := v, full := true }) ∧
    (o.st = 0 → o.kind = 1 → o.full = true → (poke s 2 a v).obj a = o) ∧
    (o.st = 2 → ∀ op, (poke s op a v).obj a = o))

/-- R390 to R393, R395: a mailbox enabled with 2^6 to 2^12 entries starts empty, with another size it stops with error 2; a
disabled one keeps its ring; a descriptor read advances the head and holds its command, refused at once where it breaks
R395; a failed read stops the mailbox with error 1 and leaves the head.
R392, R396 (Table 14.12): a completed command has its response body and header in host memory, where a buffer was given,
its status in MBX_STATUS, and frees its mailbox; a silenced one writes nothing. -/
def Obligations.MailboxesTakeAndAnswerCommands : Prop :=
  (∀ (s : State) (m : Fin 8),
    let x := s.mbx m
    (∀ n, x.enable = false → 6 ≤ n.toNat → n.toNat ≤ 12 → exec (.mbxEnable m n) s = .next (s.setMbx m { x with
      log2 := n.toNat, enable := true, head := 0, tail := 0, stopped := false, error := 0, status := 0 })) ∧
    (∀ n, x.enable = false → (n.toNat < 6 ∨ 12 < n.toNat) → ∃ t, exec (.mbxEnable m n) s = .next t ∧ (t.mbx m).enable = false ∧
      (t.mbx m).stopped = true ∧ (t.mbx m).error = 2) ∧
    (x.enable = true → exec (.mbxDisable m) s = .next (s.setMbx m { x with enable := false })) ∧
    (s.cmd.module ≠ 0 → x.enable = true → x.stopped = false → x.taken = none → x.head ≠ x.tail → activating s = false →
      (∃ t, exec (.descriptorReadDone m none) s = .next t ∧ (t.mbx m).stopped = true ∧ (t.mbx m).error = 1 ∧ (t.mbx m).head = x.head ∧
        (t.mbx m).taken = none) ∧
      (∀ d l, let k0 : Taken := { desc := d, args := [], order := s.host.takes }
        let k := { k0 with args := if k0.argAddr = 0 ∨ 1048576 < k0.argLen then [] else padTo k0.argLen 0 l }
        (badDescriptor k = false → ∃ t, exec (.descriptorReadDone m (some (d, l))) s = .next t ∧ (t.mbx m).taken = some k ∧
          (t.mbx m).head = (x.head + 1) % 2 ^ x.log2 ∧ (t.mbx m).index = x.head ∧ (t.mbx m).status = 1 ∧ t.host.takes = s.host.takes + 1 ∧
          t.hostMem = s.hostMem) ∧
        (badDescriptor k = true → ∃ t, exec (.descriptorReadDone m (some (d, l))) s = .next t ∧ (t.mbx m).taken = none ∧
          (t.mbx m).head = (x.head + 1) % 2 ^ x.log2 ∧ (t.mbx m).status = BitVec.ofNat 8 stBadArg)))) ∧
  (∀ (s : State) (m : Fin 8) (k : Taken) (st : Nat) (body : List Byte), (s.mbx m).taken = some k →
    let t := finish s m st body
    (k.silent = false → Answered t m st) ∧
    (k.silent = false → k.quiet = true → 16 + body.length ≤ k.respLen →
      t.hostRead k.respAddr 16 = respHeader k m.val (s.mbx m).index st body.length ∧
      t.hostRead (k.respAddr + 16) body.length = body ∧
      ∀ b, b < k.respAddr ∨ k.respAddr + 16 + body.length ≤ b → memGet t.hostMem b = memGet s.hostMem b) ∧
    (k.silent = true ∨ (k.respLen = 0 ∧ k.quiet = true) → t.hostMem = s.hostMem) ∧
    t.dev = s.dev ∧ t.sram = s.sram ∧ t.ctxs = s.ctxs ∧ ∀ j, j ≠ m → t.mbx j = s.mbx j)

/-- R398, R406: an event queue enabled with 2^6 to 2^16 records starts empty and armed; a disabled one raises nothing; the
moderation timer raises the vector once and disarms the queue. -/
def Obligations.EventQueuesEnableAndRaise : Prop :=
  ∀ (s : State) (q : Fin 4),
    let x := s.evq q.val
    (∀ c : BitVec 64, x.enable = false → 6 ≤ x.log2 → x.log2 ≤ 16 → ∃ t, exec (.evqEnable q c) s = .next t ∧
      t.evq q.val = { x with
        modTime := bits (c ||| (1#64 <<< 63)).toNat 59 44, modCount := bits (c ||| (1#64 <<< 63)).toNat 43 32
        vector := Fin.ofNat 16 (bits (c ||| (1#64 <<< 63)).toNat 7 4), irqMask := bitAt (c ||| (1#64 <<< 63)).toNat 0
        enable := true, prod := 0, cons := 0, lost := 0, seq := 0, lossFlag := false, dropped := 0, armed := true, timing := false } ∧
      ∀ j, j ≠ q.val → t.evq j = s.evq j) ∧
    (∀ c : BitVec 64, ∃ t, exec (.evqDisable q c) s = .next t ∧ (t.evq q.val).enable = false ∧ (t.evq q.val).prod = x.prod ∧
      (t.evq q.val).cons = x.cons ∧ t.out = s.out ∧ t.hostMem = s.hostMem) ∧
    (x.enable = true → x.armed = true → x.irqMask = false → x.timing = true → (s.msix x.vector).control.getLsbD 0 = false →
      ∃ t, exec (.moderationTimer q) s = .next t ∧ (t.evq q.val).armed = false ∧ (t.evq q.val).timing = false ∧
        t.out.irqs = s.out.irqs ++ [⟨x.vector, (s.msix x.vector).addr, (s.msix x.vector).data⟩] ∧ t.hostMem = s.hostMem) ∧
    (x.timing = false → exec (.moderationTimer q) s = .next s)

/-- R400: a consumer index is taken exactly when it lies between the old one and the producer index, modulo 2^32; any other
value is ignored and sets HOST_ERROR.bad_access. -/
def Obligations.ConsumerIndexIsTakenOrRefused : Prop :=
  ∀ (s : State) (q : Fin 4) (v : BitVec 32),
    let x := s.evq q.val
    ((v - x.cons).toNat ≤ (x.prod - x.cons).toNat → ∃ t, exec (.evqConsWrite q v) s = .next t ∧ (t.evq q.val).cons = v ∧
      (t.evq q.val).prod = x.prod ∧ (t.evq q.val).seq = x.seq ∧ (t.evq q.val).lost = x.lost ∧ (t.evq q.val).enable = x.enable ∧
      (∀ j, j ≠ q.val → t.evq j = s.evq j) ∧ t.hostMem = s.hostMem ∧ t.host.error = s.host.error ∧ t.dev = s.dev ∧ t.sram = s.sram) ∧
    ((x.prod - x.cons).toNat < (v - x.cons).toNat → ∃ t, exec (.evqConsWrite q v) s = .next t ∧ (t.evq q.val).cons = x.cons ∧
      (∀ j, (t.evq j).cons = (s.evq j).cons) ∧ t.host.error = s.host.error ||| 1#6 ∧ t.dev = s.dev ∧ t.sram = s.sram)

/-- R399, R402, R403: an event handed to an enabled queue with room for its records is written into the next slots under the
queue's next sequence number; in a full queue it is lost, the loss is counted, and no record is written.
R399, R403, R404 (Table 14.18): the fields of an event record: its phase in the top bit, type 0x0FFF in every record but
the first, the status, severity and scope, and the bit that says that another record follows. -/
def Obligations.EventRecordsAreWrittenOrLost : Prop :=
  (∀ (s : State) (i : Nat) (e : Ev),
    let q := s.evq i
    q.enable = true → q.lossFlag = false →
    (e.records ≤ 2 ^ q.log2 - q.waiting → ((emitTo s i e).evq i).prod = q.prod + BitVec.ofNat 32 e.records ∧
      ((emitTo s i e).evq i).seq = q.seq + 1 ∧ ((emitTo s i e).evq i).lost = q.lost) ∧
    (2 ^ q.log2 - q.waiting < e.records → ((emitTo s i e).evq i).prod = q.prod ∧ ((emitTo s i e).evq i).lossFlag = true ∧
      ((emitTo s i e).evq i).seq = q.seq + 1 ∧ (emitTo s i e).hostMem = s.hostMem) ∧
    Reported s (emitTo s i e)) ∧
  (∀ (e : Ev) (j phase seq time : Nat), phase < 2 → e.type < 2 ^ 16 → e.status < 2 ^ 8 → e.severity < 8 → e.scope < 8 →
    seq < 2 ^ 32 → time < 2 ^ 64 →
    let w := e.record j phase seq time
    bits w 511 511 = phase ∧ bits w 503 488 = (if j = 0 then e.type else 0x0FFF) ∧ bits w 487 480 = e.status ∧
      bits w 479 477 = e.severity ∧ bits w 476 474 = e.scope ∧ bits w 473 473 = (if j + 1 < e.records then 1 else 0) ∧
      bits w 447 416 = seq ∧ bits w 415 352 = time ∧ w < 2 ^ 512)

/-- R384, R385 (Table 14.2): a BAR2 access by the first row that applies: data or the write where every grain serves it;
otherwise the host's answer and its HOST_ERROR bit, with memory unchanged; a held one waits, and aborts after 1 ms. -/
def Obligations.Bar2AccessesFollowTheirTable : Prop :=
  ∀ (s : State) (off : Nat),
    let a := s.host.bar2Base.toNat + off
    (∀ n, s.idle.module = false → bar2Meet s a n false = .served → ∃ t, exec (.bar2Read off n) s = .next t ∧
      t.out.completions = s.out.completions ++ [.data (s.devRead a n)] ∧ t.dev = s.dev ∧ t.host = s.host) ∧
    (∀ n, bar2Meet s a n false = .untrusted → ∃ t, exec (.bar2Read off n) s = .next t ∧
      t.out.completions = s.out.completions ++ [.unsupported] ∧ t.host.error.getLsbD 1 = true ∧ t.dev = s.dev) ∧
    (∀ n, s.idle.module = false → bar2Meet s a n false = .refused → ∃ t, exec (.bar2Read off n) s = .next t ∧
      t.out.completions = s.out.completions ++ [.abort] ∧ t.host.error.getLsbD 2 = true ∧ t.dev = s.dev) ∧
    (∀ n, s.idle.module = false → bar2Meet s a n false = .poisoned → ∃ t, exec (.bar2Read off n) s = .next t ∧
      t.out.completions = s.out.completions ++ [.poisoned] ∧ t.host.error.getLsbD 3 = true ∧ t.dev = s.dev) ∧
    (∀ n, s.idle.module = false → bar2Meet s a n false = .held → ∃ t, exec (.bar2Read off n) s = .next t ∧
      t.out.completions = s.out.completions ∧ t.host.held = s.host.held ++ [.access (.read a n)] ∧ t.dev = s.dev) ∧
    (∀ l, s.idle.module = false → l.length ≠ 0 → grainOf a = grainOf (a + l.length - 1) → bar2Meet s a l.length true = .served →
      (s.grain (grainOf a)).releasing = false →
      ∃ t, exec (.bar2Write off l) s = .next t ∧ t.dev = memWrite s.dev a l ∧ t.out.completions = s.out.completions ∧
        t.host.held = s.host.held ∧ t.host.error = s.host.error) ∧
    (∀ l, s.idle.module = false → bar2Meet s a l.length true = .refused → ∃ t, exec (.bar2Write off l) s = .next t ∧
      t.dev = s.dev ∧ t.host.error.getLsbD 2 = true ∧ t.out.completions = s.out.completions) ∧
    (∀ b n, s.host.held = [.access (.read b n)] → ∃ t, exec (.bar2HoldTimeout 0) s = .next t ∧ t.host.held = [] ∧
      t.out.completions = s.out.completions ++ [.abort] ∧ t.host.error.getLsbD 4 = true ∧ t.dev = s.dev)

/-- R6, R162, R384, R388, R437: register writes.  A BAR2 base is taken where it is aligned to the window's size within the
device range; a frozen register ignores its write and sends the function to ERROR; HOST_ERROR bits are cleared by writing 1; an
access of another size is counted as bad; STQ_STATUS flags clear by 1, and enable 0 aborts the queue. -/
def Obligations.RegisterWritesFollowTheirAccess : Prop :=
  ∀ (s : State),
    (∀ v : BitVec 64, s.prot.tdisp = .unlocked → v.toNat % 2 ^ 48 % 2 ^ s.host.bar2Log2 = 0 →
      v.toNat % 2 ^ 48 + 2 ^ s.host.bar2Log2 ≤ 0x100000000000 →
      exec (.hostBar2BaseWrite v) s = .next { s with host := { s.host with bar2Base := BitVec.ofNat 48 (v.toNat % 2 ^ 48) } }) ∧
    (∀ (r : FrozenReg) v, s.prot.tdisp = .locked ∨ s.prot.tdisp = .run → ∃ t, exec (.frozenRegisterWrite r v) s = .next t ∧
      t.prot.tdisp = .error ∧ t.prot.keyed = false ∧ t.host.bar2Base = s.host.bar2Base ∧ t.host.bar2Domain = s.host.bar2Domain ∧
      t.host.aperture = s.host.aperture ∧ t.host.bar2Log2 = s.host.bar2Log2 ∧
      ∀ k, (t.msix k).addr = (s.msix k).addr ∧ (t.msix k).data = (s.msix k).data ∧ (t.msix k).control = (s.msix k).control) ∧
    (∀ n : Fin 6, s.prot.tdisp = .unlocked → exec (.resizableBarWrite n) s = .next { s with host := { s.host with
      bar2Log2 := 36 + n.val
      bar2Base := if s.host.bar2Base.toNat % 2 ^ (36 + n.val) = 0 then s.host.bar2Base else 0 } }) ∧
    (∀ v, exec (.registerWrite (.bar0 0x58 8 v)) s = .next { s with host := { s.host with error := s.host.error &&& ~~~(v.truncate 6) } }) ∧
    (∀ off size v, ¬ (size = 8 ∧ off % 8 = 0) → ¬ (size = 4 ∧ off % 4 = 0) → ∃ t, exec (.registerWrite (.bar0 off size v)) s = .next t ∧
      t.host.error.getLsbD 0 = true ∧ t.dev = s.dev ∧ t.sync = s.sync) ∧
    (∀ q v, ∃ t, exec (.registerWrite (.stq q 8 v)) s = .next t ∧
      t.queue q = { s.queue q with
        rearmRefused := (s.queue q).rearmRefused && !v.getLsbD 19, deadlineMissed := (s.queue q).deadlineMissed && !v.getLsbD 18 } ∧
      ∀ p, p ≠ q → t.queue p = s.queue p) ∧
    (∀ q v, v.getLsbD 0 = false → ∃ t, exec (.registerWrite (.stq q 0 v)) s = .next t ∧ (t.queue q).enable = false ∧
      (t.queue q).active = none ∧ (t.queue q).shadow = none ∧ (t.queue q).limit = (v >>> 48).truncate 16) ∧
    (∀ rate width : BitVec 8, ∃ t, exec (.hostLinkRetrain rate width) s = .next t ∧ t.host.linkRate = rate ∧ t.host.linkWidth = width ∧
      t.dev = s.dev ∧ (rate = s.host.trainedRate → width = s.host.trainedWidth → t.hostMem = s.hostMem))

/-! Memory tiers (ch. 7). -/

/-- R190, R195, R197 to R200, R205, R206: backing gives a grain a near frame, or a far one where no near frame is obtainable;
the next pending promotion starts and ends NEAR_CLEAN; the scan begins below 131,072 free frames, ends at 262,144 and evicts no
grain that is pinned, pending or not NEAR or NEAR_CLEAN, nor one for which a request comes late; an eviction ends FAR with its
near frame free; a window's moves spare cacheable and KV grains; a page within the horizon is kept and made pending.  After a
copy ends, what was held is served (`serveHeld`), which does nothing where nothing is held. -/
def Obligations.TierEventsMoveGrains : Prop :=
  ∀ (s : State),
    (NothingHeld s → serveHeld s = s) ∧
    (∀ g : BitVec 28, (s.grain g.toNat).st = 1 →
      (∀ k f, nearAlloc s g.toNat = some (k, f) → exec (.backingComplete g) s = .next (serveHeld ((takeNear s (k, f)).setGrain g.toNat
        { s.grain g.toNat with st := 2, stack := Fin.ofNat 32 k, nearFrame := BitVec.ofNat 20 f }))) ∧
      (∀ w, nearAlloc s g.toNat = none → victims s = [] → giveFar s g.toNat = (w, true) →
        exec (.backingComplete g) s = .next (serveHeld (w.setGrain g.toNat { w.grain g.toNat with st := 4 }))) ∧
      (nearAlloc s g.toNat = none → victims s ≠ [] → exec (.backingComplete g) s = .next (serveHeld s))) ∧
    (let s1 := dropMet s
      ∀ p, nextPend s1 = some p →
        (∀ k f, inKvArena p.grain = false → (s1.grain p.grain).pending = true →
          0 < nearFreeAll s1 → nearAlloc s1 p.grain = some (k, f) → ∃ t, exec .promotionStart s = .next t ∧
          t.grain p.grain = { s.grain p.grain with st := 5, pending := false, target := some (Fin.ofNat 32 k, BitVec.ofNat 20 f) } ∧
          (∀ q ∈ t.tiers.pend, q.grain ≠ p.grain) ∧ (∀ h, h ≠ p.grain → t.grain h = s1.grain h) ∧ t.dev = s.dev) ∧
        (let l := (grainGroup s1 p.grain).filter (fun h => decide ((s1.grain h).st = 4) && (s1.grain h).pending)
         exec .promotionStart s = .next (if l.length ≤ nearFreeAll s1 then l.foldl promoteOne s1 else s1))) ∧
    (∀ (g : BitVec 28) k f, (s.grain g.toNat).st = 5 → (s.grain g.toNat).target = some (k, f) → (s.grain g.toNat).releasing = false →
      exec (.promotionComplete g) s = .next (serveHeld (s.setGrain g.toNat { s.grain g.toNat with st := 3, stack := k, nearFrame := f, target := none }))) ∧
    (∀ late, let on := decide (nearFreeAll s < 131072) || (s.tiers.evicting && decide (nearFreeAll s < 262144))
      ∃ t, exec (.evictionScan late) s = .next t ∧ t.tiers.evicting = on ∧ t.dev = s.dev ∧
        (on = false → t.tiers.dir = s.tiers.dir) ∧ (∀ g ∈ late, (t.grain g.toNat).st = (s.grain g.toNat).st) ∧
        ∀ g, ((s.grain g).pins ≠ 0 ∨ (s.grain g).pending = true ∨ ((s.grain g).st ≠ 2 ∧ (s.grain g).st ≠ 3)) → t.grain g = s.grain g) ∧
    (∀ (g : BitVec 28) w, (s.grain g.toNat).st = 6 → (s.grain g.toNat).releasing = false →
      (giveFarAll s g.toNat = (w, true) → ∃ t, exec (.evictionComplete g) s = .next t ∧
        t.grain g.toNat = { w.grain g.toNat with st := 4 } ∧ t.dev = s.dev ∧
        tabGet false t.tiers.nearUsed ((s.grain g.toNat).stack.val * nearLast + (s.grain g.toNat).nearFrame.toNat) = false) ∧
      ((s.grain g.toNat).farHeld = true → (s.grain g.toNat).mirrored = false → giveFarAll s g.toNat = (s, true)) ∧
      (giveFarAll s g.toNat = (w, false) → exec (.evictionComplete g) s = .next s)) ∧
    (∃ t, exec .moveWindow s = .next t ∧ t.tiers.seen = [] ∧ t.dev = s.dev ∧
      ∀ g, t.grain g = s.grain g ∨ ((s.grain g).cacheable = false ∧ inKvArena g = false ∧ ((s.grain g).st = 2 ∨ (s.grain g).st = 3) ∧
        (t.grain g).st = 7 ∧ (t.grain g).before = (s.grain g).st ∧ 4 ≤ tabGet 0 t.tiers.lead g / 8)) ∧
    (∀ (g : BitVec 28) k f, (s.grain g.toNat).st = 7 → (s.grain g.toNat).target = some (k, f) → (s.grain g.toNat).releasing = false →
      ∃ t, exec (.moveComplete g) s = .next (serveHeld t) ∧
        t.grain g.toNat = { s.grain g.toNat with st := (s.grain g.toNat).before, stack := k, nearFrame := f, target := none, retire := false } ∧
        (∀ h, h ≠ g.toNat → t.grain h = s.grain h) ∧ t.dev = s.dev) ∧
    (∀ (h : BitVec 17) (layer : BitVec 8) page,
      let e := s.seq h.toNat
      let l := layer.toNat - e.layerFirst.toNat
      let list := leNat (s.hubRead (e.versionAddr.toNat + 64 + 8 * l) 6)
      let entry := leNat (s.hubRead (list + 8 * page) 8)
      let p := pageOf (grainOf (bits entry 47 0))
      e.st = 1 → e.layerFirst ≤ layer → l < e.layerCount.toNat → page < cdiv (e.length - e.base) 128 → bitAt entry 63 = true →
      ∃ t, exec (.prefetchHorizonReached h layer page) s = .next t ∧ (p, s.time.now.toNat + s.tiers.horizonNs) ∈ t.tiers.near ∧
        HoldsBytes s s.dev t ∧ ∀ g ∈ grainGroup s (pageGrain p), g ∈ grainGroup s g → (s.grain g).st = 4 → (t.grain g).pending = true)

/-- R208 to R211, R481, R483, R485, R486: a near sector that reads clean changes nothing, one whose error is corrected is
written back and counted; an uncorrectable error of a near copy makes the grain RESTORING where a far copy or a declared source
is left, POISONED otherwise; a lost far copy of a NEAR or NEAR_CLEAN grain holds nothing; a rebuilt grain has the rebuilt
bytes, a failed or late rebuild poisons it; four CRC retries are only counted; a stack or a CXL port that goes out of service
takes exactly the frames on it.  What was held is then served (`serveHeld`). -/
def Obligations.ErrorsRebuildOrPoisonGrains : Prop :=
  ∀ (s : State),
    (∀ (g : BitVec 28) (e : CopyError), let x := s.grain g.toNat
      (hasCopy x e.copy = false → exec (.uncorrectableError g e) s = .next (serveHeld s)) ∧
      (e.copy = 0 → hasCopy x 0 = true → readSector s g.toNat e = .clean → exec (.uncorrectableError g e) s = .next (serveHeld s)) ∧
      (∀ pos data, e.copy = 0 → hasCopy x 0 = true → readSector s g.toNat e = .corrected pos data →
        exec (.uncorrectableError g e) s = .next (serveHeld (reportCorrections (s.devPoke (sectorAddr g.toNat e) data)
          x.stack.val 1 (channelOf (64 * e.sector.val)) pos))) ∧
      (e.copy = 0 → readSector s g.toNat e = .uncorrectable → x.releasing = false →
        (x.st = 2 → sourceMeans s x = 0 → ∃ t, exec (.uncorrectableError g e) s = .next (serveHeld t) ∧ (t.grain g.toNat).st = 9 ∧
          (t.grain g.toNat).domain = x.domain ∧ t.dev = s.dev) ∧
        (x.st = 2 → sourceMeans s x ≠ 0 → ∃ t, exec (.uncorrectableError g e) s = .next (serveHeld t) ∧ (t.grain g.toNat).st = 8 ∧
          (t.grain g.toNat).means = sourceMeans s x ∧ t.dev = s.dev) ∧
        (x.st = 3 → farMeans s x ≠ 0 → ∃ t, exec (.uncorrectableError g e) s = .next (serveHeld t) ∧ (t.grain g.toNat).st = 8 ∧
          (t.grain g.toNat).means = farMeans s x ∧ t.dev = s.dev)) ∧
      (e.copy = 1 → (x.st = 2 ∨ x.st = 3) → x.mirrored = false → x.farHeld = true →
        ∃ t, exec (.uncorrectableError g e) s = .next (serveHeld t) ∧ (t.grain g.toNat).st = 2 ∧ t.dev = s.dev)) ∧
    (∀ (g : BitVec 28) (r : RestoreResult), let x := s.grain g.toNat
      x.st = 8 → x.releasing = false →
      (r.ok = false → ∃ t, exec (.restoreComplete g r) s = .next (serveHeld t) ∧ (t.grain g.toNat).st = 9 ∧ t.dev = s.dev) ∧
      (∀ l, r.ok = true → rebuiltBytes s g.toNat x = some l → x.farHeld = true → x.mirrored = false →
        (x.before = 4 → ∃ t, exec (.restoreComplete g r) s = .next (serveHeld t) ∧ t.grain g.toNat = { x with st := 4, means := 0 } ∧
          t.devRead (g.toNat * 65536) 65536 = l) ∧
        (∀ k f, x.before = 3 → x.target = some (k, f) → ∃ t, exec (.restoreComplete g r) s = .next (serveHeld t) ∧
          t.grain g.toNat = { x with st := 3, stack := k, nearFrame := f, target := none, means := 0 } ∧
          t.devRead (g.toNat * 65536) 65536 = l)) ∧
      (∃ t, exec (.restoreTimeout g) s = .next (serveHeld t) ∧ (t.grain g.toNat).st = 9 ∧ t.dev = s.dev)) ∧
    (∀ stack channel g write (n : Fin 6), n.val ≤ 4 →
      exec (.channelCrcFail stack channel g write n) s = .next (serveHeld (countN s (0x3200 + stack.val) n.val))) ∧
    (∀ stack channel (g : BitVec 28) write, (s.grain g.toNat).st = 2 → (s.grain g.toNat).stack.val = Fin.val (n := 24) stack →
      sourceMeans s (s.grain g.toNat) = 0 → (s.grain g.toNat).releasing = false →
      ∃ t, exec (.channelCrcFail stack channel g write 5) s = .next (serveHeld t) ∧ (t.grain g.toNat).st = 9 ∧
        t.tiers.hub = s.tiers.hub ++ write.toList.map (fun w => { addr := g.toNat * 65536 + 64 * w.1.val, bytes := w.2 })) ∧
    (∀ stack : Fin 24, stackUp s stack.val = true → tabWf {} s.tiers.dir = true → ∃ t, exec (.stackUnresponsive stack) s = .next (serveHeld t) ∧
      stackUp t stack.val = false ∧ (∀ a, (s.grain (a / 65536)).releasing = false → memGet t.dev a = memGet s.dev a) ∧
      ∀ g, (hasCopy (s.grain g) 0 = true → (s.grain g).stack.val = stack.val → (s.grain g).releasing = false →
          (t.grain g).st = 8 ∨ (t.grain g).st = 9) ∧
        (hasCopy (s.grain g) 0 = true → (s.grain g).stack.val = stack.val → (s.grain g).releasing = true → t.grain g = {}) ∧
        (hasCopy (s.grain g) 0 = false ∨ (s.grain g).stack.val ≠ stack.val → t.grain g = s.grain g)) ∧
    (∀ (port : Fin 2) (g : BitVec 28), (s.cxl port.val).inService = true →
      ((s.cxl port.val).timeouts = 0 → (s.grain g.toNat).st ≠ 4 → (s.grain g.toNat).st ≠ 5 → exec (.cxlRequestTimeout port g) s =
        .next (serveHeld ((count s (0x3400 + port.val)).setCxl port.val { s.cxl port.val with timeouts := 1 }))) ∧
      (1 ≤ (s.cxl port.val).timeouts → ∃ t, exec (.cxlRequestTimeout port g) s = .next (serveHeld t) ∧ (t.cxl port.val).inService = false)) ∧
    (∀ port : Fin 2, (s.cxl port.val).inService = true → tabWf {} s.tiers.dir = true → ∃ t, exec (.cxlLinkDown port) s = .next (serveHeld t) ∧
      (t.cxl port.val).inService = false ∧ (∀ a, (s.grain (a / 65536)).releasing = false → memGet t.dev a = memGet s.dev a) ∧
      ∀ g, let x := s.grain g
        (x.farHeld = true → x.mirrorHeld = true → x.st ≠ 8 → x.st ≠ 9 → t.grain g = loseFar x (x.farPort == port)) ∧
        (x.farHeld = true → x.mirrorHeld = false → x.farPort = port → x.st = 3 → (t.grain g).st = 2 ∧ (t.grain g).farHeld = false) ∧
        (x.farHeld = true → x.mirrorHeld = false → x.farPort = port → x.st = 4 → x.releasing = false →
          (t.grain g).st = (if sourceMeans s x = 0 then 9 else 8)) ∧
        (x.farHeld = false → x.mirrorHeld = false → t.grain g = s.grain g))

/-! Mailbox commands (ch. 15, 16). -/

/-- R407 to R409, R422 (Table 15.1): a mailbox command that must wait for an earlier one leaves everything as it is; one that
need not wait completes with ST_CONFLICT, and changes no memory, no tile and no table, where the module's state or its binding
excludes it. -/
def Obligations.CommandsWaitOrAreRefusedByTheirRow : Prop :=
  ∀ (s : State) (i : Instr) (m : Fin 8) (op : Nat) (mine : Taken → Bool) (k : Taken),
    mailboxRow i = some (m, op, mine) → (s.mbx m).taken = some k → k.op = op → mine k = true → k.working = false → k.waits = [] →
    (cmdWaits s m k = true → exec i s = .next s) ∧
    (cmdWaits s m k = false → gateOk s k = false → k.silent = false → ∃ t, exec i s = .next t ∧ Answered t m stConflict ∧
      t.dev = s.dev ∧ t.sram = s.sram ∧ t.ctxs = s.ctxs ∧ t.slots = s.slots ∧ t.seqs = s.seqs ∧ t.rings = s.rings ∧ t.cmd = s.cmd ∧
      t.sync = s.sync ∧ t.tiers = s.tiers)

/-- R131, R133, R363, R413, R416 to R418: a loaded image takes a free slot under the next generation and an unloaded one leaves
nothing of its objects; a launch gives its contexts to the slot; a stop unbinds it; PREEMPT makes running contexts drain and
waiting ones cancel, RESUME restores HALTED ones; a halt number is remembered, and a stop leaves no launch. -/
def Obligations.LaunchCommandsTakeEffect : Prop :=
  ∀ (s : State) (m : Fin 8) (k : Taken),
    (∀ w l i, Runs s m 0x0201 k → k.arg 47 0 % 256 = 0 → k.arg 95 64 ≠ 0 → domainOpen s (BitVec.ofNat 10 (k.arg 105 96)) = true →
      readImage (k.arg 105 96) (k.arg 95 64 / 65536 + 2) s (k.arg 47 0) (k.arg 95 64) = (w, .inl l) → loadRefusal s l = none →
      allSlots.find? (fun i => !(s.slot i).loaded) = some i →
      ∃ t, exec (.schedLoad m) s = .next t ∧ Answered t m stOk ∧ t.slot i = { loaded := true, generation := (s.slot i).generation + 1, image := leNat l, length := l.length, domain := BitVec.ofNat 10 (k.arg 105 96) } ∧
        ∀ j, j ≠ i → t.slot j = s.slot j) ∧
    (∀ n, Runs s m 0x0202 k → handleSlot s (k.arg 15 0) = some n → s.launch n = none →
      ∃ t, exec (.schedUnload m) s = .next t ∧ Answered t m stOk ∧ t.slot n = { generation := (s.slot n).generation } ∧
        (∀ j, j ≠ n → t.slot j = s.slot j) ∧ ∀ a, inHomes a = true → homeSlot a = n.val → t.obj a = {}) ∧
    (∀ n, Runs s m 0x0203 k → bits (k.ext % 2 ^ 128) 31 26 = 0 → bits (k.ext % 2 ^ 128) 63 56 = 0 → bits (k.ext % 2 ^ 128) 127 96 = 0 →
      bits (k.ext % 2 ^ 128) 95 64 ≤ 1000000 → domainOpen s (BitVec.ofNat 10 (bits (k.ext % 2 ^ 128) 25 16)) = true →
      handleSlot s (bits (k.ext % 2 ^ 128) 15 0) = some n → overPlan (s.slot n).image (launchX k) = none →
      needsFailed s (s.slot n).image = false → launchBusy s n (s.slot n).image = false → badGroups s (s.slot n).image = false →
      ∃ t l, exec (.schedLaunch m) s = .next t ∧ Answered t m stOk ∧ t.launch n = some l ∧ l.number = s.launchNo + 1 ∧
        t.launchNo = s.launchNo + 1 ∧ l.halted = false ∧ l.domain.toNat = bits (k.ext % 2 ^ 128) 25 16 ∧ t.sram = s.sram ∧
        ∀ e ∈ ctxEntries (s.slot n).image, (t.ctx (Fin.ofNat 192 e.tile) (Fin.ofNat 4 e.ctx)).slot = some n ∧
          (t.ctx (Fin.ofNat 192 e.tile) (Fin.ofNat 4 e.ctx)).sregs = []) ∧
    (∀ n l, Runs s m 0x0204 k → handleSlot s (k.arg 15 0) = some n → s.launch n = some l →
      ∃ t, exec (.schedStop m) s = .next t ∧ Answered t m stOk ∧ t.launch n = none ∧
        ∀ u c, (s.ctx u c).slot = some n → (t.ctx u c).slot = none) ∧
    (∀ n l, Runs s m 0x0205 k → handleSlot s (k.arg 15 0) = some n → s.launch n = some l → l.halted = false →
      ∃ t, exec (.schedPreempt m) s = .next t ∧ t.sram = s.sram ∧ ∀ u c, (s.ctx u c).slot = some n → (s.ctx u c).pre = .none →
        ((s.ctx u c).st = .running ∨ (s.ctx u c).st = .ready → AtWork t m k [n] ∧ t.ctx u c = { s.ctx u c with pre := .drain }) ∧
        ((s.ctx u c).st = .spinning ∨ (s.ctx u c).st = .parked → AtWork t m k [n] ∧ t.ctx u c = { s.ctx u c with pre := .cancel })) ∧
    (∀ n l, Runs s m 0x0206 k → handleSlot s (k.arg 15 0) = some n → s.launch n = some l → l.halted = true → l.phase = 0 →
      ∃ t, exec (.schedResume m) s = .next t ∧ t.sram = s.sram ∧ ∀ u c, (s.ctx u c).slot = some n → (s.ctx u c).st = .halted →
        AtWork t m k [n] ∧ t.ctx u c = { s.ctx u c with pre := .restore }) ∧
    (Runs s m 0x0102 k → bitAt k.num 32 = false → ∃ t, exec (.sliceHaltPause m) s = .next t ∧
      BitVec.ofNat 32 (k.arg 31 0) ∈ t.fabric.halts ∧ ((∀ n, s.launch n = none) → Answered t m stOk)) ∧
    (Runs s m 0x0102 k → bitAt k.num 32 = true → ∃ t, exec (.sliceHaltStop m) s = .next t ∧ Answered t m stOk ∧
      BitVec.ofNat 32 (k.arg 31 0) ∈ t.fabric.halts ∧ (BitVec.ofNat 32 (k.arg 31 0) ∉ s.fabric.halts → ∀ n, t.launch n = none))

/-- R255 to R259 (Table 9.6): the sequence commands: a created sequence is OPEN, empty and in version 1; a fork stands with the
length asked for and waits for its publication; a truncated one has the shorter length in the next version; a freed one is
RETIRING from this epoch on.
R274, R275, R301 (Tables 10.2, 11.2): the ring and group commands: FORM fills a free entry of the ring table and DISSOLVE
empties it; BIND binds a sequence with its three visitors and UNBIND frees the binding; SET and CLEAR write a group. -/
def Obligations.SequenceRingAndGroupCommandsTakeEffect : Prop :=
  (∀ (s : State) (m : Fin 8) (k : Taken),
    (∀ h w, Runs s m 0x0301 k → badSeq k = false → domainOpen s (BitVec.ofNat 10 (k.arg 113 104)) = true → freeHandle s = some h →
      createSeq s h (newSeq k) = some w → ∃ t, exec (.seqCreate m) s = .next t ∧ Answered t m stOk ∧ (t.seq h).st = 1 ∧
        (t.seq h).base = k.arg 31 0 ∧ (t.seq h).length = k.arg 31 0 ∧ (t.seq h).capacity = k.arg 63 32 ∧ (t.seq h).version = 1 ∧
        (t.seq h).domain = BitVec.ofNat 10 (k.arg 113 104) ∧ ∀ j, j ≠ h → t.seq j = s.seq j) ∧
    (let h := k.arg 16 0
      let e := s.seq h
      e.st = 1 → isVisitor s h = false → k.arg 41 32 = e.domain.toNat →
      (∀ n w, Runs s m 0x0302 k → e.base ≤ k.arg 95 64 → k.arg 95 64 ≤ e.length → h ≠ n →
        k.arg 95 64 - e.base ≤ (if k.arg 127 96 = 0 then e.capacity else k.arg 127 96) → freeHandle s = some n →
        startFork s m h n (k.arg 95 64) (if k.arg 127 96 = 0 then e.capacity else k.arg 127 96) = some w →
        ∃ t, exec (.seqFork m) s = .next t ∧ AtWork t m k [] ∧ t.seqs.forks = s.seqs.forks ++ [⟨m, h, n⟩] ∧ (t.seq n).st = 1 ∧
          (t.seq n).base = e.base ∧ (t.seq n).length = k.arg 95 64 ∧ t.seq h = e) ∧
      (∀ w, Runs s m 0x0303 k → e.base ≤ k.arg 95 64 → k.arg 95 64 ≤ e.length → truncSeq s h (k.arg 95 64) = some w →
        ∃ t, exec (.seqTruncate m) s = .next t ∧ Answered t m stOk ∧ (t.seq h).length = k.arg 95 64 ∧ (t.seq h).base = e.base ∧
          (t.seq h).version = e.version + 1) ∧
      (Runs s m 0x0304 k → ∃ t, exec (.seqFree m) s = .next t ∧ Answered t m stOk ∧ (t.seq h).st = 2 ∧
        (t.seq h).freedEpoch = s.seqs.epoch))) ∧
  (∀ (s : State) (m : Fin 8) (k : Taken), s.cmd.bound = true →
    let id := k.arg 19 8
    let rid := BitVec.ofNat 12 id
    (∀ i, Runs s m 0x0305 k → k.arg 7 0 = 0 → id ≠ 0xFFF → 1 ≤ ringN k → ringN k ≤ 256 → badMembers s (memberArgs k (ringN k)) = false →
      1 ≤ k.arg 63 32 → k.arg 63 32 ≤ 2 ^ 31 → (k.arg 95 64 = 0 ∨ (1000 ≤ k.arg 95 64 ∧ k.arg 95 64 ≤ 60000000)) → ringIx s rid = none →
      (memberArgs k (ringN k)).all (hasRoute s) = true → pipelineClash s (ringN k) = false → firstUnused 0 64 s.rings.table = some i →
      ∃ t, exec (.ringForm m) s = .next t ∧ Answered t m stOk ∧ (t.ring i).st = 1 ∧ (t.ring i).id = rid ∧
        (t.ring i).members = (memberArgs k (ringN k)).map (BitVec.ofNat 12) ∧ (t.ring i).maxShard = k.arg 63 32 ∧
        (t.ring i).breakUs = (if k.arg 95 64 = 0 then 1000000 else k.arg 95 64) ∧
        (t.ring i).check = checkValue id (memberArgs k (ringN k)) ∧ ∀ j, j ≠ i → t.ring j = s.ring j) ∧
    (∀ i, Runs s m 0x0305 k → k.arg 7 0 = 1 → ringIx s rid = some i → ringBound s rid = 0 →
      ∃ t, exec (.ringDissolve m) s = .next t ∧ Answered t m stOk ∧ t.ring i = {} ∧ ∀ j, j ≠ i → t.ring j = s.ring j) ∧
    (∀ r b w, Runs s m 0x0305 k → k.arg 7 0 = 2 → ringOf s rid = some r → (s.seq (k.arg 112 96)).st = 1 → isVisitor s (k.arg 112 96) = false →
      k.arg 137 128 = (s.seq (k.arg 112 96)).domain.toNat → bindOfSeq s (k.arg 112 96) = none →
      bindOfTag s rid (BitVec.ofNat 16 (k.arg 159 144)) = none → r.st ≠ 2 → firstUnused 0 16384 s.rings.binds = some b →
      3 ≤ freeHandles s → 3 * cdiv r.maxShard 128 * (s.seq (k.arg 112 96)).layerCount.toNat ≤ slotsFree s →
      makeBinding s rid (BitVec.ofNat 16 (k.arg 159 144)) (k.arg 112 96) b (cdiv r.maxShard 128) = some w →
      ∃ t, exec (.ringBind m) s = .next t ∧ Answered t m stOk ∧ (t.bind b).used = true ∧ (t.bind b).ring = rid ∧
        (t.bind b).handle = k.arg 112 96 ∧ (t.bind b).tag = BitVec.ofNat 16 (k.arg 159 144) ∧ (t.bind b).pass = none ∧
        ∀ j, j ≠ b → t.bind j = s.bind j) ∧
    (∀ r b, Runs s m 0x0305 k → k.arg 7 0 = 3 → ringOf s rid = some r → bindOfSeq s (k.arg 112 96) = some b → (s.bind b).ring = rid →
      (s.bind b).pass = none → ∃ t, exec (.ringUnbind m) s = .next t ∧ Answered t m stOk ∧ t.bind b = {} ∧
        ∀ j, j ≠ b → t.bind j = s.bind j) ∧
    (Runs s m 0x0306 k → k.arg 7 0 = 0 → 1 ≤ groupN k → groupN k ≤ 4096 → badMembers s (memberArgs k (groupN k)) = false →
      (k.arg 63 32 = 0 ∨ (100 ≤ k.arg 63 32 ∧ k.arg 63 32 ≤ 60000000)) → (memberArgs k (groupN k)).all (hasRoute s) = true →
      ((s.group id).set = false ∨ groupActive s id = 0) → ∃ t, exec (.groupSet m) s = .next t ∧ Answered t m stOk ∧
        (t.group id).set = true ∧ (t.group id).members = (memberArgs k (groupN k)).map (BitVec.ofNat 12) ∧ (t.group id).nextSeq = 0 ∧
        (t.group id).outcome = 0 ∧ (t.group id).stallUs = (if k.arg 63 32 = 0 then 10000 else k.arg 63 32) ∧
        (t.group id).check = checkValue id (memberArgs k (groupN k)) ∧ ∀ j, j ≠ id → t.group j = s.group j) ∧
    (Runs s m 0x0306 k → k.arg 7 0 = 1 → (s.group id).set = true → groupActive s id = 0 →
      ∃ t, exec (.groupClear m) s = .next t ∧ Answered t m stOk ∧ t.group id = {} ∧ ∀ j, j ≠ id → t.group j = s.group j))

/-- R192, R201, R205 (Table 7.7): the placement actions on every grain of their range: preferences are set and cleared, and
PREFER_NEAR makes FAR grains pending; PIN counts up and backs what can be backed (R250), UNPIN counts down; MIRROR, UNMIRROR and SOURCE set their flags;
RELEASE returns grains to UNBACKED with zero bytes; HORIZON sets the horizon. -/
def Obligations.PlacementHintsCoverTheirRange : Prop :=
  ∀ (s : State) (m : Fin 8) (k : Taken), Runs s m 0x0401 k →
    (k.arg 3 0 = 9 → 100 ≤ k.arg 239 192 → k.arg 239 192 ≤ 100000 → exec (.horizon m) s =
      .next (finish { s with tiers := { s.tiers with horizonNs := k.arg 239 192 * 1000 } } m stOk [])) ∧
    (HintOk s k →
    (k.arg 3 0 = 0 → ∃ t, exec (.preferNear m) s = .next t ∧ Answered t m stOk ∧ ∀ g,
      (inHint k g = true → (t.grain g).preferNear = true ∧ (t.grain g).preferFar = false ∧
        ((s.grain g).st = 4 → g ∈ grainGroup s g → (t.grain g).pending = true)) ∧
      (inHint k g = false → (t.grain g).preferNear = (s.grain g).preferNear ∧ (t.grain g).preferFar = (s.grain g).preferFar)) ∧
    (k.arg 3 0 = 1 → ∃ t, exec (.preferFar m) s = .next t ∧ Answered t m stOk ∧ ∀ g,
      t.grain g = if inHint k g then { s.grain g with preferFar := true, preferNear := false } else s.grain g) ∧
    (k.arg 3 0 = 2 → ∃ t, exec (.noPreference m) s = .next t ∧ Answered t m stOk ∧ ∀ g,
      t.grain g = if inHint k g then { s.grain g with preferFar := false, preferNear := false } else s.grain g) ∧
    (k.arg 3 0 = 3 → (∀ e ∈ hintEntries s k, e.2.pins ≠ 255) →
      pinnedGrains s + hintCount k - ((hintEntries s k).filter (fun e => e.2.pins != 0)).length ≤ pinLimit →
      ∃ t, exec (.pin m) s = .next t ∧ Answered t m stOk ∧ ∀ g, (s.grain g).releasing = false →
        (inHint k g = true → (t.grain g).pins = (s.grain g).pins + 1 ∧
          ((inKvArena g = false ∨ inLivePage s g = true) → (t.grain g).st ≠ 0) ∧
          ((s.grain g).st = 4 → g ∈ grainGroup s g → (t.grain g).pending = true)) ∧
        (inHint k g = false → (t.grain g).pins = (s.grain g).pins)) ∧
    (k.arg 3 0 = 4 → ((hintEntries s k).filter (fun e => e.2.pins != 0)).length = hintCount k →
      ∃ t, exec (.unpin m) s = .next t ∧ Answered t m stOk ∧ ∀ g,
        t.grain g = if inHint k g then { s.grain g with pins := (s.grain g).pins - 1 } else s.grain g) ∧
    (k.arg 3 0 = 5 → (s.cxl 0).inService = true → (s.cxl 1).inService = true → mirrorNeed s k 0 ≤ farFree s 0 → mirrorNeed s k 1 ≤ farFree s 1 →
      ∃ t, exec (.mirror m) s = .next t ∧ Answered t m stOk ∧ ∀ g,
        (inHint k g = true → (t.grain g).mirrored = true ∧ (t.grain g).st = (s.grain g).st) ∧ (inHint k g = false → t.grain g = s.grain g)) ∧
    (k.arg 3 0 = 6 → ∃ t, exec (.unmirror m) s = .next t ∧ Answered t m stOk ∧ ∀ g,
      (inHint k g = true → (t.grain g).mirrored = false ∧ (t.grain g).mirrorHeld = false ∧ (t.grain g).st = (s.grain g).st) ∧
      (inHint k g = false → t.grain g = s.grain g)) ∧
    (k.arg 3 0 = 7 → k.arg 239 192 % 65536 = 0 →
      (k.arg 239 192 + k.arg 175 128 ≤ 0x100000000000 ∨ (0x100000000000 ≤ k.arg 239 192 ∧ k.arg 239 192 + k.arg 175 128 ≤ 0x200000000000)) →
      ∃ t, exec (.source m) s = .next t ∧ Answered t m stOk ∧ ∀ g, t.grain g = if inHint k g then { s.grain g with
        restorable := true, source := BitVec.ofNat 48 (k.arg 239 192 + 65536 * (g - hintStart k)) } else s.grain g) ∧
    (k.arg 3 0 = 8 → (∀ e ∈ hintEntries s k, e.2.pins = 0 ∧ e.2.cacheable = false) →
      (hintCount k = 0 ∨ overlaps (hintStart k) (hintCount k) 0x08000000 0x07000000 = false) →
      ∃ t, exec (.release m) s = .next (finish (serveHeld t) m stOk []) ∧ ∀ g,
        (inHint k g = true → (s.grain g).st.val < 5 ∨ (s.grain g).st = 9 → t.grain g = {} ∧
          (s.grain g ≠ {} → ∀ b, b < 65536 → memGet t.dev (g * 65536 + b) = 0)) ∧
        (inHint k g = false → t.grain g = s.grain g ∧ ∀ b, b < 65536 → memGet t.dev (g * 65536 + b) = memGet s.dev (g * 65536 + b))))

/-- R343 to R345, R350, R421, R461 (Table 12.7): SYNC_SIGNAL acts on a live host-visible object of its kind; an abandoned one
answers ST_ABANDONED and stays; NOTIFY fires at once where its threshold is met and is armed otherwise; the wake tolerance is
taken, and I4 left where it no longer permits I4. -/
def Obligations.SignalsNotificationsAndTolerance : Prop :=
  ∀ (s : State) (m : Fin 8) (k : Taken),
    (∀ t0, Runs s m 0x0501 k → t0 = k.arg 31 0 → ∃ t, exec (.wakeToleranceSet m) s = .next t ∧ Answered t m stOk ∧ t.cmd.tolerance = t0 ∧
      (permitted t < 4 → t.idle.module = false) ∧ t.sram = s.sram ∧ t.dev = s.dev) ∧
    (Runs s m 0x0402 k →
      let a := k.arg 111 64
      let o := s.obj a
      let v := BitVec.ofNat 32 (k.arg 159 128)
      o.hostVisible = true →
      (o.st = 2 → k.arg 3 0 = 4 → ∃ t, exec (.syncSignalQuery m) s = .next t ∧ Answered t m stAbandoned ∧ t.sync = s.sync) ∧
      (o.st = 0 ∨ o.st = 1 →
        (k.arg 3 0 = 0 → o.kind = 0 ∨ o.kind = 2 → ∃ t, exec (.syncSignalAdd m) s = .next t ∧ Answered t m stOk ∧
          t = finish (settleEngines (changeCounter s a (o.count + v))) m stOk (objBytes ((changeCounter s a (o.count + v)).obj a))) ∧
        (k.arg 3 0 = 1 → o.kind = 0 ∨ o.kind = 2 → ∃ t, exec (.syncSignalSet m) s = .next t ∧ Answered t m stOk ∧
          t = finish (settleEngines (changeCounter s a v)) m stOk (objBytes ((changeCounter s a v).obj a))) ∧
        (k.arg 3 0 = 2 → o.kind = 1 → o.full = false → o.waits = [] → ∃ t, exec (.syncSignalPut m) s = .next t ∧ Answered t m stOk ∧
          t.obj a = { o with full := true, value := BitVec.ofNat 64 (k.arg 191 128) }) ∧
        (k.arg 3 0 = 2 → o.kind = 1 → o.full = true → ∃ t, exec (.syncSignalPut m) s = .next t ∧ Answered t m stBusy ∧ t.sync = s.sync) ∧
        (k.arg 3 0 = 3 → o.kind = 1 → o.full = true → o.waits = [] → ∃ t, exec (.syncSignalTake m) s = .next t ∧ Answered t m stOk ∧
          t.obj a = { o with full := false }) ∧
        (k.arg 3 0 = 3 → o.kind = 1 → o.full = false → ∃ t, exec (.syncSignalTake m) s = .next t ∧ Answered t m stBusy ∧ t.sync = s.sync) ∧
        (k.arg 3 0 = 4 → exec (.syncSignalQuery m) s = .next (finish s m stOk (objBytes o))) ∧
        (k.arg 3 0 = 5 → o.kind = 0 → k.arg 15 8 ≤ 3 → s.sync.notifs.length < 1024 → (∀ n ∈ s.sync.notifs, n.obj ≠ a) →
          ∃ t, exec (.notify m) s = .next t ∧ Answered t m stOk ∧ t.sync.objs = s.sync.objs ∧
            t.sync.notifs = if waitMet o.count v then s.sync.notifs else s.sync.notifs ++ [⟨a, v, Fin.ofNat 4 (k.arg 15 8)⟩])))

/-- R422 to R424, R471, R473 (Tables 15.5 to 15.7, 17.10): MAINT_START begins an instance of its activity under the next number,
or answers ST_BUSY with the one it collides with; an ended instance leaves the active ones and heads the ended ones;
MAINT_STATUS changes nothing; COUNTER_READ answers its entries and clears the counters it was asked to. -/
def Obligations.MaintenanceAndCounterCommands : Prop :=
  ∀ (s : State) (m : Fin 8) (k : Taken),
    (∀ i a, (i, a) ∈ [(Instr.patrolScrub m, 1), (Instr.memoryRetraining m, 2), (Instr.linkRetraining m, 3), (Instr.timeResynchronisation m, 4), (Instr.thermalRecalibration m, 7)] →
      Runs s m 0x0502 k → k.arg 7 0 = a →
      let t0 := if a = 4 then 0 else k.arg 15 8
      maintTargetOk a t0 = true → s.cmd.maint.length < 8 →
      (collides s a t0 = none → ∃ t, exec i s = .next t ∧ Answered t m stOk ∧ t.cmd.maintNo = nextInst s.cmd.maintNo ∧
        t.cmd.maint = s.cmd.maint ++ [{ inst := nextInst s.cmd.maintNo, activity := Fin.ofNat 8 a, target := t0, started := s.time.now }]) ∧
      (∀ x, collides s a t0 = some x → ∃ t, exec i s = .next t ∧ Answered t m stBusy ∧ t.cmd = s.cmd)) ∧
    (∀ inst r x, s.cmd.maint.find? (fun x => x.inst == inst && x.activity != 6) = some x →
      ∃ t st, exec (.maintInstanceEnd inst r) s = .next t ∧ t.cmd.maint = s.cmd.maint.filter (fun y => y.inst != x.inst) ∧
        t.cmd.ended = ({ x with st := st } :: s.cmd.ended).take 8 ∧ (st = 1 ∨ st = 2) ∧
        (x.activity = 2 ∨ x.activity = 4 → st = if r.done then 1 else 2)) ∧
    (Runs s m 0x0503 k → (k.arg 31 0 = 0xFFFFFFFF ∨ ∃ x ∈ s.cmd.maint ++ s.cmd.ended, x.inst = BitVec.ofNat 32 (k.arg 31 0)) →
      ∃ t, exec (.maintStatus m) s = .next t ∧ Answered t m stOk ∧ t.cmd = s.cmd) ∧
    (Runs s m 0x0601 k →
      let sp := k.arg 7 0
      let first := k.arg 95 64
      let n := k.arg 111 96
      let clear := bitAt k.num 8
      sp ≠ 5 → ∀ size bytes, spaceOf sp = some (size, bytes) → 1 ≤ n → n ≤ 4096 → first + n ≤ size → (clear = true → sp = 0) →
      k.respLen = 0 ∨ 24 + bytes * n ≤ k.respLen → ∃ t, exec (.counterRead m) s = .next t ∧ Answered t m stOk ∧
        t = finish (if clear then clearCounters s first n else s) m stOk (leBytes 4 n ++ leBytes 4 bytes ++ (List.range n).flatMap (fun i => spaceEntry s sp (k.arg 63 16) (first + i))) ∧
        (clear = true → ∀ c, first ≤ c → c < first + n → c ≠ 0x1B00 → t.counter c = {}) ∧
        (clear = false → ∀ c, c ≠ 0x1B00 → t.counter c = s.counter c))

/-- R443, R444: a protection record without the current nonce answers ST_DENIED and leaves the nonce; one with it whose
signature fails answers ST_SIG_INVALID and spends the nonce, as does one that passes; a record that fails a check has no
other effect.
R356, R431, R435, R440, R446 to R448 (Table 16.7): an accepted record of PROT_APPLY is logged and has its effect: ENROLL and
KEY_ROTATE set the keys, ROUTING_UPDATE the routing table, DOMAIN_POLICY the policy words, FW_POLICY the acceptance policy. -/
def Obligations.ProtectionRecordsAreCheckedThenApplied : Prop :=
  (∀ (s : State) (k : Taken) (carried : Nat → Bool),
    let r := recordOf k
    let keys := recordKeys s r
    let spent := s.modProt (fun p => { p with nonce := none })
    badRecord k carried = false → (s.prot.enrolled ≠ none ∨ r.kind = 1) → r.kind ≠ 3 → r.kind ≠ 9 →
    (nonceCurrent s r = false → protCheck s k carried = (s, some (stDenied, []))) ∧
    (nonceCurrent s r = true → ecdsaVerifies keys.1 r.signed r.operator = false → protCheck s k carried = (spent, some (stSigInvalid, []))) ∧
    (nonceCurrent s r = true → ecdsaVerifies keys.1 r.signed r.operator = true → operatorAlone r = false →
      ecdsaVerifies keys.2 r.signed r.custodian = false → protCheck s k carried = (spent, some (stSigInvalid, []))) ∧
    (nonceCurrent s r = true → ecdsaVerifies keys.1 r.signed r.operator = true →
      (operatorAlone r = true ∨ ecdsaVerifies keys.2 r.signed r.custodian = true) → protCheck s k carried = (spent, none)) ∧
    (∀ s1 st m i, (Runs s m 0x0702 k ∧ carried = applyKinds ∧ ((i = .enroll m ∧ r.kind = 1) ∨ (i = .routingUpdate m ∧ r.kind = 4) ∨
        (i = .domainPolicy m ∧ r.kind = 5) ∨ (i = .fwPolicy m ∧ r.kind = 6) ∨ (i = .keyRotate m ∧ r.kind = 7))) →
      protCheck s k carried = (s1, some (st, [])) → ∃ t, exec i s = .next t ∧ Answered t m st ∧ t.prot.enrolled = s.prot.enrolled ∧
        t.prot.policy = s.prot.policy ∧ t.prot.fwPolicy = s.prot.fwPolicy ∧ t.fabric = s.fabric ∧ t.prot.log = s.prot.log)) ∧
  (∀ (s s1 : State) (m : Fin 8) (k : Taken), Runs s m 0x0702 k → protCheck s k applyKinds = (s1, none) →
    let r := recordOf k
    let logged := fun (t : State) => t.prot.nonce = none ∧ ∃ e ∈ t.prot.log.entries, e.kind.toNat = r.kind ∧ e.nonceNo = r.number ∧ e.digest = r.digest
    (r.kind = 1 → s.prot.enrolled = none → ∃ t, exec (.enroll m) s = .next t ∧ Answered t m stOk ∧ logged t ∧ t.prot.policy = [] ∧
      t.prot.enrolled = some (BitVec.ofNat 768 (leNat (r.body.take 96)), BitVec.ofNat 768 (leNat (r.body.drop 96)))) ∧
    (r.kind = 4 → s.cmd.bound = true → (∃ o, s.fabric.route = some o ∧ o.slice = (routeOf' r.body).slice ∧ o.configId = (routeOf' r.body).configId) →
      (routeRows s1 r.body).find? (·.1) = none → ∃ t, exec (.routingUpdate m) s = .next t ∧ Answered t m stOk ∧ logged t ∧
        t.fabric.route = some (routeOf' r.body) ∧ t.cmd.slice = s.cmd.slice) ∧
    (r.kind = 5 → (∀ d ∈ s.cmd.domains, (tabGet (3 : Word32) (policyOf r.body) d.toNat).getLsbD 0 = true) →
      ∃ t, exec (.domainPolicy m) s = .next t ∧ Answered t m stOk ∧ logged t ∧ t.prot.policy = policyOf r.body ∧ t.prot.enrolled = s.prot.enrolled) ∧
    (r.kind = 6 → 1 ≤ bits (leNat r.body) 63 32 → bits (leNat r.body) 63 32 ≤ 4 → ∃ t p, exec (.fwPolicy m) s = .next t ∧ Answered t m stOk ∧ logged t ∧
      t.prot.fwPolicy = some p ∧ p.minVersion.toNat = leNat (r.body.take 4) ∧ p.keys.length = min (bits (leNat r.body) 63 32) (pieces 48 (r.body.drop 8)).length) ∧
    (∀ o c, r.kind = 7 → s.prot.enrolled = some (o, c) → 1 ≤ rotWhich r → rotWhich r ≤ 3 → rotUnproved r = false →
      ∃ t, exec (.keyRotate m) s = .next t ∧ Answered t m stOk ∧ logged t ∧ t.prot.enrolled = some
        (if rotWhich r = 2 then o else BitVec.ofNat 768 (rotPart r 0), if rotWhich r = 1 then c else BitVec.ofNat 768 (rotPart r 1))))

/-- R412, R414, R433, R444, R449, R454, R455: binding and unbinding a slice, opening and closing a domain, entering service, the
nonce and the evidence; a close, an unbind and a service entry start the scrub that ends them. -/
def Obligations.ProtectionCommandsTakeEffect : Prop :=
  ∀ (s s1 : State) (m : Fin 8) (k : Taken),
    let r := recordOf k
    (Runs s m 0x0101 k → k.arg 7 0 = 0 → protCheck s k (fun n => n == 2) = (s1, none) → s.prot.service = false → (routeRows s1 r.body).find? (·.1) = none →
      ∃ t, exec (.sliceBind m) s = .next t ∧ Answered t m stOk ∧ t.cmd.bound = true ∧ t.cmd.slice = (routeOf' r.body).slice ∧
        t.cmd.tolerance = 1000 ∧ t.fabric.route = some (routeOf' r.body) ∧ t.prot.nonce = none) ∧
    (Runs s m 0x0101 k → k.arg 7 0 = 1 → protCheck s k (fun n => n == 3) = (s1, none) → bits (leNat r.body) 11 0 = s.cmd.slice.toNat →
      ∃ t x, exec (.sliceBindUnbind m) s = .next t ∧ AtWork t m k [] ∧ t.prot.scrub = some x ∧ x.kind = 2 ∧ x.nonceNo = r.number ∧
        t.rings = {} ∧ t.colls = {} ∧ ∀ n, (t.slot n).loaded = false ∧ t.launch n = none) ∧
    (Runs s m 0x0103 k → k.arg 9 0 ≠ 0x3FF → BitVec.ofNat 10 (k.arg 9 0) ∉ s.cmd.domains → (policyWord s (k.arg 9 0)).getLsbD 0 = true →
      exec (.domainOpen m) s = .next (finish { s with cmd := { s.cmd with domains := s.cmd.domains ++ [BitVec.ofNat 10 (k.arg 9 0)] } } m stOk [])) ∧
    (Runs s m 0x0104 k → k.arg 9 0 ≠ 0x3FF → BitVec.ofNat 10 (k.arg 9 0) ∈ s.cmd.domains → domainBusy s (BitVec.ofNat 10 (k.arg 9 0)) = false →
      collides s 6 (k.arg 9 0) = none → ∃ t x, exec (.domainClose m) s = .next t ∧ AtWork t m k [] ∧ t.prot.scrub = some x ∧ x.kind = 1 ∧
        x.domain = BitVec.ofNat 10 (k.arg 9 0) ∧ BitVec.ofNat 10 (k.arg 9 0) ∈ t.cmd.closing ∧ t.sram = s.sram ∧
        ∀ n, (s.slot n).loaded = true → (s.slot n).domain = BitVec.ofNat 10 (k.arg 9 0) → (t.slot n).loaded = false) ∧
    (Runs s m 0x0702 k → r.kind = 9 → protCheck s k applyKinds = (s1, none) → s.cmd.bound = false → s.prot.service = false → ∃ t x, exec (.service m) s = .next t ∧
      Answered t m stOk ∧ t.prot.scrub = some x ∧ x.kind = 3 ∧ x.nonceNo = r.number ∧ t.prot.service = s.prot.service) ∧
    (Runs s m 0x0701 k → ∃ t v, exec (.protNonceGet m) s = .next t ∧ Answered t m stOk ∧ t.prot.nonceNo = s.prot.nonceNo + 1 ∧
      t.prot.nonce = some (v, s.prot.nonceNo + 1, s.time.now)) ∧
    exec .nonceExpiry s = .next { s with prot := { s.prot with nonce := none } } ∧
    (Runs s m 0x0703 k → k.respLen = 0 ∨ 116 + (evidenceBody s (k.arg 255 0)).length ≤ k.respLen → ∃ t sig, exec (.attestGet m) s = .next t ∧
      Answered t m stOk ∧ sig.length = 96 ∧ t.prot.log = s.prot.log ∧ t.prot.meas = s.prot.meas ∧
      t = finish s.bump m stOk (leBytes 4 ((evidenceBody s (k.arg 255 0)).length + 96) ++ evidenceBody s (k.arg 255 0) ++ sig))

/-- R425 to R427, R447, R451, R452, R465, R467: a grant is logged, numbered and kept until its work or its time ends; a stepped
tile is held for it and zeroed when returned; firmware is staged in order, judged at the last chunk, activated into the other
bank, and READY once it has booted. -/
def Obligations.DebugGrantsAndFirmware : Prop :=
  ∀ (s s1 : State) (m : Fin 8) (k : Taken),
    (∀ i sc, (i, sc) ∈ [(Instr.step m, 1), (Instr.trace m, 2), (Instr.memoryRead m, 3)] → Runs s m 0x0704 k → grantScope k = sc →
      protCheck s k (fun n => n == 8) = (s1, none) → ∃ t, exec i s = .next t ∧ Answered t m stOk ∧ t.prot.grantNo = s.prot.grantNo + 1 ∧
        t.prot.grants = s.prot.grants ++ [{ number := s.prot.grantNo + 1, body := BitVec.ofNat 512 (leNat (recordOf k).body), since := s.time.now }] ∧
        ∃ e ∈ t.prot.log.entries, e.kind = 8 ∧ e.digest = (recordOf k).digest) ∧
    (∀ n g, grantOf s n = some g → g.scope = 1 → g.holds = false → tileFree s g.tile = true → ∃ t w, exec (.stepTileTake n) s = .next t ∧
      (t.tile g.tile).stepGrant = some n ∧ grantOf t n = some { g with holds := true, ready := true, written := w }) ∧
    (∀ n g, grantOf s n = some g → g.scope = 1 → g.holds = true → g.ready = true → ∃ t, exec (.debugWorkEnd n) s = .next t ∧ grantOf t n = none ∧
      (t.tile g.tile).stepGrant = none ∧ ∀ b, b < 2 ^ 23 → memGet t.sram (sramIx g.tile 0 + b) = 0) ∧
    (∀ n g, grantOf s n = some g → g.scope ≠ 1 → g.holds = false → ∃ t, exec (.debugWorkEnd n) s = .next t ∧ grantOf t n = none ∧
      t.dev = s.dev ∧ t.sram = s.sram ∧ t.ctxs = s.ctxs) ∧
    (∀ n g, grantOf s n = some g → ∃ t, exec (.grantExpiry n) s = .next t ∧ grantOf t n = none ∧
      (g.holds = true → ∀ b, b < 2 ^ 23 → memGet t.sram (sramIx g.tile 0 + b) = 0)) ∧
    (Runs s m 0x0801 k → (k.arg 31 0 = 0 ∨ (k.arg 31 0 = s.prot.staged.length ∧ k.arg 63 32 = s.prot.stagedTotal)) → k.arg 63 32 ≤ 67108864 →
      collides s 5 0 = none →
      let l := (if k.arg 31 0 = 0 then [] else s.prot.staged) ++ k.args
      let w := s.modProt (fun p => { p with staged := l, stagedTotal := k.arg 63 32 })
      (bitAt k.num 64 = false → ∃ t, exec (.fwStage m) s = .next t ∧ Answered t m stOk ∧ t.prot.staged = l ∧ t.prot.stagedTotal = k.arg 63 32 ∧
        t.prot.accepted = s.prot.accepted) ∧
      (∀ st, bitAt k.num 64 = true → judgeImage w l (k.arg 63 32) = .inr st → ∃ t, exec (.fwStage m) s = .next t ∧ Answered t m st ∧ t.prot.staged = [] ∧
        t.prot.accepted = s.prot.accepted) ∧
      (∀ x, bitAt k.num 64 = true → judgeImage w l (k.arg 63 32) = .inl x → ∃ t, exec (.fwStage m) s = .next t ∧ Answered t m stOk ∧ t.prot.staged = [] ∧
        t.prot.accepted = some x ∧ t.cmd.maint.length = s.cmd.maint.length + 1)) ∧
    (∀ x, Runs s m 0x0802 k → s.prot.accepted = some x → activateBusy s = false →
      (othersDone s m = true → ∃ t, exec (.fwActivate m) s = .next t ∧ Answered t m stOk ∧ t.cmd.module = 0 ∧ t.prot.accepted = none ∧
        t.prot.bank ≠ s.prot.bank ∧ bankImage t t.prot.bank.val = some x ∧ ∀ n, (t.slot n).loaded = false) ∧
      (othersDone s m = false → exec (.fwActivate m) s = .next (setWorking s m []))) ∧
    (s.prot.replaced ≠ none → ∃ t, exec .fwReady s = .next t ∧ t.prot.replaced = none ∧ t.cmd.module = (if s.prot.service then 2 else 1) ∧
      t.prot.log = s.prot.log)

/-- R412, R414, R449, R453 to R455, R472: a scrub that ends is certified in the log: a closed domain is no longer open; an
unbound module has no routing table, no sequence, and zero memory; a module in service says so.  What waits for memory is
served after that. -/
def Obligations.ScrubsEndWithACertificate : Prop :=
  ∀ (s : State) (x : Scrub), s.prot.scrub = some x →
    (x.kind = 1 → taggedGrains (vacateDomain s x.domain) x.domain = [] → ∃ t, exec .scrubComplete s = .next (serveHeld t) ∧ t.prot.scrub = none ∧
      x.domain ∉ t.cmd.domains ∧ x.domain ∉ t.cmd.closing ∧ (∀ d, d ≠ x.domain → (d ∈ t.cmd.domains ↔ d ∈ s.cmd.domains)) ∧
      ∃ e ∈ t.prot.log.entries, e.kind = 0x0100) ∧
    (x.kind = 1 → taggedGrains (vacateDomain s x.domain) x.domain ≠ [] → exec .scrubComplete s = .next (vacateDomain s x.domain)) ∧
    (x.kind = 2 → ∃ t, exec .scrubComplete s = .next (serveHost t) ∧ (s.host.held = [] → serveHost t = t) ∧ t.prot.scrub = none ∧ t.cmd.bound = false ∧ t.cmd.domains = [] ∧ t.fabric.route = none ∧
      t.sram = [] ∧ t.dev = [] ∧ t.seqs.table = [] ∧ t.ctxs = [] ∧ t.cmd.tolerance = 30000000 ∧ ∃ e ∈ t.prot.log.entries, e.kind = 0x0100) ∧
    (x.kind = 3 → ∃ t, exec .scrubComplete s = .next (serveHost t) ∧ (s.host.held = [] → serveHost t = t) ∧ t.prot.scrub = none ∧ t.cmd.module = 2 ∧ t.prot.service = true ∧ t.sram = [] ∧ t.dev = [] ∧
      ∃ e ∈ t.prot.log.entries, e.kind = 0x0100)

/-- R432, R436 (Table 16.2): each SPDM request gets its answer; one secured session at a time opens at a verified FINISH and
ends at END_SESSION; unknown slots, indices and requests get an error.
R436, R437, R466 (Table 16.5): the TDISP states: keys, lock, start and stop within the session move the function between
CONFIG_UNLOCKED, CONFIG_LOCKED and RUN; an integrity failure or the loss of the session sends it to ERROR without keys; a link
reset brings it back to CONFIG_UNLOCKED, every mailbox and queue disabled, and leaves the module's work as it is. -/
def Obligations.SpdmAndTdispFollowTheirTables : Prop :=
  (∀ (s : State),
    exec .getVersion s = .next (answerSpdm s (.version [0x12, 0x13])) ∧ exec .getCapabilities s = .next (answerSpdm s .capabilities) ∧
    exec .negotiateAlgorithms s = .next (answerSpdm s .algorithms) ∧ exec .getDigests s = .next (answerSpdm s (.digests (sha384 Config.chain))) ∧
    exec (.getCertificate 0) s = .next (answerSpdm s (.certificate Config.chain)) ∧
    (∀ sl, sl ≠ 0 → exec (.getCertificate sl) s = .next (answerSpdm s .error) ∧ ∀ n, exec (.challenge sl n) s = .next (answerSpdm s .error)) ∧
    (∀ n, ∃ t v sig, exec (.challenge 0 n) s = .next t ∧ t.out.spdm = s.out.spdm ++ [.challengeAuth v sig] ∧ t.prot = s.prot) ∧
    (∀ i n l, measBlocks s i.toNat = some l → ∃ t v sig, exec (.getMeasurements i n) s = .next t ∧
      t.out.spdm = s.out.spdm ++ [.measurements l v sig] ∧ t.prot = s.prot) ∧
    (∀ i n, 6 < i.toNat → i.toNat ≠ 0xFF → exec (.getMeasurements i n) s = .next (answerSpdm s .error)) ∧
    (∀ x, s.prot.session = 0 → ∃ t sig, exec (.keyExchange x) s = .next t ∧ t.out.spdm = s.out.spdm ++ [.keyExchange sig] ∧ t.prot.session = 1) ∧
    (∀ x, s.prot.session ≠ 0 → exec (.keyExchange x) s = .next (answerSpdm s .error)) ∧
    (s.prot.session = 1 → (∃ t, exec (.finish true) s = .next t ∧ t.out.spdm = s.out.spdm ++ [.finish] ∧ t.prot.session = 2) ∧
      (∃ t, exec (.finish false) s = .next t ∧ t.out.spdm = s.out.spdm ++ [.error] ∧ t.prot.session = 0)) ∧
    (s.prot.session = 2 → (∃ t, exec .keyUpdate s = .next t ∧ t.out.spdm = s.out.spdm ++ [.keyUpdate] ∧ t.prot.sessionKeys = s.prot.sessionKeys + 1) ∧
      exec .heartbeat s = .next (answerSpdm s .heartbeat) ∧
      ∃ t, exec .endSession s = .next t ∧ t.out.spdm = s.out.spdm ++ [.endSession] ∧ t.prot.session = 0 ∧
        t.prot.tdisp = (if s.prot.tdisp = .locked ∨ s.prot.tdisp = .run then .error else s.prot.tdisp)) ∧
    (s.prot.session ≠ 2 → ∀ i, i ∈ [Instr.keyUpdate, Instr.heartbeat, Instr.endSession] → exec i s = .next (answerSpdm s .error)) ∧
    ∀ c, exec (.unsupportedSpdmRequest c) s = .next (answerSpdm s .unsupported)) ∧
  (∀ (s : State),
    (s.prot.session = 2 → exec .ideKm s = .next { s with prot := { s.prot with keyed := true } }) ∧
    (s.prot.session = 2 → s.prot.keyed = true → s.prot.tdisp = .unlocked → ∃ t, exec .lockInterface s = .next t ∧ t.prot.tdisp = .locked ∧ t.prot.keyed = true) ∧
    (s.prot.session = 2 → s.prot.tdisp = .locked → ∃ t, exec .startInterface s = .next t ∧ t.prot.tdisp = .run ∧ t.prot.keyed = s.prot.keyed) ∧
    (s.prot.session = 2 → ∃ t, exec .stopInterface s = .next t ∧ t.prot.tdisp = .unlocked) ∧
    (s.prot.session ≠ 2 → ∀ i, i ∈ [Instr.ideKm, Instr.lockInterface, Instr.startInterface, Instr.stopInterface] → exec i s = .next s) ∧
    (s.prot.keyed = true → ∃ t, exec (.ideIntegrityFailure false) s = .next t ∧ t.prot.tdisp = .error ∧ (s.prot.tdisp ≠ .error → t.prot.keyed = false) ∧
      t.trusted = false) ∧
    (s.prot.session ≠ 0 → ∃ t, exec (.ideIntegrityFailure true) s = .next t ∧ t.prot.tdisp = .error ∧ t.prot.session = 0 ∧ t.trusted = false) ∧
    (∃ t, exec .linkReset s = .next t ∧ t.prot.tdisp = .unlocked ∧ t.prot.session = 0 ∧ t.prot.keyed = false ∧
      (∀ m, (t.mbx m).enable = false) ∧ (∀ q, (t.evq q).enable = false) ∧ t.host.held = [] ∧ t.host.bar2Base = 0 ∧
      t.ctxs = s.ctxs ∧ t.slots = s.slots ∧ t.sram = s.sram ∧ t.dev = s.dev ∧ t.sync = s.sync ∧ t.tiers = s.tiers ∧ t.cmd = s.cmd))

/-! Power, resets, idle levels and service pins (ch. 1, 17, 19). -/

/-- R21 to R25, R480, R505: the module rate falls to 8/16 above 2,900 W and by a sixteenth above 2,500 W, and rises below 2,400 W;
a die's rate steps down by a sixteenth above 460 W of its own rail and up below 440 W, between 0 (the model's floor, log
entry 79) and full; a thermal trip, a lost rail and a lost PLL lock are module faults. -/
def Obligations.RatesStepBySixteenths : Prop :=
  ∀ (s : State),
    (∀ w, 2900 < w → 8 < s.power.moduleRate.val → ∃ t, exec (.powerMeasure w) s = .next t ∧ t.power = { s.power with watts := w, moduleRate := 8, peak := true } ∧
      t.sram = s.sram ∧ t.dev = s.dev) ∧
    (∀ w, w ≤ 2900 ∨ s.power.moduleRate.val ≤ 8 → exec (.powerMeasure w) s = .next { s with power := { s.power with watts := w } }) ∧
    (2500 < s.power.watts → 0 < s.power.moduleRate.val → ∃ t, exec .moduleRateDown s = .next t ∧ t.power.moduleRate.val = s.power.moduleRate.val - 1 ∧
      t.power.dieRate = s.power.dieRate ∧ t.power.thermRate = s.power.thermRate) ∧
    (s.power.watts < 2400 → s.power.moduleRate.val < 16 → ∃ t, exec .moduleRateUp s = .next t ∧ t.power.moduleRate.val = s.power.moduleRate.val + 1 ∧
      t.power.dieRate = s.power.dieRate ∧ t.power.thermRate = s.power.thermRate) ∧
    (∀ (d : Fin 4) w, 460 < w → 0 < s.dieRate d.val → ∃ t, exec (.diePowerRateDown d w) s = .next t ∧ t.dieRate d.val = s.dieRate d.val - 1 ∧
      tabGet 0 t.power.rails d.val = w ∧ (∀ e, e ≠ d.val → t.dieRate e = s.dieRate e) ∧ ∀ e, t.thermRate e = s.thermRate e) ∧
    (∀ (d : Fin 4) w, w < 440 → s.dieRate d.val ≤ 16 → ∃ t, exec (.diePowerRateUp d w) s = .next t ∧ t.dieRate d.val = min 16 (s.dieRate d.val + 1) ∧
      tabGet 0 t.power.rails d.val = w ∧ ∀ e, e ≠ d.val → t.dieRate e = s.dieRate e) ∧
    (∀ (d : Fin 4) w, (w ≤ 460 → exec (.diePowerRateDown d w) s = .next (noteRail s d w)) ∧ (440 ≤ w → exec (.diePowerRateUp d w) s = .next (noteRail s d w))) ∧
    (∀ d : Fin 4, 0 < s.thermRate d.val → ∃ t, exec (.thermalRateDown d) s = .next t ∧ t.thermRate d.val = s.thermRate d.val - 1 ∧
      (∀ e, e ≠ d.val → t.thermRate e = s.thermRate e) ∧ ∀ e, t.dieRate e = s.dieRate e) ∧
    (∀ d : Fin 4, s.thermRate d.val ≤ 16 → ∃ t, exec (.thermalRateUp d) s = .next t ∧ t.thermRate d.val = min 16 (s.thermRate d.val + 1) ∧
      ∀ e, e ≠ d.val → t.thermRate e = s.thermRate e) ∧
    (∀ i, (∃ d, i = Instr.thermalTrip d ∨ i = Instr.railLost d) ∨ i = .pllLockLost → ∃ t, exec i s = .next t ∧ t.cmd.module = 3 ∧
      (∀ p, p < 8 → (t.port p).st = 2) ∧ ∀ n, t.launch n = none)

/-- R464, R495, R497, R501, R502: the pins and the cold reset: power, PWR_GOOD, the input and COLD_RST# going away clear near
memory and SRAM and keep what flash holds; bring-up begins once 54 V, PWR_GOOD, COLD_RST# and FLASH_SEL# allow it.
R19: the release of a reset samples the six geographic address pins.
R464, R466, R469, R470 (Tables 17.7, 17.9): a warm reset, by PERST# or the watchdog, stops launches, unloads images and
clears SRAM, the host function and the counters, and keeps what flash holds and the slice; the end of bring-up makes the module
READY, SERVICE or FAILED. -/
def Obligations.PinsAndResets : Prop :=
  (∀ (s : State),
    let cleared := fun (t : State) => t.sram = [] ∧ t.dev = [] ∧ t.ctxs = [] ∧ t.slots = [] ∧ t.cmd.module = 0 ∧ t.prot.enrolled = s.prot.enrolled ∧
      t.prot.log = s.prot.log ∧ t.prot.fwPolicy = s.prot.fwPolicy ∧ t.hostMem = s.hostMem
    let begins := fun (t : State) => (t.pins.phase ≠ 0 ↔
      t.pins.input = true ∧ t.pins.stbyOk = true ∧ t.pins.pwrGood = true ∧ t.pins.coldRst = true ∧ t.pins.flashSel = true)
    let sampled := fun (t : State) (ga : BitVec 6) => t.geo =
      if t.pins.input = true ∧ t.pins.stbyOk = true ∧ t.pins.pwrGood = true ∧ t.pins.coldRst = true then ga else s.geo
    (∀ ga, s.pins.input = false → ∃ t, exec (.powerApplied ga) s = .next t ∧ cleared t ∧ t.pins.input = true ∧ t.pins.stbyOk = true ∧ begins t ∧ sampled t ga) ∧
    (∀ ga, s.pins.input = true → exec (.powerApplied ga) s = .next s) ∧
    (∀ ga, s.pins.phase = 0 → ∃ t, exec (.pwrGoodRise ga) s = .next t ∧ t.pins.pwrGood = true ∧ begins t ∧ sampled t ga ∧ t.sram = s.sram ∧ t.prot = s.prot) ∧
    (s.pins.pwrGood = true → ∃ t, exec .pwrGoodLow s = .next t ∧ cleared t ∧ t.pins.pwrGood = false ∧ t.pins.phase = 0) ∧
    (∀ b, ∃ t, exec (.inputOutOfRange b) s = .next t ∧ cleared t ∧ t.pins.input = false ∧ t.pins.stbyOk = (s.pins.stbyOk && !b) ∧ t.pins.phase = 0) ∧
    (∀ ga, s.pins.input = false → s.pins.pwrGood = true → ∃ t, exec (.inputRecovered ga) s = .next t ∧ cleared t ∧ t.pins.input = true ∧
      t.pins.stbyOk = true ∧ begins t ∧ sampled t ga) ∧
    (s.pins.pwrGood = true → ∃ t, exec .coldRst s = .next t ∧ cleared t ∧ t.pins.coldRst = false ∧ t.pins.phase = 0) ∧
    (∀ ga, s.pins.phase = 0 → ∃ t, exec (.coldRstRelease ga) s = .next t ∧ t.pins.coldRst = true ∧ begins t ∧ sampled t ga ∧ t.sram = s.sram ∧ t.prot = s.prot) ∧
    (∃ t, exec .flashSel s = .next t ∧ t.pins.flashSel = false ∧ t.pins.flashPass = !s.pins.pwrGood ∧ t.pins.phase = s.pins.phase ∧ t.prot = s.prot) ∧
    (s.pins.phase = 0 → ∃ t, exec .flashSelRelease s = .next t ∧ t.pins.flashSel = true ∧ t.pins.flashPass = false ∧ begins t ∧ t.prot = s.prot) ∧
    (∀ ga, exec (.perstRelease ga) s = .next (if s.pins.perst then s else { s with geo := ga, pins := { s.pins with perst := true } })) ∧
    exec .leakSensorWet s = .next { s with pins := { s.pins with leak := false } }) ∧
  (∀ (s : State), s.pins.phase ≠ 0 →
    let warm := fun (t : State) => t.sram = [] ∧ t.counters = [] ∧ t.cmd.module = 0 ∧ t.pins.phase = 2 ∧ t.pins.warm = true ∧ t.prot.tdisp = .unlocked ∧
      t.prot.enrolled = s.prot.enrolled ∧ t.prot.log = s.prot.log ∧ t.cmd.bound = s.cmd.bound ∧ t.cmd.slice = s.cmd.slice ∧
      t.fabric.route = s.fabric.route ∧ (∀ n, (t.slot n).loaded = false ∧ t.launch n = none) ∧ ∀ m, (t.mbx m).enable = false
    (s.pins.perst = true → ∃ t, exec .perst s = .next t ∧ warm t ∧ t.pins.perst = false) ∧
    (s.pins.perst = false → exec .perst s = .next s) ∧
    (∃ t, exec .watchdogExpiry s = .next t ∧ warm t ∧ t.pins.perst = s.pins.perst) ∧
    (∀ r : BringupResult, s.pins.phase ≠ 7 → s.pins.warm = false ∨ s.pins.perst = true →
      (r.firmwareOk = true → r.configOk = true → r.diesOk = true → ∃ t, exec (.bringupEnd r) s = .next t ∧
        t.cmd.module = (if s.prot.service then 2 else 1) ∧ t.pins.phase = 7 ∧ t.tiers.stacksUp = r.stacksOk ∧ t.pins.cxlPerst = true) ∧
      (r.firmwareOk = false ∨ r.configOk = false ∨ r.diesOk = false → ∃ t, exec (.bringupEnd r) s = .next t ∧ t.cmd.module = 3 ∧ t.pins.phase = 7 ∧
        t.tiers.stacksUp = s.tiers.stacksUp)) ∧
    (∀ r, s.pins.warm = true → s.pins.perst = false → exec (.bringupEnd r) s = .next s))

/-- R460 to R463 (Tables 17.2, 17.4): a unit goes one level deeper where the tolerance permits it; a die at I3 has its units at
I2; the module at I4 has lost SRAM, Tun lines and sync objects; a wake takes its slot, then brings the unit to I0.
R450, R498 (Table 19.4): the SMBus target answers a word of the last refresh, acknowledges no other command and no write, and
answers the alert address while SMB_ALERT# is low, which releases it; JTAG's internal instructions read 0 outside service. -/
def Obligations.IdleLevelsAndServicePins : Prop :=
  (∀ (s : State),
    (∀ u, s.level (unitIx u) = 1 → s.wakePhase (unitIx u) = 0 → 2 ≤ permitted s → exec (.idleI2Entry u) s = .next (s.setLevel (unitIx u) 2)) ∧
    (∀ u, s.level (unitIx u) ≠ 1 ∨ permitted s < 2 → exec (.idleI2Entry u) s = .next s) ∧
    (∀ d, 3 ≤ permitted s → (∀ u ∈ dieUnits d, s.level u ≠ 0 ∧ s.wakePhase u = 0) → enginesIdle s d = true → launchRuns s = false →
      (∀ x ∈ s.cmd.maint, d.val ∉ maintDies x.activity.val x.target) → ∃ t, exec (.idleI3Entry d) s = .next t ∧
        t.idle.dies = s.idle.dies ||| (1#4 <<< d.val) ∧ (∀ u ∈ dieUnits d, t.level u = 2) ∧ (∀ u, u ∉ dieUnits d → t.level u = s.level u) ∧ t.sram = s.sram) ∧
    (permitted s < 3 → ∀ d, exec (.idleI3Entry d) s = .next s) ∧
    (4 ≤ permitted s → s.idle.dies = 15 → (∀ n, (s.slot n).loaded = false) → (∀ e ∈ s.rings.table, e.2.st = 0) → (∀ e ∈ s.colls.groups, e.2.set = false) →
      s.cmd.maint = [] → ∃ t, exec .idleI4Entry s = .next t ∧ t.idle.module = true ∧ t.sram = [] ∧ t.streams.tun = [] ∧ t.sync.objs = [] ∧ t.dev = s.dev) ∧
    (permitted s < 4 → exec .idleI4Entry s = .next s) ∧
    (∀ u, s.wakePhase (unitIx u) = 1 → exec (.wakeSlot u) s = .next (s.setWake (unitIx u) 2)) ∧
    (∀ e, s.wakePhase (aeUnit e) = 2 → exec (.wakeDone (.ae e)) s = .next ((s.setLevel (aeUnit e) 0).setWake (aeUnit e) 0)) ∧
    (∀ u : Fin 192, s.wakePhase u.val = 2 → ∃ t, exec (.wakeDone (.tile u)) s = .next t ∧ Scheduled u ((s.setLevel u.val 0).setWake u.val 0) t) ∧
    (∀ u, s.wakePhase (unitIx u) = 0 → exec (.wakeSlot u) s = .next s ∧ exec (.wakeDone u) s = .next s)) ∧
  (∀ (s : State),
    (∀ c : BitVec 8, s.pins.stbyOk = true → 1 ≤ c.toNat → c.toNat ≤ 0x0B → s.smbus.refreshed = true →
      exec (.smbusReadWord c) s = .next (sendSmbus s (some (tabGet 0 s.smbus.values c.toNat)))) ∧
    (∀ c : BitVec 8, s.pins.stbyOk = true → 5 ≤ c.toNat → c.toNat ≤ 0x0B → s.smbus.refreshed = false →
      exec (.smbusReadWord c) s = .next (sendSmbus s (some 0x8000))) ∧
    (∀ c : BitVec 8, s.pins.stbyOk = false ∨ c.toNat = 0 ∨ 0x0B < c.toNat → exec (.smbusReadWord c) s = .next (sendSmbus s none)) ∧
    exec .smbusWrite s = .next (sendSmbus s none) ∧
    (∀ v, s.pins.stbyOk = true → ∃ t, exec (.smbusRefresh v) s = .next t ∧ t.smbus.refreshed = true ∧
      tabGet 0 t.smbus.values 1 = smbusState s ∧ tabGet 0 t.smbus.values 2 = v.vin ∧ tabGet 0 t.smbus.values 4 = v.pin ∧ tabGet 0 t.smbus.values 0x0B = v.tStack) ∧
    (s.pins.stbyOk = true → smbAlert s = true → ∃ t, exec .smbusAlertResponse s = .next t ∧ t.out.smbus = s.out.smbus ++ [some 0x4C] ∧ smbAlert t = false) ∧
    (smbAlert s = false → exec .smbusAlertResponse s = .next (sendSmbus s none)) ∧
    (∀ d, s.prot.service = false → exec (.jtagInstruction true d) s = .next (sendJtag s 0)) ∧
    (∀ i d, i = false ∨ s.prot.service = true → ∃ t v, exec (.jtagInstruction i d) s = .next t ∧ t.out.jtag = s.out.jtag ++ [v] ∧ t.prot = s.prot ∧
      t.sram = s.sram ∧ t.dev = s.dev))

/-! The queue and the invariants. -/

/-- A step takes the command at the front of the queue and is exec of it with the queue's rest. -/
def Obligations.StepRunsTheFrontCommand : Prop :=
  ∀ (c : Instr) (rest : List Instr) (s : State), s.pending = c :: rest → step s = exec c { s with pending := rest }

/-- No command puts commands into the queue: a step takes exactly one.  On an empty queue TCLK advances fabric time, and with
it a recalibration of all dies goes on to its next die (the model's choice, log entry 1); nothing else changes.  Only the
release of a reset changes the module's geographic address (R19). -/
def Obligations.StepTakesExactlyOneCommand : Prop :=
  ∀ (s : State), ∃ t, step s = .next t ∧ t.pending = s.pending.tail ∧ s.free ≤ t.free ∧
    (t.geo = s.geo ∨ ∃ ga c, s.pending.head? = some c ∧ t.geo = ga ∧
      c ∈ [Instr.powerApplied ga, .pwrGoodRise ga, .inputRecovered ga, .coldRstRelease ga, .perstRelease ga]) ∧
    (s.pending = [] → (∀ x ∈ s.cmd.maint, x.activity ≠ 7 ∨ x.target ≠ 0xFF) → t = { s with time := t.time }) ∧
    (s.pending = [] → t.sram = s.sram ∧ t.dev = s.dev ∧ t.ctxs = s.ctxs ∧ t.slots = s.slots ∧ t.cmd = s.cmd ∧ t.prot = s.prot)

/-- Every step keeps the canonical form of tile SRAM, near and far memory and host memory: equal contents are equal data. -/
def Obligations.EveryStepKeepsMemoriesCanonical : Prop :=
  ∀ (s t : State), MemOk s → step s = .next t → MemOk t

/-- Tables 17.7 and 17.8: the module right after reset: memories empty and canonical, no launch, no image, no
domain open, the module in BRINGUP and not bound, TDISP CONFIG_UNLOCKED, every mailbox and event queue disabled. -/
def Obligations.ResetLeavesEverythingClear : Prop :=
  let s := State.reset
  MemOk s ∧ s.sram = [] ∧ s.dev = [] ∧ s.cmd.module = 0 ∧ s.cmd.bound = false ∧ s.cmd.domains = [] ∧ s.prot.tdisp = .unlocked ∧
    (∀ n, (s.slot n).loaded = false ∧ s.launch n = none) ∧ (∀ m, (s.mbx m).enable = false) ∧ (∀ q, (s.evq q).enable = false) ∧
    (∀ u c, (s.ctx u c).st = .empty) ∧ (∀ g, (s.grain g).st = 0) ∧ (∀ a, (s.obj a).st = 3) ∧ (∀ n, s.counter n = {}) ∧ s.pending = []
end

