-- ==== Sys2Proof/WellFormed.lean ====
section
/-! DEFINITION. Which terms are commands: the sizes that the spec gives to operands which Syntax leaves unbounded. -/

namespace Sys2Proof

/-- A ring has at most 256 members (Table 10.1); indices of pages and of chunks have 16 bits (R404). -/
def RingData.wellFormed : RingData → Bool
  | .shard step page chunk => step < 256 && page < 65536 && chunk < 65536
  | .query chunk => chunk < 65536
  | .part head member chunk => head < 256 && member < 256 && chunk < 65536
  | .output head chunk => head < 256 && chunk < 65536

/-- A pass has at least one head and one KV head (Table 10.4). -/
def RingFirst.wellFormed (f : RingFirst) : Bool := 1 ≤ f.kvHeads.toNat && 1 ≤ f.heads.toNat

/-- Stages 1 to 4 (R303), pieces one per member (R309). -/
def CollMsg.wellFormed (g : CollMsg) : Bool := 1 ≤ g.stage && g.stage ≤ 4 && g.piece < 4096

def ChunkId.wellFormed : ChunkId → Bool
  | .ring _ _ d => d.wellFormed
  | .coll _ _ _ stage piece chunk => stage ≤ 4 && piece < 4096 && chunk < 65536

/-- Times are of 64 bits (R363). -/
def TimeReply.wellFormed (r : TimeReply) : Bool :=
  r.t1 < 2 ^ 64 && r.t2 < 2 ^ 64 && r.t3 < 2 ^ 64 && r.t4 < 2 ^ 64 && r.corrQ < 2 ^ 64 && r.corrR < 2 ^ 64

/-- BAR0 has 64 MiB (Table 14.1), a stream queue's block 64 bytes (R162); an access has at most 512 bytes. -/
def RegAccess.wellFormed : RegAccess → Bool
  | .bar0 off size _ => off < 2 ^ 26 && 1 ≤ size && size ≤ 512
  | .stq _ reg _ => reg < 64

/-- A codeword has 67 symbols (R481). -/
def CopyError.wellFormed (e : CopyError) : Bool := e.errors.length ≤ 67

/-- At most the grains of the device range and one count for each stack are listed. -/
def MaintResult.wellFormed (r : MaintResult) : Bool := r.weakGrains.length < 2 ^ 28 && r.corrections.length ≤ 24

/-- 8 fabric ports and 2 CXL ports. -/
def BringupResult.wellFormed (r : BringupResult) : Bool :=
  r.portWidth.length = 8 && r.cxlWidth.length = 2 && r.cxlFrames.length = 2 && r.cxlId.length = 2 &&
  r.cxlPoison.length = 2

/-- How many bytes of extended arguments the read of a descriptor brought, at most 1 MiB (Table 14.11). -/
def argBytes : Option (BitVec 512 × List Byte) → Nat
  | some x => x.2.length
  | none => 0

/-- The operands have sizes the spec allows. -/
def Instr.wellFormed : Instr → Bool
  | .nop .. => true
  | .sli .. => true
  | .salu .. => true
  | .scmp .. => true
  | .plog .. => true
  | .aadd .. => true
  | .sget .. => true
  | .lds .. => true
  | .sts .. => true
  | .br .. => true
  | .loop _ _ _ _ body _ _ => body ≠ 0
  | .end_ .. => true
  | .mma .. => true
  | .vop .. => true
  | .sfn .. => true
  | .rowstat .. => true
  | .sqis .. => true
  | .smt .. => true
  | .aeq .. => true
  | .coll .. => true
  | .waitc .. => true
  | .sigc .. => true
  | .take .. => true
  | .put .. => true
  | .faa .. => true
  | .str .. => true
  | .blkcnt .. => true
  | .mxuBlockCheck .. => true
  | .unitInstructionComplete .. => true
  | .spinLimitReached .. => true
  | .contextSwitchDone .. => true
  | .waitMet .. => true
  | .waitCancelReply .. => true
  | .preemptDrainDone .. => true
  | .contextSaveDone .. => true
  | .contextRestoreDone .. => true
  | .syncRequest k => k < 2 ^ 32
  | .transferStart .. => true
  | .streamRequestIssue .. => true
  | .streamRequestComplete _ k => k < 65535
  | .streamResume .. => true
  | .drainReady .. => true
  | .deadlineExpiry .. => true
  | .creditWatchExpiry .. => true
  | .stqCtlAbort .. => true
  | .smtComplete .. => true
  | .tunFillComplete .. => true
  | .aeDescriptorStart .. => true
  | .aeGroupBoundary .. => true
  | .aeGroupCheck .. => true
  | .aeDescriptorEnd .. => true
  | .aeContextSave .. => true
  | .extend .. => true
  | .truncate .. => true
  | .enter .. => true
  | .leave .. => true
  | .pageCopyDone .. => true
  | .forkPublished .. => true
  | .epochTick => true
  | .reclamationPass => true
  | .rotate .. => true
  | .circulate .. => true
  | .passBegin .. => true
  | .ringChunkArrival _ _ d first bytes => d.wellFormed && 1 ≤ bytes.length && bytes.length ≤ 65536 && first.all (fun f => f.wellFormed)
  | .slotFree .. => true
  | .ringAck _ _ d => d.wellFormed
  | .hold .. => true
  | .resume .. => true
  | .ringAbandon .. => true
  | .brokenMessage .. => true
  | .ringDueTime .. => true
  | .ringBreakTimer .. => true
  | .grant _ g first count _ => g.wellFormed && first < 65536 && count < 65536
  | .collChunkArrival _ _ bytes => 1 ≤ bytes.length && bytes.length ≤ 65536
  | .collAck _ g k => g.wellFormed && k < 65536
  | .nak _ g k => g.wellFormed && k < 65536
  | .abandon _ g _ => g.wellFormed
  | .collStallTimer .. => true
  | .chunkResendTimer u => u.wellFormed
  | .write _ bytes => 1 ≤ bytes.length && bytes.length ≤ 256
  | .signal .. => true
  | .ack .. => true
  | .deny .. => true
  | .ackFlush .. => true
  | .packetResendTimer .. => true
  | .creditReturn _ _ n => 1 ≤ n && n < 65536
  | .creditStallTimer .. => true
  | .timeRequest _ t => t < 2 ^ 64
  | .timeReply _ r => r.wellFormed
  | .timeExchangeTimer => true
  | .holdoverTimer => true
  | .holdoverExpiry => true
  | .backupTakeover => true
  | .masterProbeTimer => true
  | .halt .. => true
  | .noticeDown .. => true
  | .noticeUp .. => true
  | .session .. => true
  | .sessionRekeyTimer .. => true
  | .oldKeyExpiry .. => true
  | .frameCrcFail .. => true
  | .laneFailure .. => true
  | .portRetrainDone .. => true
  | .portDown .. => true
  | .unreachableTimer .. => true
  | .flitCrcFail .. => true
  | .mbxTailWrite .. => true
  | .mbxEnable .. => true
  | .mbxDisable .. => true
  | .descriptorReadDone _ r => argBytes r ≤ 1048576
  | .evqEnable .. => true
  | .evqDisable .. => true
  | .evqConsWrite .. => true
  | .moderationTimer .. => true
  | .hostBar2BaseWrite .. => true
  | .pokeAdd .. => true
  | .pokeSet .. => true
  | .pokePut .. => true
  | .syncPokeValRead => true
  | .registerWrite a => a.wellFormed
  | .bar2Read off len => 1 ≤ len && len ≤ 4096 && off < 2 ^ 48
  | .bar2Write off bytes => 1 ≤ bytes.length && bytes.length ≤ 512 && off < 2 ^ 48
  | .bar2HoldTimeout k => k < 65536
  | .hostLinkRetrain .. => true
  | .linkReset => true
  | .sliceBind .. => true
  | .sliceBindUnbind .. => true
  | .sliceHaltPause .. => true
  | .sliceHaltStop .. => true
  | .domainOpen .. => true
  | .domainClose .. => true
  | .schedLoad .. => true
  | .schedUnload .. => true
  | .schedLaunch .. => true
  | .schedStop .. => true
  | .schedPreempt .. => true
  | .schedResume .. => true
  | .seqCreate .. => true
  | .seqFork .. => true
  | .seqTruncate .. => true
  | .seqFree .. => true
  | .ringForm .. => true
  | .ringDissolve .. => true
  | .ringBind .. => true
  | .ringUnbind .. => true
  | .groupSet .. => true
  | .groupClear .. => true
  | .preferNear .. => true
  | .preferFar .. => true
  | .noPreference .. => true
  | .pin .. => true
  | .unpin .. => true
  | .mirror .. => true
  | .unmirror .. => true
  | .source .. => true
  | .release .. => true
  | .horizon .. => true
  | .syncSignalAdd .. => true
  | .syncSignalSet .. => true
  | .syncSignalPut .. => true
  | .syncSignalTake .. => true
  | .syncSignalQuery .. => true
  | .notify .. => true
  | .wakeToleranceSet .. => true
  | .patrolScrub .. => true
  | .memoryRetraining .. => true
  | .linkRetraining .. => true
  | .timeResynchronisation .. => true
  | .thermalRecalibration .. => true
  | .maintInstanceEnd _ r => r.wellFormed
  | .maintStatus .. => true
  | .counterRead .. => true
  | .protNonceGet .. => true
  | .enroll .. => true
  | .routingUpdate .. => true
  | .domainPolicy .. => true
  | .fwPolicy .. => true
  | .keyRotate .. => true
  | .service .. => true
  | .nonceExpiry => true
  | .attestGet .. => true
  | .step .. => true
  | .trace .. => true
  | .memoryRead .. => true
  | .stepTileTake .. => true
  | .grantExpiry .. => true
  | .fwStage .. => true
  | .fwActivate .. => true
  | .fwReady => true
  | .scrubComplete => true
  | .getVersion => true
  | .getCapabilities => true
  | .negotiateAlgorithms => true
  | .getDigests => true
  | .getCertificate .. => true
  | .challenge .. => true
  | .getMeasurements .. => true
  | .keyExchange .. => true
  | .finish .. => true
  | .keyUpdate => true
  | .heartbeat => true
  | .endSession => true
  | .unsupportedSpdmRequest .. => true
  | .ideKm => true
  | .lockInterface => true
  | .startInterface => true
  | .stopInterface => true
  | .frozenRegisterWrite .. => true
  | .ideIntegrityFailure .. => true
  | .backingComplete .. => true
  | .promotionStart => true
  | .promotionComplete .. => true
  | .evictionScan .. => true
  | .evictionComplete .. => true
  | .moveWindow => true
  | .moveComplete .. => true
  | .uncorrectableError _ e => e.wellFormed
  | .restoreComplete .. => true
  | .restoreTimeout .. => true
  | .channelCrcFail _ _ _ w _ => w.all (fun p => p.2.length ≤ 64)
  | .stackUnresponsive .. => true
  | .cxlRequestTimeout .. => true
  | .cxlLinkDown .. => true
  | .powerMeasure w => w < 65536
  | .moduleRateDown => true
  | .moduleRateUp => true
  | .diePowerRateDown _ w => decide (w < 65536)
  | .diePowerRateUp _ w => decide (w < 65536)
  | .thermalRateDown .. => true
  | .thermalRateUp .. => true
  | .thermalTrip .. => true
  | .railLost .. => true
  | .pllLockLost => true
  | .powerApplied .. => true
  | .pwrGoodRise .. => true
  | .pwrGoodLow => true
  | .inputOutOfRange .. => true
  | .inputRecovered .. => true
  | .coldRst => true
  | .perst => true
  | .watchdogExpiry => true
  | .flashSel => true
  | .bringupEnd r => r.wellFormed
  | .idleI2Entry .. => true
  | .idleI3Entry .. => true
  | .idleI4Entry => true
  | .wakeSlot .. => true
  | .wakeDone .. => true
  | .smbusReadWord .. => true
  | .smbusAlertResponse => true
  | .smbusWrite => true
  | .smbusRefresh v => v.tDie.length = 4
  | .jtagInstruction .. => true
  | .perstRelease .. => true
  | .coldRstRelease .. => true
  | .flashSelRelease => true
  | .resizableBarWrite .. => true
  | .masterStartupTimer => true
  | .prefetchHorizonReached _ _ page => page < 65536
  | .leakSensorWet => true
  | .debugWorkEnd .. => true

end Sys2Proof
end

