-- ==== Sys2Proof/Laws/PerInstr.lean ====
section
/-! SUPPORT. Per command: every operand that Syntax leaves unbounded has at most 64 bits. -/

namespace Sys2Proof

/-- The operands that Syntax leaves unbounded, and the lengths of lists. -/
def Instr.numbers : Instr → List Nat
  | .nop .. => []
  | .sli .. => []
  | .salu .. => []
  | .scmp .. => []
  | .plog .. => []
  | .aadd .. => []
  | .sget .. => []
  | .lds .. => []
  | .sts .. => []
  | .br .. => []
  | .loop .. => []
  | .end_ .. => []
  | .mma .. => []
  | .vop .. => []
  | .sfn .. => []
  | .rowstat .. => []
  | .sqis .. => []
  | .smt .. => []
  | .aeq .. => []
  | .coll .. => []
  | .waitc .. => []
  | .sigc .. => []
  | .take .. => []
  | .put .. => []
  | .faa .. => []
  | .str .. => []
  | .blkcnt .. => []
  | .mxuBlockCheck .. => []
  | .unitInstructionComplete .. => []
  | .spinLimitReached .. => []
  | .contextSwitchDone .. => []
  | .waitMet .. => []
  | .waitCancelReply .. => []
  | .preemptDrainDone .. => []
  | .contextSaveDone .. => []
  | .contextRestoreDone .. => []
  | .syncRequest k => [k]
  | .transferStart .. => []
  | .streamRequestIssue .. => []
  | .streamRequestComplete _ k => [k]
  | .streamResume .. => []
  | .drainReady .. => []
  | .deadlineExpiry .. => []
  | .creditWatchExpiry .. => []
  | .stqCtlAbort .. => []
  | .smtComplete .. => []
  | .tunFillComplete .. => []
  | .aeDescriptorStart .. => []
  | .aeGroupBoundary .. => []
  | .aeGroupCheck .. => []
  | .aeDescriptorEnd .. => []
  | .aeContextSave .. => []
  | .extend .. => []
  | .truncate .. => []
  | .enter .. => []
  | .leave .. => []
  | .pageCopyDone .. => []
  | .forkPublished .. => []
  | .epochTick => []
  | .reclamationPass => []
  | .rotate .. => []
  | .circulate .. => []
  | .passBegin .. => []
  | .ringChunkArrival _ _ _ _ bytes => [bytes.length]
  | .slotFree .. => []
  | .ringAck .. => []
  | .hold .. => []
  | .resume .. => []
  | .ringAbandon .. => []
  | .brokenMessage .. => []
  | .ringDueTime .. => []
  | .ringBreakTimer .. => []
  | .grant _ g first count _ => [first, count, g.piece]
  | .collChunkArrival _ _ bytes => [bytes.length]
  | .collAck _ g k => [k, g.piece]
  | .nak _ g k => [k, g.piece]
  | .abandon _ g _ => [g.piece]
  | .collStallTimer .. => []
  | .chunkResendTimer .. => []
  | .write _ bytes => [bytes.length]
  | .signal .. => []
  | .ack .. => []
  | .deny .. => []
  | .ackFlush .. => []
  | .packetResendTimer .. => []
  | .creditReturn _ _ n => [n]
  | .creditStallTimer .. => []
  | .timeRequest _ t => [t]
  | .timeReply _ r => [r.t1, r.t2, r.t3, r.t4, r.corrQ, r.corrR]
  | .timeExchangeTimer => []
  | .holdoverTimer => []
  | .holdoverExpiry => []
  | .backupTakeover => []
  | .masterProbeTimer => []
  | .halt .. => []
  | .noticeDown .. => []
  | .noticeUp .. => []
  | .session .. => []
  | .sessionRekeyTimer .. => []
  | .oldKeyExpiry .. => []
  | .frameCrcFail .. => []
  | .laneFailure .. => []
  | .portRetrainDone .. => []
  | .portDown .. => []
  | .unreachableTimer .. => []
  | .flitCrcFail .. => []
  | .mbxTailWrite .. => []
  | .mbxEnable .. => []
  | .mbxDisable .. => []
  | .descriptorReadDone _ r => [argBytes r]
  | .evqEnable .. => []
  | .evqDisable .. => []
  | .evqConsWrite .. => []
  | .moderationTimer .. => []
  | .hostBar2BaseWrite .. => []
  | .pokeAdd .. => []
  | .pokeSet .. => []
  | .pokePut .. => []
  | .syncPokeValRead => []
  | .registerWrite .. => []
  | .bar2Read off len => [off, len]
  | .bar2Write off bytes => [off, bytes.length]
  | .bar2HoldTimeout k => [k]
  | .hostLinkRetrain .. => []
  | .linkReset => []
  | .sliceBind .. => []
  | .sliceBindUnbind .. => []
  | .sliceHaltPause .. => []
  | .sliceHaltStop .. => []
  | .domainOpen .. => []
  | .domainClose .. => []
  | .schedLoad .. => []
  | .schedUnload .. => []
  | .schedLaunch .. => []
  | .schedStop .. => []
  | .schedPreempt .. => []
  | .schedResume .. => []
  | .seqCreate .. => []
  | .seqFork .. => []
  | .seqTruncate .. => []
  | .seqFree .. => []
  | .ringForm .. => []
  | .ringDissolve .. => []
  | .ringBind .. => []
  | .ringUnbind .. => []
  | .groupSet .. => []
  | .groupClear .. => []
  | .preferNear .. => []
  | .preferFar .. => []
  | .noPreference .. => []
  | .pin .. => []
  | .unpin .. => []
  | .mirror .. => []
  | .unmirror .. => []
  | .source .. => []
  | .release .. => []
  | .horizon .. => []
  | .syncSignalAdd .. => []
  | .syncSignalSet .. => []
  | .syncSignalPut .. => []
  | .syncSignalTake .. => []
  | .syncSignalQuery .. => []
  | .notify .. => []
  | .wakeToleranceSet .. => []
  | .patrolScrub .. => []
  | .memoryRetraining .. => []
  | .linkRetraining .. => []
  | .timeResynchronisation .. => []
  | .thermalRecalibration .. => []
  | .maintInstanceEnd _ r => [r.weakGrains.length, r.corrections.length]
  | .maintStatus .. => []
  | .counterRead .. => []
  | .protNonceGet .. => []
  | .enroll .. => []
  | .routingUpdate .. => []
  | .domainPolicy .. => []
  | .fwPolicy .. => []
  | .keyRotate .. => []
  | .service .. => []
  | .nonceExpiry => []
  | .attestGet .. => []
  | .step .. => []
  | .trace .. => []
  | .memoryRead .. => []
  | .stepTileTake .. => []
  | .grantExpiry .. => []
  | .fwStage .. => []
  | .fwActivate .. => []
  | .fwReady => []
  | .scrubComplete => []
  | .getVersion => []
  | .getCapabilities => []
  | .negotiateAlgorithms => []
  | .getDigests => []
  | .getCertificate .. => []
  | .challenge .. => []
  | .getMeasurements .. => []
  | .keyExchange .. => []
  | .finish .. => []
  | .keyUpdate => []
  | .heartbeat => []
  | .endSession => []
  | .unsupportedSpdmRequest .. => []
  | .ideKm => []
  | .lockInterface => []
  | .startInterface => []
  | .stopInterface => []
  | .frozenRegisterWrite .. => []
  | .ideIntegrityFailure .. => []
  | .backingComplete .. => []
  | .promotionStart => []
  | .promotionComplete .. => []
  | .evictionScan .. => []
  | .evictionComplete .. => []
  | .moveWindow => []
  | .moveComplete .. => []
  | .uncorrectableError _ e => [e.errors.length]
  | .restoreComplete .. => []
  | .restoreTimeout .. => []
  | .channelCrcFail _ _ _ w _ => [(w.map (·.2.length)).getD 0]
  | .stackUnresponsive .. => []
  | .cxlRequestTimeout .. => []
  | .cxlLinkDown .. => []
  | .powerMeasure w => [w]
  | .moduleRateDown => []
  | .moduleRateUp => []
  | .diePowerRateDown _ w => [w]
  | .diePowerRateUp _ w => [w]
  | .thermalRateDown .. => []
  | .thermalRateUp .. => []
  | .thermalTrip .. => []
  | .railLost .. => []
  | .pllLockLost => []
  | .powerApplied .. => []
  | .pwrGoodRise .. => []
  | .pwrGoodLow => []
  | .inputOutOfRange .. => []
  | .inputRecovered .. => []
  | .coldRst => []
  | .perst => []
  | .watchdogExpiry => []
  | .flashSel => []
  | .bringupEnd r => [r.portWidth.length, r.cxlWidth.length, r.cxlFrames.length, r.cxlId.length]
  | .idleI2Entry .. => []
  | .idleI3Entry .. => []
  | .idleI4Entry => []
  | .wakeSlot .. => []
  | .wakeDone .. => []
  | .smbusReadWord .. => []
  | .smbusAlertResponse => []
  | .smbusWrite => []
  | .smbusRefresh v => [v.tDie.length]
  | .jtagInstruction .. => []
  | .perstRelease .. => []
  | .coldRstRelease .. => []
  | .flashSelRelease => []
  | .resizableBarWrite .. => []
  | .masterStartupTimer => []
  | .prefetchHorizonReached _ _ page => [page]
  | .leakSensorWet => []
  | .debugWorkEnd .. => []

namespace Laws.Operands

/-- A well-formed command's unbounded operands fit in 64 bits. -/
def Statement (i : Instr) : Prop := i.wellFormed = true → ∀ n ∈ i.numbers, n < 2 ^ 64

theorem fits {i : Instr} {w : Bool} {l : List Nat} (hw : i.wellFormed = w) (hn : i.numbers = l) (h : w = true → ∀ n ∈ l, n < 2 ^ 64) : Statement i :=
  fun e => hn ▸ h (hw ▸ e)

theorem nop (u : Issue) : Statement (.nop u) := fun _ _ h => nomatch h
theorem sli (u : Issue) (sd : Fin 32) (imm : BitVec 64) : Statement (.sli u sd imm) := fun _ _ h => nomatch h
theorem salu (u : Issue) (func : BitVec 6) (sd : Fin 32) (sa : Fin 32) (b : ScalarSrc) : Statement (.salu u func sd sa b) := fun _ _ h => nomatch h
theorem scmp (u : Issue) (pd : Fin 8) (cond : BitVec 4) (sa : Fin 32) (b : ScalarSrc) : Statement (.scmp u pd cond sa b) := fun _ _ h => nomatch h
theorem plog (u : Issue) (pd : Fin 8) (pa : Fin 8) (pb : Fin 8) (op : Fin 4) : Statement (.plog u pd pa pb op) := fun _ _ h => nomatch h
theorem aadd (u : Issue) (ad : Fin 16) (zeroBase : Bool) (aa : Fin 16) (sb : Fin 32) (imm : BitVec 48) : Statement (.aadd u ad zeroBase aa sb imm) := fun _ _ h => nomatch h
theorem sget (u : Issue) (sd : Fin 32) (src : BitVec 6) : Statement (.sget u sd src) := fun _ _ h => nomatch h
theorem lds (u : Issue) (a : ScalarMem) (sx : Bool) : Statement (.lds u a sx) := fun _ _ h => nomatch h
theorem sts (u : Issue) (a : ScalarMem) : Statement (.sts u a) := fun _ _ h => nomatch h
theorem br (u : Issue) (off : BitVec 32) : Statement (.br u off) := fun _ _ h => nomatch h
theorem loop (u : Issue) (level : Fin 8) (countInReg : Bool) (sc : Fin 32) (body : BitVec 16) (bound : BitVec 32) (imm : BitVec 32) : Statement (.loop u level countInReg sc body bound imm) := fun _ _ h => nomatch h
theorem end_ (u : Issue) : Statement (.end_ u) := fun _ _ h => nomatch h
theorem mma (u : Issue) (f : MmaFields) : Statement (.mma u f) := fun _ _ h => nomatch h
theorem vop (u : Issue) (f : VecFields) : Statement (.vop u f) := fun _ _ h => nomatch h
theorem sfn (u : Issue) (f : VecFields) : Statement (.sfn u f) := fun _ _ h => nomatch h
theorem rowstat (u : Issue) (f : VecFields) : Statement (.rowstat u f) := fun _ _ h => nomatch h
theorem sqis (u : Issue) (desc : BitVec 16) (queue : Fin 256) (aSrc : Option (Fin 16)) (aDst : Option (Fin 16)) (bnd : Fin 32) : Statement (.sqis u desc queue aSrc aDst bnd) := fun _ _ h => nomatch h
theorem smt (u : Issue) (f : SmtFields) : Statement (.smt u f) := fun _ _ h => nomatch h
theorem aeq (u : Issue) (desc : BitVec 16) (ae : Fin 32) (aeCtx : Fin 4) (bnd : Fin 32) : Statement (.aeq u desc ae aeCtx bnd) := fun _ _ h => nomatch h
theorem coll (u : Issue) (plan : BitVec 16) (aSrc : Option (Fin 16)) (aDst : Option (Fin 16)) : Statement (.coll u plan aSrc aDst) := fun _ _ h => nomatch h
theorem waitc (u : Issue) (vid : BitVec 16) (sThr : Fin 32) (imm : BitVec 32) : Statement (.waitc u vid sThr imm) := fun _ _ h => nomatch h
theorem sigc (u : Issue) (vid : BitVec 16) (sVal : Fin 32) (imm : BitVec 32) : Statement (.sigc u vid sVal imm) := fun _ _ h => nomatch h
theorem take (u : Issue) (vid : BitVec 16) (sd : Fin 32) : Statement (.take u vid sd) := fun _ _ h => nomatch h
theorem put (u : Issue) (vid : BitVec 16) (ss : Fin 32) : Statement (.put u vid ss) := fun _ _ h => nomatch h
theorem faa (u : Issue) (vid : BitVec 16) (sd : Fin 32) (sInc : Fin 32) (imm : BitVec 32) : Statement (.faa u vid sd sInc imm) := fun _ _ h => nomatch h
theorem str (u : Issue) (channel : Fin 16) (arriveOnly : Bool) : Statement (.str u channel arriveOnly) := fun _ _ h => nomatch h
theorem blkcnt (u : Issue) (operation : BitVec 8) (bnd : Fin 32) : Statement (.blkcnt u operation bnd) := fun _ _ h => nomatch h
theorem mxuBlockCheck (t : Fin 192) (mismatch : Option (Fin 128 × Fin 128)) : Statement (.mxuBlockCheck t mismatch) := fun _ _ h => nomatch h
theorem unitInstructionComplete (t : Fin 192) (sfu : Bool) : Statement (.unitInstructionComplete t sfu) := fun _ _ h => nomatch h
theorem spinLimitReached (t : Fin 192) (c : Fin 4) : Statement (.spinLimitReached t c) := fun _ _ h => nomatch h
theorem contextSwitchDone (t : Fin 192) (c : Fin 4) : Statement (.contextSwitchDone t c) := fun _ _ h => nomatch h
theorem waitMet (t : Fin 192) (c : Fin 4) : Statement (.waitMet t c) := fun _ _ h => nomatch h
theorem waitCancelReply (t : Fin 192) (c : Fin 4) : Statement (.waitCancelReply t c) := fun _ _ h => nomatch h
theorem preemptDrainDone (t : Fin 192) (c : Fin 4) : Statement (.preemptDrainDone t c) := fun _ _ h => nomatch h
theorem contextSaveDone (t : Fin 192) (c : Fin 4) : Statement (.contextSaveDone t c) := fun _ _ h => nomatch h
theorem contextRestoreDone (t : Fin 192) (c : Fin 4) : Statement (.contextRestoreDone t c) := fun _ _ h => nomatch h
theorem syncRequest (k : Nat) : Statement (.syncRequest k) :=
  fits (w := k < 2 ^ 32) (l := [k]) rfl rfl (by intro h; simp at h ⊢; omega)
theorem transferStart (q : Fin 256) : Statement (.transferStart q) := fun _ _ h => nomatch h
theorem streamRequestIssue (q : Fin 256) : Statement (.streamRequestIssue q) := fun _ _ h => nomatch h
theorem streamRequestComplete (q : Fin 256) (k : Nat) : Statement (.streamRequestComplete q k) :=
  fits (w := k < 65535) (l := [k]) rfl rfl (by intro h; simp at h ⊢; omega)
theorem streamResume (q : Fin 256) : Statement (.streamResume q) := fun _ _ h => nomatch h
theorem drainReady (q : Fin 256) : Statement (.drainReady q) := fun _ _ h => nomatch h
theorem deadlineExpiry (q : Fin 256) : Statement (.deadlineExpiry q) := fun _ _ h => nomatch h
theorem creditWatchExpiry (q : Fin 256) : Statement (.creditWatchExpiry q) := fun _ _ h => nomatch h
theorem stqCtlAbort (q : Fin 256) : Statement (.stqCtlAbort q) := fun _ _ h => nomatch h
theorem smtComplete (t : Fin 192) (c : Fin 4) : Statement (.smtComplete t c) := fun _ _ h => nomatch h
theorem tunFillComplete (die : Fin 4) (line : BitVec 38) : Statement (.tunFillComplete die line) := fun _ _ h => nomatch h
theorem aeDescriptorStart (ae : Fin 32) (c : Fin 4) : Statement (.aeDescriptorStart ae c) := fun _ _ h => nomatch h
theorem aeGroupBoundary (ae : Fin 32) : Statement (.aeGroupBoundary ae) := fun _ _ h => nomatch h
theorem aeGroupCheck (ae : Fin 32) (scores values adders : Bool) : Statement (.aeGroupCheck ae scores values adders) := fun _ _ h => nomatch h
theorem aeDescriptorEnd (ae : Fin 32) (c : Fin 4) : Statement (.aeDescriptorEnd ae c) := fun _ _ h => nomatch h
theorem aeContextSave (ae : Fin 32) (c : Fin 4) : Statement (.aeContextSave ae c) := fun _ _ h => nomatch h
theorem extend (t : Fin 192) (c : Fin 4) : Statement (.extend t c) := fun _ _ h => nomatch h
theorem truncate (t : Fin 192) (c : Fin 4) : Statement (.truncate t c) := fun _ _ h => nomatch h
theorem enter (t : Fin 192) (c : Fin 4) : Statement (.enter t c) := fun _ _ h => nomatch h
theorem leave (t : Fin 192) (c : Fin 4) : Statement (.leave t c) := fun _ _ h => nomatch h
theorem pageCopyDone (h : BitVec 17) : Statement (.pageCopyDone h) := fun _ _ h => nomatch h
theorem forkPublished (h : BitVec 17) : Statement (.forkPublished h) := fun _ _ h => nomatch h
theorem epochTick : Statement (.epochTick) := fun _ _ h => nomatch h
theorem reclamationPass : Statement (.reclamationPass) := fun _ _ h => nomatch h
theorem rotate (t : Fin 192) (c : Fin 4) : Statement (.rotate t c) := fun _ _ h => nomatch h
theorem circulate (t : Fin 192) (c : Fin 4) : Statement (.circulate t c) := fun _ _ h => nomatch h
theorem passBegin (b : Fin 16384) : Statement (.passBegin b) := fun _ _ h => nomatch h
theorem ringChunkArrival (p : PktHdr) (h : RingHdr) (d : RingData) (first : Option RingFirst) (bytes : List Byte) : Statement (.ringChunkArrival p h d first bytes) :=
  fits (w := d.wellFormed && 1 ≤ bytes.length && bytes.length ≤ 65536 && first.all (fun f => f.wellFormed)) (l := [bytes.length]) rfl rfl (by intro h; simp at h ⊢; omega)
theorem slotFree (p : PktHdr) (h : RingHdr) (visitor : Fin 3) : Statement (.slotFree p h visitor) := fun _ _ h => nomatch h
theorem ringAck (p : PktHdr) (h : RingHdr) (d : RingData) : Statement (.ringAck p h d) := fun _ _ h => nomatch h
theorem hold (p : PktHdr) (h : RingHdr) : Statement (.hold p h) := fun _ _ h => nomatch h
theorem resume (p : PktHdr) (h : RingHdr) : Statement (.resume p h) := fun _ _ h => nomatch h
theorem ringAbandon (p : PktHdr) (h : RingHdr) : Statement (.ringAbandon p h) := fun _ _ h => nomatch h
theorem brokenMessage (p : PktHdr) (h : RingHdr) : Statement (.brokenMessage p h) := fun _ _ h => nomatch h
theorem ringDueTime (b : Fin 16384) : Statement (.ringDueTime b) := fun _ _ h => nomatch h
theorem ringBreakTimer (b : Fin 16384) : Statement (.ringBreakTimer b) := fun _ _ h => nomatch h
theorem grant (p : PktHdr) (g : CollMsg) (firstChunk : Nat) (count : Nat) (plan : Option CollPlanItems) : Statement (.grant p g firstChunk count plan) :=
  fits (w := g.wellFormed && firstChunk < 65536 && count < 65536) (l := [firstChunk, count, g.piece]) rfl rfl (by intro h; simp [CollMsg.wellFormed] at h ⊢; omega)
theorem collChunkArrival (p : PktHdr) (header : BitVec 512) (payload : List Byte) : Statement (.collChunkArrival p header payload) :=
  fits (w := 1 ≤ payload.length && payload.length ≤ 65536) (l := [payload.length]) rfl rfl (by intro h; simp at h ⊢; omega)
theorem collAck (p : PktHdr) (g : CollMsg) (chunk : Nat) : Statement (.collAck p g chunk) :=
  fits (w := g.wellFormed && chunk < 65536) (l := [chunk, g.piece]) rfl rfl (by intro h; simp [CollMsg.wellFormed] at h ⊢; omega)
theorem nak (p : PktHdr) (g : CollMsg) (chunk : Nat) : Statement (.nak p g chunk) :=
  fits (w := g.wellFormed && chunk < 65536) (l := [chunk, g.piece]) rfl rfl (by intro h; simp [CollMsg.wellFormed] at h ⊢; omega)
theorem abandon (p : PktHdr) (g : CollMsg) (status : BitVec 8) : Statement (.abandon p g status) :=
  fits (w := g.wellFormed) (l := [g.piece]) rfl rfl (by intro h; simp [CollMsg.wellFormed] at h ⊢; omega)
theorem collStallTimer (group : BitVec 12) (seq : BitVec 32) : Statement (.collStallTimer group seq) := fun _ _ h => nomatch h
theorem chunkResendTimer (u : ChunkId) : Statement (.chunkResendTimer u) := fun _ _ h => nomatch h
theorem write (p : PktHdr) (payload : List Byte) : Statement (.write p payload) :=
  fits (w := 1 ≤ payload.length && payload.length ≤ 256) (l := [payload.length]) rfl rfl (by intro h; simp at h ⊢; omega)
theorem signal (p : PktHdr) : Statement (.signal p) := fun _ _ h => nomatch h
theorem ack (p : PktHdr) : Statement (.ack p) := fun _ _ h => nomatch h
theorem deny (p : PktHdr) : Statement (.deny p) := fun _ _ h => nomatch h
theorem ackFlush (src : BitVec 12) : Statement (.ackFlush src) := fun _ _ h => nomatch h
theorem packetResendTimer (dst : BitVec 12) (xfer : BitVec 16) (index : BitVec 24) : Statement (.packetResendTimer dst xfer index) := fun _ _ h => nomatch h
theorem creditReturn (port : Fin 8) (cls : Fin 3) (n : Nat) : Statement (.creditReturn port cls n) :=
  fits (w := 1 ≤ n && n < 65536) (l := [n]) rfl rfl (by intro h; simp at h ⊢; omega)
theorem creditStallTimer (port : Fin 8) (cls : Fin 2) : Statement (.creditStallTimer port cls) := fun _ _ h => nomatch h
theorem timeRequest (p : PktHdr) (t1 : Nat) : Statement (.timeRequest p t1) :=
  fits (w := t1 < 2 ^ 64) (l := [t1]) rfl rfl (by intro h; simp at h ⊢; omega)
theorem timeReply (p : PktHdr) (r : TimeReply) : Statement (.timeReply p r) :=
  fits (w := r.wellFormed) (l := [r.t1, r.t2, r.t3, r.t4, r.corrQ, r.corrR]) rfl rfl (by intro h; simp [TimeReply.wellFormed] at h ⊢; omega)
theorem timeExchangeTimer : Statement (.timeExchangeTimer) := fun _ _ h => nomatch h
theorem holdoverTimer : Statement (.holdoverTimer) := fun _ _ h => nomatch h
theorem holdoverExpiry : Statement (.holdoverExpiry) := fun _ _ h => nomatch h
theorem backupTakeover : Statement (.backupTakeover) := fun _ _ h => nomatch h
theorem masterProbeTimer : Statement (.masterProbeTimer) := fun _ _ h => nomatch h
theorem halt (p : PktHdr) (stop : Bool) : Statement (.halt p stop) := fun _ _ h => nomatch h
theorem noticeDown (p : PktHdr) : Statement (.noticeDown p) := fun _ _ h => nomatch h
theorem noticeUp (p : PktHdr) : Statement (.noticeUp p) := fun _ _ h => nomatch h
theorem session (p : PktHdr) (msg : SessionMsg) : Statement (.session p msg) := fun _ _ h => nomatch h
theorem sessionRekeyTimer (peer : BitVec 12) : Statement (.sessionRekeyTimer peer) := fun _ _ h => nomatch h
theorem oldKeyExpiry (peer : BitVec 12) : Statement (.oldKeyExpiry peer) := fun _ _ h => nomatch h
theorem frameCrcFail (port : Fin 8) : Statement (.frameCrcFail port) := fun _ _ h => nomatch h
theorem laneFailure (port : Fin 8) (lanes : BitVec 4) : Statement (.laneFailure port lanes) := fun _ _ h => nomatch h
theorem portRetrainDone (port : Fin 8) : Statement (.portRetrainDone port) := fun _ _ h => nomatch h
theorem portDown (port : Fin 8) : Statement (.portDown port) := fun _ _ h => nomatch h
theorem unreachableTimer (dst : BitVec 12) : Statement (.unreachableTimer dst) := fun _ _ h => nomatch h
theorem flitCrcFail (link : Fin 10) (replayed : Bool) : Statement (.flitCrcFail link replayed) := fun _ _ h => nomatch h
theorem mbxTailWrite (m : Fin 8) (v : BitVec 12) : Statement (.mbxTailWrite m v) := fun _ _ h => nomatch h
theorem mbxEnable (m : Fin 8) (log2 : BitVec 4) : Statement (.mbxEnable m log2) := fun _ _ h => nomatch h
theorem mbxDisable (m : Fin 8) : Statement (.mbxDisable m) := fun _ _ h => nomatch h
theorem descriptorReadDone (m : Fin 8) (r : Option (BitVec 512 × List Byte)) : Statement (.descriptorReadDone m r) :=
  fits (w := argBytes r ≤ 1048576) (l := [argBytes r]) rfl rfl (by intro h; simp at h ⊢; omega)
theorem evqEnable (q : Fin 4) (ctl : BitVec 64) : Statement (.evqEnable q ctl) := fun _ _ h => nomatch h
theorem evqDisable (q : Fin 4) (ctl : BitVec 64) : Statement (.evqDisable q ctl) := fun _ _ h => nomatch h
theorem evqConsWrite (q : Fin 4) (v : BitVec 32) : Statement (.evqConsWrite q v) := fun _ _ h => nomatch h
theorem moderationTimer (q : Fin 4) : Statement (.moderationTimer q) := fun _ _ h => nomatch h
theorem hostBar2BaseWrite (v : BitVec 64) : Statement (.hostBar2BaseWrite v) := fun _ _ h => nomatch h
theorem pokeAdd (v : BitVec 64) : Statement (.pokeAdd v) := fun _ _ h => nomatch h
theorem pokeSet (v : BitVec 64) : Statement (.pokeSet v) := fun _ _ h => nomatch h
theorem pokePut (v : BitVec 64) : Statement (.pokePut v) := fun _ _ h => nomatch h
theorem syncPokeValRead : Statement (.syncPokeValRead) := fun _ _ h => nomatch h
theorem registerWrite (a : RegAccess) : Statement (.registerWrite a) := fun _ _ h => nomatch h
theorem bar2Read (off : Nat) (len : Nat) : Statement (.bar2Read off len) :=
  fits (w := 1 ≤ len && len ≤ 4096 && off < 2 ^ 48) (l := [off, len]) rfl rfl (by intro h; simp at h ⊢; omega)
theorem bar2Write (off : Nat) (bytes : List Byte) : Statement (.bar2Write off bytes) :=
  fits (w := 1 ≤ bytes.length && bytes.length ≤ 512 && off < 2 ^ 48) (l := [off, bytes.length]) rfl rfl (by intro h; simp at h ⊢; omega)
theorem bar2HoldTimeout (k : Nat) : Statement (.bar2HoldTimeout k) :=
  fits (w := k < 65536) (l := [k]) rfl rfl (by intro h; simp at h ⊢; omega)
theorem hostLinkRetrain (rate : BitVec 8) (width : BitVec 8) : Statement (.hostLinkRetrain rate width) := fun _ _ h => nomatch h
theorem linkReset : Statement (.linkReset) := fun _ _ h => nomatch h
theorem sliceBind (m : Fin 8) : Statement (.sliceBind m) := fun _ _ h => nomatch h
theorem sliceBindUnbind (m : Fin 8) : Statement (.sliceBindUnbind m) := fun _ _ h => nomatch h
theorem sliceHaltPause (m : Fin 8) : Statement (.sliceHaltPause m) := fun _ _ h => nomatch h
theorem sliceHaltStop (m : Fin 8) : Statement (.sliceHaltStop m) := fun _ _ h => nomatch h
theorem domainOpen (m : Fin 8) : Statement (.domainOpen m) := fun _ _ h => nomatch h
theorem domainClose (m : Fin 8) : Statement (.domainClose m) := fun _ _ h => nomatch h
theorem schedLoad (m : Fin 8) : Statement (.schedLoad m) := fun _ _ h => nomatch h
theorem schedUnload (m : Fin 8) : Statement (.schedUnload m) := fun _ _ h => nomatch h
theorem schedLaunch (m : Fin 8) : Statement (.schedLaunch m) := fun _ _ h => nomatch h
theorem schedStop (m : Fin 8) : Statement (.schedStop m) := fun _ _ h => nomatch h
theorem schedPreempt (m : Fin 8) : Statement (.schedPreempt m) := fun _ _ h => nomatch h
theorem schedResume (m : Fin 8) : Statement (.schedResume m) := fun _ _ h => nomatch h
theorem seqCreate (m : Fin 8) : Statement (.seqCreate m) := fun _ _ h => nomatch h
theorem seqFork (m : Fin 8) : Statement (.seqFork m) := fun _ _ h => nomatch h
theorem seqTruncate (m : Fin 8) : Statement (.seqTruncate m) := fun _ _ h => nomatch h
theorem seqFree (m : Fin 8) : Statement (.seqFree m) := fun _ _ h => nomatch h
theorem ringForm (m : Fin 8) : Statement (.ringForm m) := fun _ _ h => nomatch h
theorem ringDissolve (m : Fin 8) : Statement (.ringDissolve m) := fun _ _ h => nomatch h
theorem ringBind (m : Fin 8) : Statement (.ringBind m) := fun _ _ h => nomatch h
theorem ringUnbind (m : Fin 8) : Statement (.ringUnbind m) := fun _ _ h => nomatch h
theorem groupSet (m : Fin 8) : Statement (.groupSet m) := fun _ _ h => nomatch h
theorem groupClear (m : Fin 8) : Statement (.groupClear m) := fun _ _ h => nomatch h
theorem preferNear (m : Fin 8) : Statement (.preferNear m) := fun _ _ h => nomatch h
theorem preferFar (m : Fin 8) : Statement (.preferFar m) := fun _ _ h => nomatch h
theorem noPreference (m : Fin 8) : Statement (.noPreference m) := fun _ _ h => nomatch h
theorem pin (m : Fin 8) : Statement (.pin m) := fun _ _ h => nomatch h
theorem unpin (m : Fin 8) : Statement (.unpin m) := fun _ _ h => nomatch h
theorem mirror (m : Fin 8) : Statement (.mirror m) := fun _ _ h => nomatch h
theorem unmirror (m : Fin 8) : Statement (.unmirror m) := fun _ _ h => nomatch h
theorem source (m : Fin 8) : Statement (.source m) := fun _ _ h => nomatch h
theorem release (m : Fin 8) : Statement (.release m) := fun _ _ h => nomatch h
theorem horizon (m : Fin 8) : Statement (.horizon m) := fun _ _ h => nomatch h
theorem syncSignalAdd (m : Fin 8) : Statement (.syncSignalAdd m) := fun _ _ h => nomatch h
theorem syncSignalSet (m : Fin 8) : Statement (.syncSignalSet m) := fun _ _ h => nomatch h
theorem syncSignalPut (m : Fin 8) : Statement (.syncSignalPut m) := fun _ _ h => nomatch h
theorem syncSignalTake (m : Fin 8) : Statement (.syncSignalTake m) := fun _ _ h => nomatch h
theorem syncSignalQuery (m : Fin 8) : Statement (.syncSignalQuery m) := fun _ _ h => nomatch h
theorem notify (m : Fin 8) : Statement (.notify m) := fun _ _ h => nomatch h
theorem wakeToleranceSet (m : Fin 8) : Statement (.wakeToleranceSet m) := fun _ _ h => nomatch h
theorem patrolScrub (m : Fin 8) : Statement (.patrolScrub m) := fun _ _ h => nomatch h
theorem memoryRetraining (m : Fin 8) : Statement (.memoryRetraining m) := fun _ _ h => nomatch h
theorem linkRetraining (m : Fin 8) : Statement (.linkRetraining m) := fun _ _ h => nomatch h
theorem timeResynchronisation (m : Fin 8) : Statement (.timeResynchronisation m) := fun _ _ h => nomatch h
theorem thermalRecalibration (m : Fin 8) : Statement (.thermalRecalibration m) := fun _ _ h => nomatch h
theorem maintInstanceEnd (inst : BitVec 32) (r : MaintResult) : Statement (.maintInstanceEnd inst r) :=
  fits (w := r.wellFormed) (l := [r.weakGrains.length, r.corrections.length]) rfl rfl (by intro h; simp [MaintResult.wellFormed] at h ⊢; omega)
theorem maintStatus (m : Fin 8) : Statement (.maintStatus m) := fun _ _ h => nomatch h
theorem counterRead (m : Fin 8) : Statement (.counterRead m) := fun _ _ h => nomatch h
theorem protNonceGet (m : Fin 8) : Statement (.protNonceGet m) := fun _ _ h => nomatch h
theorem enroll (m : Fin 8) : Statement (.enroll m) := fun _ _ h => nomatch h
theorem routingUpdate (m : Fin 8) : Statement (.routingUpdate m) := fun _ _ h => nomatch h
theorem domainPolicy (m : Fin 8) : Statement (.domainPolicy m) := fun _ _ h => nomatch h
theorem fwPolicy (m : Fin 8) : Statement (.fwPolicy m) := fun _ _ h => nomatch h
theorem keyRotate (m : Fin 8) : Statement (.keyRotate m) := fun _ _ h => nomatch h
theorem service (m : Fin 8) : Statement (.service m) := fun _ _ h => nomatch h
theorem nonceExpiry : Statement (.nonceExpiry) := fun _ _ h => nomatch h
theorem attestGet (m : Fin 8) : Statement (.attestGet m) := fun _ _ h => nomatch h
theorem step (m : Fin 8) : Statement (.step m) := fun _ _ h => nomatch h
theorem trace (m : Fin 8) : Statement (.trace m) := fun _ _ h => nomatch h
theorem memoryRead (m : Fin 8) : Statement (.memoryRead m) := fun _ _ h => nomatch h
theorem stepTileTake (g : BitVec 32) : Statement (.stepTileTake g) := fun _ _ h => nomatch h
theorem grantExpiry (g : BitVec 32) : Statement (.grantExpiry g) := fun _ _ h => nomatch h
theorem fwStage (m : Fin 8) : Statement (.fwStage m) := fun _ _ h => nomatch h
theorem fwActivate (m : Fin 8) : Statement (.fwActivate m) := fun _ _ h => nomatch h
theorem fwReady : Statement (.fwReady) := fun _ _ h => nomatch h
theorem scrubComplete : Statement (.scrubComplete) := fun _ _ h => nomatch h
theorem getVersion : Statement (.getVersion) := fun _ _ h => nomatch h
theorem getCapabilities : Statement (.getCapabilities) := fun _ _ h => nomatch h
theorem negotiateAlgorithms : Statement (.negotiateAlgorithms) := fun _ _ h => nomatch h
theorem getDigests : Statement (.getDigests) := fun _ _ h => nomatch h
theorem getCertificate (slot : Fin 8) : Statement (.getCertificate slot) := fun _ _ h => nomatch h
theorem challenge (slot : Fin 8) (nonce : BitVec 256) : Statement (.challenge slot nonce) := fun _ _ h => nomatch h
theorem getMeasurements (index : BitVec 8) (nonce : BitVec 256) : Statement (.getMeasurements index nonce) := fun _ _ h => nomatch h
theorem keyExchange (exchange : BitVec 768) : Statement (.keyExchange exchange) := fun _ _ h => nomatch h
theorem finish (verified : Bool) : Statement (.finish verified) := fun _ _ h => nomatch h
theorem keyUpdate : Statement (.keyUpdate) := fun _ _ h => nomatch h
theorem heartbeat : Statement (.heartbeat) := fun _ _ h => nomatch h
theorem endSession : Statement (.endSession) := fun _ _ h => nomatch h
theorem unsupportedSpdmRequest (code : BitVec 8) : Statement (.unsupportedSpdmRequest code) := fun _ _ h => nomatch h
theorem ideKm : Statement (.ideKm) := fun _ _ h => nomatch h
theorem lockInterface : Statement (.lockInterface) := fun _ _ h => nomatch h
theorem startInterface : Statement (.startInterface) := fun _ _ h => nomatch h
theorem stopInterface : Statement (.stopInterface) := fun _ _ h => nomatch h
theorem frozenRegisterWrite (r : FrozenReg) (v : BitVec 64) : Statement (.frozenRegisterWrite r v) := fun _ _ h => nomatch h
theorem ideIntegrityFailure (sessionLost : Bool) : Statement (.ideIntegrityFailure sessionLost) := fun _ _ h => nomatch h
theorem backingComplete (g : BitVec 28) : Statement (.backingComplete g) := fun _ _ h => nomatch h
theorem promotionStart : Statement (.promotionStart) := fun _ _ h => nomatch h
theorem promotionComplete (g : BitVec 28) : Statement (.promotionComplete g) := fun _ _ h => nomatch h
theorem evictionScan (late : List (BitVec 28)) : Statement (.evictionScan late) := fun _ _ h => nomatch h
theorem evictionComplete (g : BitVec 28) : Statement (.evictionComplete g) := fun _ _ h => nomatch h
theorem moveWindow : Statement (.moveWindow) := fun _ _ h => nomatch h
theorem moveComplete (g : BitVec 28) : Statement (.moveComplete g) := fun _ _ h => nomatch h
theorem uncorrectableError (g : BitVec 28) (e : CopyError) : Statement (.uncorrectableError g e) :=
  fits (w := e.wellFormed) (l := [e.errors.length]) rfl rfl (by intro h; simp [CopyError.wellFormed] at h ⊢; omega)
theorem restoreComplete (g : BitVec 28) (r : RestoreResult) : Statement (.restoreComplete g r) := fun _ _ h => nomatch h
theorem restoreTimeout (g : BitVec 28) : Statement (.restoreTimeout g) := fun _ _ h => nomatch h
theorem channelCrcFail (stack : Fin 24) (channel : Fin 4) (g : BitVec 28) (write : Option (Fin 1024 × List (BitVec 8))) (failures : Fin 6) : Statement (.channelCrcFail stack channel g write failures) :=
  fits (w := write.all (fun p => p.2.length ≤ 64)) (l := [(write.map (·.2.length)).getD 0]) rfl rfl (by cases write <;> simp; omega)
theorem stackUnresponsive (stack : Fin 24) : Statement (.stackUnresponsive stack) := fun _ _ h => nomatch h
theorem cxlRequestTimeout (port : Fin 2) (g : BitVec 28) : Statement (.cxlRequestTimeout port g) := fun _ _ h => nomatch h
theorem cxlLinkDown (port : Fin 2) : Statement (.cxlLinkDown port) := fun _ _ h => nomatch h
theorem powerMeasure (watts : Nat) : Statement (.powerMeasure watts) :=
  fits (w := watts < 65536) (l := [watts]) rfl rfl (by intro h; simp at h ⊢; omega)
theorem moduleRateDown : Statement (.moduleRateDown) := fun _ _ h => nomatch h
theorem moduleRateUp : Statement (.moduleRateUp) := fun _ _ h => nomatch h
theorem diePowerRateDown (die : Fin 4) (watts : Nat) : Statement (.diePowerRateDown die watts) :=
  fits (w := watts < 65536) (l := [watts]) rfl rfl (by intro h; simp at h ⊢; omega)
theorem diePowerRateUp (die : Fin 4) (watts : Nat) : Statement (.diePowerRateUp die watts) :=
  fits (w := watts < 65536) (l := [watts]) rfl rfl (by intro h; simp at h ⊢; omega)
theorem thermalRateDown (die : Fin 4) : Statement (.thermalRateDown die) := fun _ _ h => nomatch h
theorem thermalRateUp (die : Fin 4) : Statement (.thermalRateUp die) := fun _ _ h => nomatch h
theorem thermalTrip (die : Fin 4) : Statement (.thermalTrip die) := fun _ _ h => nomatch h
theorem railLost (die : Fin 4) : Statement (.railLost die) := fun _ _ h => nomatch h
theorem pllLockLost : Statement (.pllLockLost) := fun _ _ h => nomatch h
theorem powerApplied (ga : BitVec 6) : Statement (.powerApplied ga) := fun _ _ h => nomatch h
theorem pwrGoodRise (ga : BitVec 6) : Statement (.pwrGoodRise ga) := fun _ _ h => nomatch h
theorem pwrGoodLow : Statement (.pwrGoodLow) := fun _ _ h => nomatch h
theorem inputOutOfRange (below40 : Bool) : Statement (.inputOutOfRange below40) := fun _ _ h => nomatch h
theorem inputRecovered (ga : BitVec 6) : Statement (.inputRecovered ga) := fun _ _ h => nomatch h
theorem coldRst : Statement (.coldRst) := fun _ _ h => nomatch h
theorem perst : Statement (.perst) := fun _ _ h => nomatch h
theorem watchdogExpiry : Statement (.watchdogExpiry) := fun _ _ h => nomatch h
theorem flashSel : Statement (.flashSel) := fun _ _ h => nomatch h
theorem bringupEnd (r : BringupResult) : Statement (.bringupEnd r) :=
  fits (w := r.wellFormed) (l := [r.portWidth.length, r.cxlWidth.length, r.cxlFrames.length, r.cxlId.length]) rfl rfl (by intro h; simp [BringupResult.wellFormed] at h ⊢; omega)
theorem idleI2Entry (u : IdleUnit) : Statement (.idleI2Entry u) := fun _ _ h => nomatch h
theorem idleI3Entry (die : Fin 4) : Statement (.idleI3Entry die) := fun _ _ h => nomatch h
theorem idleI4Entry : Statement (.idleI4Entry) := fun _ _ h => nomatch h
theorem wakeSlot (u : IdleUnit) : Statement (.wakeSlot u) := fun _ _ h => nomatch h
theorem wakeDone (u : IdleUnit) : Statement (.wakeDone u) := fun _ _ h => nomatch h
theorem smbusReadWord (cmd : BitVec 8) : Statement (.smbusReadWord cmd) := fun _ _ h => nomatch h
theorem smbusAlertResponse : Statement (.smbusAlertResponse) := fun _ _ h => nomatch h
theorem smbusWrite : Statement (.smbusWrite) := fun _ _ h => nomatch h
theorem smbusRefresh (v : Telemetry) : Statement (.smbusRefresh v) :=
  fits (w := v.tDie.length = 4) (l := [v.tDie.length]) rfl rfl (by intro h; simp at h ⊢; omega)
theorem jtagInstruction (internal : Bool) (data : BitVec 64) : Statement (.jtagInstruction internal data) := fun _ _ h => nomatch h
theorem perstRelease (ga : BitVec 6) : Statement (.perstRelease ga) := fun _ _ h => nomatch h
theorem coldRstRelease (ga : BitVec 6) : Statement (.coldRstRelease ga) := fun _ _ h => nomatch h
theorem flashSelRelease : Statement (.flashSelRelease) := fun _ _ h => nomatch h
theorem resizableBarWrite (log2Size : Fin 6) : Statement (.resizableBarWrite log2Size) := fun _ _ h => nomatch h
theorem masterStartupTimer : Statement (.masterStartupTimer) := fun _ _ h => nomatch h
theorem prefetchHorizonReached (h : BitVec 17) (layer : BitVec 8) (page : Nat) : Statement (.prefetchHorizonReached h layer page) :=
  fits (w := page < 65536) (l := [page]) rfl rfl (by intro h; simp at h ⊢; omega)
theorem leakSensorWet : Statement (.leakSensorWet) := fun _ _ h => nomatch h
theorem debugWorkEnd (g : BitVec 32) : Statement (.debugWorkEnd g) := fun _ _ h => nomatch h

end Laws.Operands

end Sys2Proof
end

