-- ==== Sys2Proof/Laws/Tab.lean ====
section
/-! SUPPORT. The laws of sparse tables and memories: read after write, and the canonical form. -/

namespace Sys2Proof.Machine

theorem tabGet_ins {α : Type} (d : α) (i : Nat) (v : α) (t : Tab α) (j : Nat)
    (h : ∀ e ∈ t, e.1 ≠ i) : tabGet d (tabIns i v t) j = if i = j then v else tabGet d t j := by
  induction t with
  | nil => simp [tabIns, tabGet]
  | cons e t ih =>
    obtain ⟨k, w⟩ := e
    have hk : k ≠ i := h (k, w) (by simp)
    have ih' := ih (fun e he => h e (by simp [he]))
    simp only [tabIns]
    split
    · simp [tabGet]
    · simp only [tabGet, ih']
      by_cases hkj : k = j
      · have : ¬ i = j := by omega
        simp [hkj, this]
      · simp [hkj]

theorem tabGet_del {α : Type} (d : α) (i : Nat) (t : Tab α) (j : Nat) :
    tabGet d (tabDel i t) j = if i = j then d else tabGet d t j := by
  induction t with
  | nil => simp [tabDel, tabGet]
  | cons e t ih =>
    obtain ⟨k, w⟩ := e
    simp only [tabDel] at ih ⊢
    by_cases hk : k = i
    · subst hk
      simp only [List.filter_cons, bne_self_eq_false, Bool.false_eq_true, ↓reduceIte, ih, tabGet]
      by_cases h : k = j <;> simp [h]
    · have hb : (k != i) = true := by simp [hk]
      simp only [List.filter_cons, hb, ↓reduceIte, tabGet, ih]
      by_cases h : k = j
      · have : ¬ i = j := by omega
        simp [h, this]
      · simp [h]

theorem mem_tabDel_ne {α : Type} {i : Nat} {t : Tab α} {e : Nat × α} (h : e ∈ tabDel i t) : e.1 ≠ i := by
  simp [tabDel] at h; exact h.2

/-- Read after write: the written index holds the written value, every other index what it held. -/
@[simp] theorem tabGet_put {α : Type} [DecidableEq α] (d : α) (t : Tab α) (i : Nat) (v : α) (j : Nat) :
    tabGet d (tabPut d t i v) j = if i = j then v else tabGet d t j := by
  unfold tabPut
  split
  · subst_vars; rw [tabGet_del]
  · rw [tabGet_ins d i v _ j (fun e he => mem_tabDel_ne he), tabGet_del]
    by_cases h : i = j <;> simp [h]

theorem mem_tabIns {α : Type} {i : Nat} {v : α} {t : Tab α} {e : Nat × α} (h : e ∈ tabIns i v t) :
    e = (i, v) ∨ e ∈ t := by
  induction t with
  | nil => simp [tabIns] at h; exact .inl h
  | cons x t ih =>
    obtain ⟨k, w⟩ := x
    simp only [tabIns] at h
    split at h
    · simp at h; simpa using h
    · simp at h
      rcases h with h | h
      · simp [h]
      · rcases ih h with h | h <;> simp [h]

theorem tabWf_filter {α : Type} [DecidableEq α] {d : α} {t : Tab α} (p : Nat × α → Bool)
    (h : tabWf d t = true) : tabWf d (t.filter p) = true := by
  induction t with
  | nil => simp [tabWf]
  | cons e t ih =>
    obtain ⟨k, v⟩ := e
    simp only [tabWf, Bool.and_eq_true, List.all_eq_true, decide_eq_true_eq] at h
    have ih' := ih h.2
    simp only [List.filter]
    split
    · simp only [tabWf, Bool.and_eq_true, List.all_eq_true, decide_eq_true_eq]
      exact ⟨⟨h.1.1, fun e he => h.1.2 e ((List.mem_filter.mp he).1)⟩, ih'⟩
    · exact ih'

theorem tabWf_ins {α : Type} [DecidableEq α] {d : α} {t : Tab α} {i : Nat} {v : α} (hv : v ≠ d)
    (hn : ∀ e ∈ t, e.1 ≠ i) (h : tabWf d t = true) : tabWf d (tabIns i v t) = true := by
  induction t with
  | nil => simp [tabIns, tabWf, hv]
  | cons e t ih =>
    obtain ⟨k, w⟩ := e
    have hk : k ≠ i := hn (k, w) (by simp)
    simp only [tabWf, Bool.and_eq_true, List.all_eq_true, decide_eq_true_eq] at h
    simp only [tabIns]
    split
    · simp only [tabWf, Bool.and_eq_true, List.all_eq_true, decide_eq_true_eq]
      refine ⟨⟨hv, ?_⟩, ⟨h.1.1, h.1.2⟩, h.2⟩
      intro e he
      simp at he
      rcases he with he | he
      · subst he; assumption
      · have := h.1.2 e he; omega
    · simp only [tabWf, Bool.and_eq_true, List.all_eq_true, decide_eq_true_eq]
      refine ⟨⟨h.1.1, ?_⟩, ih (fun e he => hn e (by simp [he])) h.2⟩
      intro e he
      rcases mem_tabIns he with he | he
      · subst he; show k < i; omega
      · exact h.1.2 e he

/-- A write keeps the canonical form. -/
theorem tabWf_put {α : Type} [DecidableEq α] {d : α} {t : Tab α} (i : Nat) (v : α) (h : tabWf d t = true) :
    tabWf d (tabPut d t i v) = true := by
  unfold tabPut
  split
  · exact tabWf_filter _ h
  · exact tabWf_ins ‹_› (fun e he => mem_tabDel_ne he) (tabWf_filter _ h)

theorem memWf_write {m : Mem} (a : Nat) (l : List Byte) (h : memWf m = true) : memWf (memWrite m a l) = true := by
  induction l generalizing m a with
  | nil => exact h
  | cons b t ih => exact ih _ (tabWf_put a b h)

theorem memWf_zero {m : Mem} (a n : Nat) (h : memWf m = true) : memWf (memZero m a n) = true :=
  tabWf_filter _ h

/-- Zeroed bytes read 0, every other byte what it held. -/
theorem memGet_zero (m : Mem) (a n x : Nat) : memGet (memZero m a n) x = if a ≤ x ∧ x < a + n then 0 else memGet m x := by
  unfold memGet memZero
  induction m with
  | nil => simp [tabGet]
  | cons e m ih =>
    obtain ⟨k, v⟩ := e
    rw [List.filter_cons]
    by_cases hk : a ≤ k ∧ k < a + n
    · rw [if_neg (by simp [hk]), ih]
      by_cases hx : a ≤ x ∧ x < a + n
      · rw [if_pos hx, if_pos hx]
      · rw [if_neg hx, if_neg hx, tabGet, if_neg (by rintro rfl; exact hx hk)]
    · rw [if_pos (by simp only [Bool.not_eq_true', Bool.and_eq_false_iff, decide_eq_false_iff_not]; omega), tabGet, tabGet, ih]
      by_cases hx : k = x
      · rw [if_pos hx, if_pos hx, if_neg (hx ▸ hk)]
      · rw [if_neg hx, if_neg hx]

/-- A byte outside the written ones is unchanged. -/
theorem memGet_write_of_lt {m : Mem} (a : Nat) (l : List Byte) (x : Nat) (h : x < a ∨ a + l.length ≤ x) :
    memGet (memWrite m a l) x = memGet m x := by
  induction l generalizing m a with
  | nil => rfl
  | cons b t ih =>
    simp only [List.length_cons] at h
    simp only [memWrite]
    rw [ih (a + 1) (by omega)]
    unfold memGet
    rw [tabGet_put]
    have : ¬ a = x := by omega
    simp [this]

end Sys2Proof.Machine
end

