-- ==== Sys2Proof/Laws/State.lean ====
section
/-! SUPPORT. What each update of State leaves in each field, and what each reader reads after it: read after write. -/

namespace Sys2Proof.Machine

theorem ctxIx_inj {t u : Fin 192} {c d : Fin 4} : ctxIx t c = ctxIx u d ↔ t = u ∧ c = d := by
  simp only [ctxIx]; omega

theorem aeIx_inj {e u : Fin 32} {c d : Fin 4} : aeIx e c = aeIx u d ↔ e = u ∧ c = d := by
  simp only [aeIx]; omega

theorem State.modCtx_eq (s : State) (t : Fin 192) (c : Fin 4) (f : Ctx → Ctx) : s.modCtx t c f = s.setCtx t c (f (s.ctx t c)) := rfl

theorem State.modTile_eq (s : State) (t : Fin 192) (f : Tile → Tile) : s.modTile t f = s.setTile t (f (s.tile t)) := rfl

theorem State.modQueue_eq (s : State) (q : Fin 256) (f : StQueue → StQueue) : s.modQueue q f = s.setQueue q (f (s.queue q)) := rfl

/-! setCtx. -/

section
variable (s : State) (t : Fin 192) (c : Fin 4) (x : Ctx)

@[simp] theorem State.setCtx_ctxs : (s.setCtx t c x).ctxs = tabPut {} s.ctxs (ctxIx t c) x := rfl
@[simp] theorem State.setCtx_tiles : (s.setCtx t c x).tiles = s.tiles := rfl
@[simp] theorem State.setCtx_sram : (s.setCtx t c x).sram = s.sram := rfl
@[simp] theorem State.setCtx_dev : (s.setCtx t c x).dev = s.dev := rfl
@[simp] theorem State.setCtx_hostMem : (s.setCtx t c x).hostMem = s.hostMem := rfl
@[simp] theorem State.setCtx_saves : (s.setCtx t c x).saves = s.saves := rfl
@[simp] theorem State.setCtx_slots : (s.setCtx t c x).slots = s.slots := rfl
@[simp] theorem State.setCtx_blocks : (s.setCtx t c x).blocks = s.blocks := rfl
@[simp] theorem State.setCtx_launchNo : (s.setCtx t c x).launchNo = s.launchNo := rfl
@[simp] theorem State.setCtx_parks : (s.setCtx t c x).parks = s.parks := rfl
@[simp] theorem State.setCtx_sync : (s.setCtx t c x).sync = s.sync := rfl
@[simp] theorem State.setCtx_streams : (s.setCtx t c x).streams = s.streams := rfl
@[simp] theorem State.setCtx_tiers : (s.setCtx t c x).tiers = s.tiers := rfl
@[simp] theorem State.setCtx_seqs : (s.setCtx t c x).seqs = s.seqs := rfl
@[simp] theorem State.setCtx_rings : (s.setCtx t c x).rings = s.rings := rfl
@[simp] theorem State.setCtx_aeCtxs : (s.setCtx t c x).aeCtxs = s.aeCtxs := rfl
@[simp] theorem State.setCtx_aes : (s.setCtx t c x).aes = s.aes := rfl
@[simp] theorem State.setCtx_colls : (s.setCtx t c x).colls = s.colls := rfl
@[simp] theorem State.setCtx_host : (s.setCtx t c x).host = s.host := rfl
@[simp] theorem State.setCtx_fabric : (s.setCtx t c x).fabric = s.fabric := rfl
@[simp] theorem State.setCtx_time : (s.setCtx t c x).time = s.time := rfl
@[simp] theorem State.setCtx_cmd : (s.setCtx t c x).cmd = s.cmd := rfl
@[simp] theorem State.setCtx_prot : (s.setCtx t c x).prot = s.prot := rfl
@[simp] theorem State.setCtx_power : (s.setCtx t c x).power = s.power := rfl
@[simp] theorem State.setCtx_pins : (s.setCtx t c x).pins = s.pins := rfl
@[simp] theorem State.setCtx_smbus : (s.setCtx t c x).smbus = s.smbus := rfl
@[simp] theorem State.setCtx_idle : (s.setCtx t c x).idle = s.idle := rfl
@[simp] theorem State.setCtx_geo : (s.setCtx t c x).geo = s.geo := rfl
@[simp] theorem State.setCtx_counters : (s.setCtx t c x).counters = s.counters := rfl
@[simp] theorem State.setCtx_out : (s.setCtx t c x).out = s.out := rfl
@[simp] theorem State.setCtx_pending : (s.setCtx t c x).pending = s.pending := rfl
@[simp] theorem State.setCtx_free : (s.setCtx t c x).free = s.free := rfl
@[simp] theorem State.setCtx_ctx (u : Fin 192) (d : Fin 4) : (s.setCtx t c x).ctx u d = if t = u ∧ c = d then x else s.ctx u d := by
  simp [State.setCtx, State.ctx, ctxIx_inj]
@[simp] theorem State.setCtx_tile (u : Fin 192) : (s.setCtx t c x).tile u = s.tile u := rfl
@[simp] theorem State.setCtx_slot (i : Fin 16) : (s.setCtx t c x).slot i = s.slot i := rfl
@[simp] theorem State.setCtx_launch (i : Fin 16) : (s.setCtx t c x).launch i = s.launch i := rfl
@[simp] theorem State.setCtx_queue (r : Fin 256) : (s.setCtx t c x).queue r = s.queue r := rfl
@[simp] theorem State.setCtx_aeCtx (u : Fin 32) (d : Fin 4) : (s.setCtx t c x).aeCtx u d = s.aeCtx u d := rfl
@[simp] theorem State.setCtx_ae (u : Fin 32) : (s.setCtx t c x).ae u = s.ae u := rfl
@[simp] theorem State.setCtx_obj (b : Nat) : (s.setCtx t c x).obj b = s.obj b := rfl
@[simp] theorem State.setCtx_chan (j : Nat) : (s.setCtx t c x).chan j = s.chan j := rfl
@[simp] theorem State.setCtx_mbx (j : Fin 8) : (s.setCtx t c x).mbx j = s.mbx j := rfl
@[simp] theorem State.setCtx_evq (j : Nat) : (s.setCtx t c x).evq j = s.evq j := rfl
@[simp] theorem State.setCtx_msix (j : Fin 16) : (s.setCtx t c x).msix j = s.msix j := rfl
@[simp] theorem State.setCtx_level (j : Nat) : (s.setCtx t c x).level j = s.level j := rfl
@[simp] theorem State.setCtx_wakePhase (j : Nat) : (s.setCtx t c x).wakePhase j = s.wakePhase j := rfl
@[simp] theorem State.setCtx_counter (j : Nat) : (s.setCtx t c x).counter j = s.counter j := rfl
@[simp] theorem State.setCtx_grain (j : Nat) : (s.setCtx t c x).grain j = s.grain j := rfl
@[simp] theorem State.setCtx_seq (j : Nat) : (s.setCtx t c x).seq j = s.seq j := rfl
@[simp] theorem State.setCtx_page (j : Nat) : (s.setCtx t c x).page j = s.page j := rfl
@[simp] theorem State.setCtx_cxl (j : Nat) : (s.setCtx t c x).cxl j = s.cxl j := rfl
@[simp] theorem State.setCtx_ring (j : Nat) : (s.setCtx t c x).ring j = s.ring j := rfl
@[simp] theorem State.setCtx_bind (j : Nat) : (s.setCtx t c x).bind j = s.bind j := rfl
@[simp] theorem State.setCtx_group (j : Nat) : (s.setCtx t c x).group j = s.group j := rfl
@[simp] theorem State.setCtx_port (j : Nat) : (s.setCtx t c x).port j = s.port j := rfl
@[simp] theorem State.setCtx_sess (j : Nat) : (s.setCtx t c x).sess j = s.sess j := rfl

end

/-! setTile. -/

section
variable (s : State) (t : Fin 192) (x : Tile)

@[simp] theorem State.setTile_ctxs : (s.setTile t x).ctxs = s.ctxs := rfl
@[simp] theorem State.setTile_tiles : (s.setTile t x).tiles = tabPut {} s.tiles t.val x := rfl
@[simp] theorem State.setTile_sram : (s.setTile t x).sram = s.sram := rfl
@[simp] theorem State.setTile_dev : (s.setTile t x).dev = s.dev := rfl
@[simp] theorem State.setTile_hostMem : (s.setTile t x).hostMem = s.hostMem := rfl
@[simp] theorem State.setTile_saves : (s.setTile t x).saves = s.saves := rfl
@[simp] theorem State.setTile_slots : (s.setTile t x).slots = s.slots := rfl
@[simp] theorem State.setTile_blocks : (s.setTile t x).blocks = s.blocks := rfl
@[simp] theorem State.setTile_launchNo : (s.setTile t x).launchNo = s.launchNo := rfl
@[simp] theorem State.setTile_parks : (s.setTile t x).parks = s.parks := rfl
@[simp] theorem State.setTile_sync : (s.setTile t x).sync = s.sync := rfl
@[simp] theorem State.setTile_streams : (s.setTile t x).streams = s.streams := rfl
@[simp] theorem State.setTile_tiers : (s.setTile t x).tiers = s.tiers := rfl
@[simp] theorem State.setTile_seqs : (s.setTile t x).seqs = s.seqs := rfl
@[simp] theorem State.setTile_rings : (s.setTile t x).rings = s.rings := rfl
@[simp] theorem State.setTile_aeCtxs : (s.setTile t x).aeCtxs = s.aeCtxs := rfl
@[simp] theorem State.setTile_aes : (s.setTile t x).aes = s.aes := rfl
@[simp] theorem State.setTile_colls : (s.setTile t x).colls = s.colls := rfl
@[simp] theorem State.setTile_host : (s.setTile t x).host = s.host := rfl
@[simp] theorem State.setTile_fabric : (s.setTile t x).fabric = s.fabric := rfl
@[simp] theorem State.setTile_time : (s.setTile t x).time = s.time := rfl
@[simp] theorem State.setTile_cmd : (s.setTile t x).cmd = s.cmd := rfl
@[simp] theorem State.setTile_prot : (s.setTile t x).prot = s.prot := rfl
@[simp] theorem State.setTile_power : (s.setTile t x).power = s.power := rfl
@[simp] theorem State.setTile_pins : (s.setTile t x).pins = s.pins := rfl
@[simp] theorem State.setTile_smbus : (s.setTile t x).smbus = s.smbus := rfl
@[simp] theorem State.setTile_idle : (s.setTile t x).idle = s.idle := rfl
@[simp] theorem State.setTile_geo : (s.setTile t x).geo = s.geo := rfl
@[simp] theorem State.setTile_counters : (s.setTile t x).counters = s.counters := rfl
@[simp] theorem State.setTile_out : (s.setTile t x).out = s.out := rfl
@[simp] theorem State.setTile_pending : (s.setTile t x).pending = s.pending := rfl
@[simp] theorem State.setTile_free : (s.setTile t x).free = s.free := rfl
@[simp] theorem State.setTile_ctx (u : Fin 192) (d : Fin 4) : (s.setTile t x).ctx u d = s.ctx u d := rfl
@[simp] theorem State.setTile_tile (u : Fin 192) : (s.setTile t x).tile u = if t = u then x else s.tile u := by
  simp [State.setTile, State.tile, Fin.ext_iff]
@[simp] theorem State.setTile_slot (i : Fin 16) : (s.setTile t x).slot i = s.slot i := rfl
@[simp] theorem State.setTile_launch (i : Fin 16) : (s.setTile t x).launch i = s.launch i := rfl
@[simp] theorem State.setTile_queue (r : Fin 256) : (s.setTile t x).queue r = s.queue r := rfl
@[simp] theorem State.setTile_aeCtx (u : Fin 32) (d : Fin 4) : (s.setTile t x).aeCtx u d = s.aeCtx u d := rfl
@[simp] theorem State.setTile_ae (u : Fin 32) : (s.setTile t x).ae u = s.ae u := rfl
@[simp] theorem State.setTile_obj (b : Nat) : (s.setTile t x).obj b = s.obj b := rfl
@[simp] theorem State.setTile_chan (j : Nat) : (s.setTile t x).chan j = s.chan j := rfl
@[simp] theorem State.setTile_mbx (j : Fin 8) : (s.setTile t x).mbx j = s.mbx j := rfl
@[simp] theorem State.setTile_evq (j : Nat) : (s.setTile t x).evq j = s.evq j := rfl
@[simp] theorem State.setTile_msix (j : Fin 16) : (s.setTile t x).msix j = s.msix j := rfl
@[simp] theorem State.setTile_level (j : Nat) : (s.setTile t x).level j = s.level j := rfl
@[simp] theorem State.setTile_wakePhase (j : Nat) : (s.setTile t x).wakePhase j = s.wakePhase j := rfl
@[simp] theorem State.setTile_counter (j : Nat) : (s.setTile t x).counter j = s.counter j := rfl
@[simp] theorem State.setTile_grain (j : Nat) : (s.setTile t x).grain j = s.grain j := rfl
@[simp] theorem State.setTile_seq (j : Nat) : (s.setTile t x).seq j = s.seq j := rfl
@[simp] theorem State.setTile_page (j : Nat) : (s.setTile t x).page j = s.page j := rfl
@[simp] theorem State.setTile_cxl (j : Nat) : (s.setTile t x).cxl j = s.cxl j := rfl
@[simp] theorem State.setTile_ring (j : Nat) : (s.setTile t x).ring j = s.ring j := rfl
@[simp] theorem State.setTile_bind (j : Nat) : (s.setTile t x).bind j = s.bind j := rfl
@[simp] theorem State.setTile_group (j : Nat) : (s.setTile t x).group j = s.group j := rfl
@[simp] theorem State.setTile_port (j : Nat) : (s.setTile t x).port j = s.port j := rfl
@[simp] theorem State.setTile_sess (j : Nat) : (s.setTile t x).sess j = s.sess j := rfl

end

/-! setSlot. -/

section
variable (s : State) (n : Fin 16) (x : Slot)

@[simp] theorem State.setSlot_ctxs : (s.setSlot n x).ctxs = s.ctxs := rfl
@[simp] theorem State.setSlot_tiles : (s.setSlot n x).tiles = s.tiles := rfl
@[simp] theorem State.setSlot_sram : (s.setSlot n x).sram = s.sram := rfl
@[simp] theorem State.setSlot_dev : (s.setSlot n x).dev = s.dev := rfl
@[simp] theorem State.setSlot_hostMem : (s.setSlot n x).hostMem = s.hostMem := rfl
@[simp] theorem State.setSlot_saves : (s.setSlot n x).saves = s.saves := rfl
@[simp] theorem State.setSlot_slots : (s.setSlot n x).slots = tabPut {} s.slots n.val x := rfl
@[simp] theorem State.setSlot_blocks : (s.setSlot n x).blocks = s.blocks := rfl
@[simp] theorem State.setSlot_launchNo : (s.setSlot n x).launchNo = s.launchNo := rfl
@[simp] theorem State.setSlot_parks : (s.setSlot n x).parks = s.parks := rfl
@[simp] theorem State.setSlot_sync : (s.setSlot n x).sync = s.sync := rfl
@[simp] theorem State.setSlot_streams : (s.setSlot n x).streams = s.streams := rfl
@[simp] theorem State.setSlot_tiers : (s.setSlot n x).tiers = s.tiers := rfl
@[simp] theorem State.setSlot_seqs : (s.setSlot n x).seqs = s.seqs := rfl
@[simp] theorem State.setSlot_rings : (s.setSlot n x).rings = s.rings := rfl
@[simp] theorem State.setSlot_aeCtxs : (s.setSlot n x).aeCtxs = s.aeCtxs := rfl
@[simp] theorem State.setSlot_aes : (s.setSlot n x).aes = s.aes := rfl
@[simp] theorem State.setSlot_colls : (s.setSlot n x).colls = s.colls := rfl
@[simp] theorem State.setSlot_host : (s.setSlot n x).host = s.host := rfl
@[simp] theorem State.setSlot_fabric : (s.setSlot n x).fabric = s.fabric := rfl
@[simp] theorem State.setSlot_time : (s.setSlot n x).time = s.time := rfl
@[simp] theorem State.setSlot_cmd : (s.setSlot n x).cmd = s.cmd := rfl
@[simp] theorem State.setSlot_prot : (s.setSlot n x).prot = s.prot := rfl
@[simp] theorem State.setSlot_power : (s.setSlot n x).power = s.power := rfl
@[simp] theorem State.setSlot_pins : (s.setSlot n x).pins = s.pins := rfl
@[simp] theorem State.setSlot_smbus : (s.setSlot n x).smbus = s.smbus := rfl
@[simp] theorem State.setSlot_idle : (s.setSlot n x).idle = s.idle := rfl
@[simp] theorem State.setSlot_geo : (s.setSlot n x).geo = s.geo := rfl
@[simp] theorem State.setSlot_counters : (s.setSlot n x).counters = s.counters := rfl
@[simp] theorem State.setSlot_out : (s.setSlot n x).out = s.out := rfl
@[simp] theorem State.setSlot_pending : (s.setSlot n x).pending = s.pending := rfl
@[simp] theorem State.setSlot_free : (s.setSlot n x).free = s.free := rfl
@[simp] theorem State.setSlot_ctx (u : Fin 192) (d : Fin 4) : (s.setSlot n x).ctx u d = s.ctx u d := rfl
@[simp] theorem State.setSlot_tile (u : Fin 192) : (s.setSlot n x).tile u = s.tile u := rfl
@[simp] theorem State.setSlot_slot (i : Fin 16) : (s.setSlot n x).slot i = if n = i then x else s.slot i := by
  simp [State.setSlot, State.slot, Fin.ext_iff]
theorem State.setSlot_launch (i : Fin 16) : (s.setSlot n x).launch i = if n = i then x.launch else s.launch i := by
  simp only [State.launch, State.setSlot_slot]; split <;> rfl
@[simp] theorem State.setSlot_queue (r : Fin 256) : (s.setSlot n x).queue r = s.queue r := rfl
@[simp] theorem State.setSlot_aeCtx (u : Fin 32) (d : Fin 4) : (s.setSlot n x).aeCtx u d = s.aeCtx u d := rfl
@[simp] theorem State.setSlot_ae (u : Fin 32) : (s.setSlot n x).ae u = s.ae u := rfl
@[simp] theorem State.setSlot_obj (b : Nat) : (s.setSlot n x).obj b = s.obj b := rfl
@[simp] theorem State.setSlot_chan (j : Nat) : (s.setSlot n x).chan j = s.chan j := rfl
@[simp] theorem State.setSlot_mbx (j : Fin 8) : (s.setSlot n x).mbx j = s.mbx j := rfl
@[simp] theorem State.setSlot_evq (j : Nat) : (s.setSlot n x).evq j = s.evq j := rfl
@[simp] theorem State.setSlot_msix (j : Fin 16) : (s.setSlot n x).msix j = s.msix j := rfl
@[simp] theorem State.setSlot_level (j : Nat) : (s.setSlot n x).level j = s.level j := rfl
@[simp] theorem State.setSlot_wakePhase (j : Nat) : (s.setSlot n x).wakePhase j = s.wakePhase j := rfl
@[simp] theorem State.setSlot_counter (j : Nat) : (s.setSlot n x).counter j = s.counter j := rfl
@[simp] theorem State.setSlot_grain (j : Nat) : (s.setSlot n x).grain j = s.grain j := rfl
@[simp] theorem State.setSlot_seq (j : Nat) : (s.setSlot n x).seq j = s.seq j := rfl
@[simp] theorem State.setSlot_page (j : Nat) : (s.setSlot n x).page j = s.page j := rfl
@[simp] theorem State.setSlot_cxl (j : Nat) : (s.setSlot n x).cxl j = s.cxl j := rfl
@[simp] theorem State.setSlot_ring (j : Nat) : (s.setSlot n x).ring j = s.ring j := rfl
@[simp] theorem State.setSlot_bind (j : Nat) : (s.setSlot n x).bind j = s.bind j := rfl
@[simp] theorem State.setSlot_group (j : Nat) : (s.setSlot n x).group j = s.group j := rfl
@[simp] theorem State.setSlot_port (j : Nat) : (s.setSlot n x).port j = s.port j := rfl
@[simp] theorem State.setSlot_sess (j : Nat) : (s.setSlot n x).sess j = s.sess j := rfl

end

/-! setQueue. -/

section
variable (s : State) (q : Fin 256) (x : StQueue)

@[simp] theorem State.setQueue_ctxs : (s.setQueue q x).ctxs = s.ctxs := rfl
@[simp] theorem State.setQueue_tiles : (s.setQueue q x).tiles = s.tiles := rfl
@[simp] theorem State.setQueue_sram : (s.setQueue q x).sram = s.sram := rfl
@[simp] theorem State.setQueue_dev : (s.setQueue q x).dev = s.dev := rfl
@[simp] theorem State.setQueue_hostMem : (s.setQueue q x).hostMem = s.hostMem := rfl
@[simp] theorem State.setQueue_saves : (s.setQueue q x).saves = s.saves := rfl
@[simp] theorem State.setQueue_slots : (s.setQueue q x).slots = s.slots := rfl
@[simp] theorem State.setQueue_blocks : (s.setQueue q x).blocks = s.blocks := rfl
@[simp] theorem State.setQueue_launchNo : (s.setQueue q x).launchNo = s.launchNo := rfl
@[simp] theorem State.setQueue_parks : (s.setQueue q x).parks = s.parks := rfl
@[simp] theorem State.setQueue_sync : (s.setQueue q x).sync = s.sync := rfl
@[simp] theorem State.setQueue_streams : (s.setQueue q x).streams = { s.streams with queues := tabPut {} s.streams.queues q.val x } := rfl
@[simp] theorem State.setQueue_tiers : (s.setQueue q x).tiers = s.tiers := rfl
@[simp] theorem State.setQueue_seqs : (s.setQueue q x).seqs = s.seqs := rfl
@[simp] theorem State.setQueue_rings : (s.setQueue q x).rings = s.rings := rfl
@[simp] theorem State.setQueue_aeCtxs : (s.setQueue q x).aeCtxs = s.aeCtxs := rfl
@[simp] theorem State.setQueue_aes : (s.setQueue q x).aes = s.aes := rfl
@[simp] theorem State.setQueue_colls : (s.setQueue q x).colls = s.colls := rfl
@[simp] theorem State.setQueue_host : (s.setQueue q x).host = s.host := rfl
@[simp] theorem State.setQueue_fabric : (s.setQueue q x).fabric = s.fabric := rfl
@[simp] theorem State.setQueue_time : (s.setQueue q x).time = s.time := rfl
@[simp] theorem State.setQueue_cmd : (s.setQueue q x).cmd = s.cmd := rfl
@[simp] theorem State.setQueue_prot : (s.setQueue q x).prot = s.prot := rfl
@[simp] theorem State.setQueue_power : (s.setQueue q x).power = s.power := rfl
@[simp] theorem State.setQueue_pins : (s.setQueue q x).pins = s.pins := rfl
@[simp] theorem State.setQueue_smbus : (s.setQueue q x).smbus = s.smbus := rfl
@[simp] theorem State.setQueue_idle : (s.setQueue q x).idle = s.idle := rfl
@[simp] theorem State.setQueue_geo : (s.setQueue q x).geo = s.geo := rfl
@[simp] theorem State.setQueue_counters : (s.setQueue q x).counters = s.counters := rfl
@[simp] theorem State.setQueue_out : (s.setQueue q x).out = s.out := rfl
@[simp] theorem State.setQueue_pending : (s.setQueue q x).pending = s.pending := rfl
@[simp] theorem State.setQueue_free : (s.setQueue q x).free = s.free := rfl
@[simp] theorem State.setQueue_ctx (u : Fin 192) (d : Fin 4) : (s.setQueue q x).ctx u d = s.ctx u d := rfl
@[simp] theorem State.setQueue_tile (u : Fin 192) : (s.setQueue q x).tile u = s.tile u := rfl
@[simp] theorem State.setQueue_slot (i : Fin 16) : (s.setQueue q x).slot i = s.slot i := rfl
@[simp] theorem State.setQueue_launch (i : Fin 16) : (s.setQueue q x).launch i = s.launch i := rfl
@[simp] theorem State.setQueue_queue (r : Fin 256) : (s.setQueue q x).queue r = if q = r then x else s.queue r := by
  simp [State.setQueue, State.queue, Fin.ext_iff]
@[simp] theorem State.setQueue_aeCtx (u : Fin 32) (d : Fin 4) : (s.setQueue q x).aeCtx u d = s.aeCtx u d := rfl
@[simp] theorem State.setQueue_ae (u : Fin 32) : (s.setQueue q x).ae u = s.ae u := rfl
@[simp] theorem State.setQueue_obj (b : Nat) : (s.setQueue q x).obj b = s.obj b := rfl
@[simp] theorem State.setQueue_chan (j : Nat) : (s.setQueue q x).chan j = s.chan j := rfl
@[simp] theorem State.setQueue_mbx (j : Fin 8) : (s.setQueue q x).mbx j = s.mbx j := rfl
@[simp] theorem State.setQueue_evq (j : Nat) : (s.setQueue q x).evq j = s.evq j := rfl
@[simp] theorem State.setQueue_msix (j : Fin 16) : (s.setQueue q x).msix j = s.msix j := rfl
@[simp] theorem State.setQueue_level (j : Nat) : (s.setQueue q x).level j = s.level j := rfl
@[simp] theorem State.setQueue_wakePhase (j : Nat) : (s.setQueue q x).wakePhase j = s.wakePhase j := rfl
@[simp] theorem State.setQueue_counter (j : Nat) : (s.setQueue q x).counter j = s.counter j := rfl
@[simp] theorem State.setQueue_grain (j : Nat) : (s.setQueue q x).grain j = s.grain j := rfl
@[simp] theorem State.setQueue_seq (j : Nat) : (s.setQueue q x).seq j = s.seq j := rfl
@[simp] theorem State.setQueue_page (j : Nat) : (s.setQueue q x).page j = s.page j := rfl
@[simp] theorem State.setQueue_cxl (j : Nat) : (s.setQueue q x).cxl j = s.cxl j := rfl
@[simp] theorem State.setQueue_ring (j : Nat) : (s.setQueue q x).ring j = s.ring j := rfl
@[simp] theorem State.setQueue_bind (j : Nat) : (s.setQueue q x).bind j = s.bind j := rfl
@[simp] theorem State.setQueue_group (j : Nat) : (s.setQueue q x).group j = s.group j := rfl
@[simp] theorem State.setQueue_port (j : Nat) : (s.setQueue q x).port j = s.port j := rfl
@[simp] theorem State.setQueue_sess (j : Nat) : (s.setQueue q x).sess j = s.sess j := rfl

end

/-! setAeCtx. -/

section
variable (s : State) (e : Fin 32) (c : Fin 4) (x : AeCtx)

@[simp] theorem State.setAeCtx_ctxs : (s.setAeCtx e c x).ctxs = s.ctxs := rfl
@[simp] theorem State.setAeCtx_tiles : (s.setAeCtx e c x).tiles = s.tiles := rfl
@[simp] theorem State.setAeCtx_sram : (s.setAeCtx e c x).sram = s.sram := rfl
@[simp] theorem State.setAeCtx_dev : (s.setAeCtx e c x).dev = s.dev := rfl
@[simp] theorem State.setAeCtx_hostMem : (s.setAeCtx e c x).hostMem = s.hostMem := rfl
@[simp] theorem State.setAeCtx_saves : (s.setAeCtx e c x).saves = s.saves := rfl
@[simp] theorem State.setAeCtx_slots : (s.setAeCtx e c x).slots = s.slots := rfl
@[simp] theorem State.setAeCtx_blocks : (s.setAeCtx e c x).blocks = s.blocks := rfl
@[simp] theorem State.setAeCtx_launchNo : (s.setAeCtx e c x).launchNo = s.launchNo := rfl
@[simp] theorem State.setAeCtx_parks : (s.setAeCtx e c x).parks = s.parks := rfl
@[simp] theorem State.setAeCtx_sync : (s.setAeCtx e c x).sync = s.sync := rfl
@[simp] theorem State.setAeCtx_streams : (s.setAeCtx e c x).streams = s.streams := rfl
@[simp] theorem State.setAeCtx_tiers : (s.setAeCtx e c x).tiers = s.tiers := rfl
@[simp] theorem State.setAeCtx_seqs : (s.setAeCtx e c x).seqs = s.seqs := rfl
@[simp] theorem State.setAeCtx_rings : (s.setAeCtx e c x).rings = s.rings := rfl
@[simp] theorem State.setAeCtx_aeCtxs : (s.setAeCtx e c x).aeCtxs = tabPut {} s.aeCtxs (aeIx e c) x := rfl
@[simp] theorem State.setAeCtx_aes : (s.setAeCtx e c x).aes = s.aes := rfl
@[simp] theorem State.setAeCtx_colls : (s.setAeCtx e c x).colls = s.colls := rfl
@[simp] theorem State.setAeCtx_host : (s.setAeCtx e c x).host = s.host := rfl
@[simp] theorem State.setAeCtx_fabric : (s.setAeCtx e c x).fabric = s.fabric := rfl
@[simp] theorem State.setAeCtx_time : (s.setAeCtx e c x).time = s.time := rfl
@[simp] theorem State.setAeCtx_cmd : (s.setAeCtx e c x).cmd = s.cmd := rfl
@[simp] theorem State.setAeCtx_prot : (s.setAeCtx e c x).prot = s.prot := rfl
@[simp] theorem State.setAeCtx_power : (s.setAeCtx e c x).power = s.power := rfl
@[simp] theorem State.setAeCtx_pins : (s.setAeCtx e c x).pins = s.pins := rfl
@[simp] theorem State.setAeCtx_smbus : (s.setAeCtx e c x).smbus = s.smbus := rfl
@[simp] theorem State.setAeCtx_idle : (s.setAeCtx e c x).idle = s.idle := rfl
@[simp] theorem State.setAeCtx_geo : (s.setAeCtx e c x).geo = s.geo := rfl
@[simp] theorem State.setAeCtx_counters : (s.setAeCtx e c x).counters = s.counters := rfl
@[simp] theorem State.setAeCtx_out : (s.setAeCtx e c x).out = s.out := rfl
@[simp] theorem State.setAeCtx_pending : (s.setAeCtx e c x).pending = s.pending := rfl
@[simp] theorem State.setAeCtx_free : (s.setAeCtx e c x).free = s.free := rfl
@[simp] theorem State.setAeCtx_ctx (u : Fin 192) (d : Fin 4) : (s.setAeCtx e c x).ctx u d = s.ctx u d := rfl
@[simp] theorem State.setAeCtx_tile (u : Fin 192) : (s.setAeCtx e c x).tile u = s.tile u := rfl
@[simp] theorem State.setAeCtx_slot (i : Fin 16) : (s.setAeCtx e c x).slot i = s.slot i := rfl
@[simp] theorem State.setAeCtx_launch (i : Fin 16) : (s.setAeCtx e c x).launch i = s.launch i := rfl
@[simp] theorem State.setAeCtx_queue (r : Fin 256) : (s.setAeCtx e c x).queue r = s.queue r := rfl
@[simp] theorem State.setAeCtx_aeCtx (u : Fin 32) (d : Fin 4) : (s.setAeCtx e c x).aeCtx u d = if e = u ∧ c = d then x else s.aeCtx u d := by
  simp [State.setAeCtx, State.aeCtx, aeIx_inj]
@[simp] theorem State.setAeCtx_ae (u : Fin 32) : (s.setAeCtx e c x).ae u = s.ae u := rfl
@[simp] theorem State.setAeCtx_obj (b : Nat) : (s.setAeCtx e c x).obj b = s.obj b := rfl
@[simp] theorem State.setAeCtx_chan (j : Nat) : (s.setAeCtx e c x).chan j = s.chan j := rfl
@[simp] theorem State.setAeCtx_mbx (j : Fin 8) : (s.setAeCtx e c x).mbx j = s.mbx j := rfl
@[simp] theorem State.setAeCtx_evq (j : Nat) : (s.setAeCtx e c x).evq j = s.evq j := rfl
@[simp] theorem State.setAeCtx_msix (j : Fin 16) : (s.setAeCtx e c x).msix j = s.msix j := rfl
@[simp] theorem State.setAeCtx_level (j : Nat) : (s.setAeCtx e c x).level j = s.level j := rfl
@[simp] theorem State.setAeCtx_wakePhase (j : Nat) : (s.setAeCtx e c x).wakePhase j = s.wakePhase j := rfl
@[simp] theorem State.setAeCtx_counter (j : Nat) : (s.setAeCtx e c x).counter j = s.counter j := rfl
@[simp] theorem State.setAeCtx_grain (j : Nat) : (s.setAeCtx e c x).grain j = s.grain j := rfl
@[simp] theorem State.setAeCtx_seq (j : Nat) : (s.setAeCtx e c x).seq j = s.seq j := rfl
@[simp] theorem State.setAeCtx_page (j : Nat) : (s.setAeCtx e c x).page j = s.page j := rfl
@[simp] theorem State.setAeCtx_cxl (j : Nat) : (s.setAeCtx e c x).cxl j = s.cxl j := rfl
@[simp] theorem State.setAeCtx_ring (j : Nat) : (s.setAeCtx e c x).ring j = s.ring j := rfl
@[simp] theorem State.setAeCtx_bind (j : Nat) : (s.setAeCtx e c x).bind j = s.bind j := rfl
@[simp] theorem State.setAeCtx_group (j : Nat) : (s.setAeCtx e c x).group j = s.group j := rfl
@[simp] theorem State.setAeCtx_port (j : Nat) : (s.setAeCtx e c x).port j = s.port j := rfl
@[simp] theorem State.setAeCtx_sess (j : Nat) : (s.setAeCtx e c x).sess j = s.sess j := rfl

end

/-! setAe. -/

section
variable (s : State) (e : Fin 32) (x : AeEngine)

@[simp] theorem State.setAe_ctxs : (s.setAe e x).ctxs = s.ctxs := rfl
@[simp] theorem State.setAe_tiles : (s.setAe e x).tiles = s.tiles := rfl
@[simp] theorem State.setAe_sram : (s.setAe e x).sram = s.sram := rfl
@[simp] theorem State.setAe_dev : (s.setAe e x).dev = s.dev := rfl
@[simp] theorem State.setAe_hostMem : (s.setAe e x).hostMem = s.hostMem := rfl
@[simp] theorem State.setAe_saves : (s.setAe e x).saves = s.saves := rfl
@[simp] theorem State.setAe_slots : (s.setAe e x).slots = s.slots := rfl
@[simp] theorem State.setAe_blocks : (s.setAe e x).blocks = s.blocks := rfl
@[simp] theorem State.setAe_launchNo : (s.setAe e x).launchNo = s.launchNo := rfl
@[simp] theorem State.setAe_parks : (s.setAe e x).parks = s.parks := rfl
@[simp] theorem State.setAe_sync : (s.setAe e x).sync = s.sync := rfl
@[simp] theorem State.setAe_streams : (s.setAe e x).streams = s.streams := rfl
@[simp] theorem State.setAe_tiers : (s.setAe e x).tiers = s.tiers := rfl
@[simp] theorem State.setAe_seqs : (s.setAe e x).seqs = s.seqs := rfl
@[simp] theorem State.setAe_rings : (s.setAe e x).rings = s.rings := rfl
@[simp] theorem State.setAe_aeCtxs : (s.setAe e x).aeCtxs = s.aeCtxs := rfl
@[simp] theorem State.setAe_aes : (s.setAe e x).aes = tabPut {} s.aes e.val x := rfl
@[simp] theorem State.setAe_colls : (s.setAe e x).colls = s.colls := rfl
@[simp] theorem State.setAe_host : (s.setAe e x).host = s.host := rfl
@[simp] theorem State.setAe_fabric : (s.setAe e x).fabric = s.fabric := rfl
@[simp] theorem State.setAe_time : (s.setAe e x).time = s.time := rfl
@[simp] theorem State.setAe_cmd : (s.setAe e x).cmd = s.cmd := rfl
@[simp] theorem State.setAe_prot : (s.setAe e x).prot = s.prot := rfl
@[simp] theorem State.setAe_power : (s.setAe e x).power = s.power := rfl
@[simp] theorem State.setAe_pins : (s.setAe e x).pins = s.pins := rfl
@[simp] theorem State.setAe_smbus : (s.setAe e x).smbus = s.smbus := rfl
@[simp] theorem State.setAe_idle : (s.setAe e x).idle = s.idle := rfl
@[simp] theorem State.setAe_geo : (s.setAe e x).geo = s.geo := rfl
@[simp] theorem State.setAe_counters : (s.setAe e x).counters = s.counters := rfl
@[simp] theorem State.setAe_out : (s.setAe e x).out = s.out := rfl
@[simp] theorem State.setAe_pending : (s.setAe e x).pending = s.pending := rfl
@[simp] theorem State.setAe_free : (s.setAe e x).free = s.free := rfl
@[simp] theorem State.setAe_ctx (u : Fin 192) (d : Fin 4) : (s.setAe e x).ctx u d = s.ctx u d := rfl
@[simp] theorem State.setAe_tile (u : Fin 192) : (s.setAe e x).tile u = s.tile u := rfl
@[simp] theorem State.setAe_slot (i : Fin 16) : (s.setAe e x).slot i = s.slot i := rfl
@[simp] theorem State.setAe_launch (i : Fin 16) : (s.setAe e x).launch i = s.launch i := rfl
@[simp] theorem State.setAe_queue (r : Fin 256) : (s.setAe e x).queue r = s.queue r := rfl
@[simp] theorem State.setAe_aeCtx (u : Fin 32) (d : Fin 4) : (s.setAe e x).aeCtx u d = s.aeCtx u d := rfl
@[simp] theorem State.setAe_ae (u : Fin 32) : (s.setAe e x).ae u = if e = u then x else s.ae u := by
  simp [State.setAe, State.ae, Fin.ext_iff]
@[simp] theorem State.setAe_obj (b : Nat) : (s.setAe e x).obj b = s.obj b := rfl
@[simp] theorem State.setAe_chan (j : Nat) : (s.setAe e x).chan j = s.chan j := rfl
@[simp] theorem State.setAe_mbx (j : Fin 8) : (s.setAe e x).mbx j = s.mbx j := rfl
@[simp] theorem State.setAe_evq (j : Nat) : (s.setAe e x).evq j = s.evq j := rfl
@[simp] theorem State.setAe_msix (j : Fin 16) : (s.setAe e x).msix j = s.msix j := rfl
@[simp] theorem State.setAe_level (j : Nat) : (s.setAe e x).level j = s.level j := rfl
@[simp] theorem State.setAe_wakePhase (j : Nat) : (s.setAe e x).wakePhase j = s.wakePhase j := rfl
@[simp] theorem State.setAe_counter (j : Nat) : (s.setAe e x).counter j = s.counter j := rfl
@[simp] theorem State.setAe_grain (j : Nat) : (s.setAe e x).grain j = s.grain j := rfl
@[simp] theorem State.setAe_seq (j : Nat) : (s.setAe e x).seq j = s.seq j := rfl
@[simp] theorem State.setAe_page (j : Nat) : (s.setAe e x).page j = s.page j := rfl
@[simp] theorem State.setAe_cxl (j : Nat) : (s.setAe e x).cxl j = s.cxl j := rfl
@[simp] theorem State.setAe_ring (j : Nat) : (s.setAe e x).ring j = s.ring j := rfl
@[simp] theorem State.setAe_bind (j : Nat) : (s.setAe e x).bind j = s.bind j := rfl
@[simp] theorem State.setAe_group (j : Nat) : (s.setAe e x).group j = s.group j := rfl
@[simp] theorem State.setAe_port (j : Nat) : (s.setAe e x).port j = s.port j := rfl
@[simp] theorem State.setAe_sess (j : Nat) : (s.setAe e x).sess j = s.sess j := rfl

end

/-! setObj. -/

section
variable (s : State) (a : Nat) (x : SyncObj)

@[simp] theorem State.setObj_ctxs : (s.setObj a x).ctxs = s.ctxs := rfl
@[simp] theorem State.setObj_tiles : (s.setObj a x).tiles = s.tiles := rfl
@[simp] theorem State.setObj_sram : (s.setObj a x).sram = s.sram := rfl
@[simp] theorem State.setObj_dev : (s.setObj a x).dev = s.dev := rfl
@[simp] theorem State.setObj_hostMem : (s.setObj a x).hostMem = s.hostMem := rfl
@[simp] theorem State.setObj_saves : (s.setObj a x).saves = s.saves := rfl
@[simp] theorem State.setObj_slots : (s.setObj a x).slots = s.slots := rfl
@[simp] theorem State.setObj_blocks : (s.setObj a x).blocks = s.blocks := rfl
@[simp] theorem State.setObj_launchNo : (s.setObj a x).launchNo = s.launchNo := rfl
@[simp] theorem State.setObj_parks : (s.setObj a x).parks = s.parks := rfl
@[simp] theorem State.setObj_sync : (s.setObj a x).sync = { s.sync with objs := tabPut {} s.sync.objs a x } := rfl
@[simp] theorem State.setObj_streams : (s.setObj a x).streams = s.streams := rfl
@[simp] theorem State.setObj_tiers : (s.setObj a x).tiers = s.tiers := rfl
@[simp] theorem State.setObj_seqs : (s.setObj a x).seqs = s.seqs := rfl
@[simp] theorem State.setObj_rings : (s.setObj a x).rings = s.rings := rfl
@[simp] theorem State.setObj_aeCtxs : (s.setObj a x).aeCtxs = s.aeCtxs := rfl
@[simp] theorem State.setObj_aes : (s.setObj a x).aes = s.aes := rfl
@[simp] theorem State.setObj_colls : (s.setObj a x).colls = s.colls := rfl
@[simp] theorem State.setObj_host : (s.setObj a x).host = s.host := rfl
@[simp] theorem State.setObj_fabric : (s.setObj a x).fabric = s.fabric := rfl
@[simp] theorem State.setObj_time : (s.setObj a x).time = s.time := rfl
@[simp] theorem State.setObj_cmd : (s.setObj a x).cmd = s.cmd := rfl
@[simp] theorem State.setObj_prot : (s.setObj a x).prot = s.prot := rfl
@[simp] theorem State.setObj_power : (s.setObj a x).power = s.power := rfl
@[simp] theorem State.setObj_pins : (s.setObj a x).pins = s.pins := rfl
@[simp] theorem State.setObj_smbus : (s.setObj a x).smbus = s.smbus := rfl
@[simp] theorem State.setObj_idle : (s.setObj a x).idle = s.idle := rfl
@[simp] theorem State.setObj_geo : (s.setObj a x).geo = s.geo := rfl
@[simp] theorem State.setObj_counters : (s.setObj a x).counters = s.counters := rfl
@[simp] theorem State.setObj_out : (s.setObj a x).out = s.out := rfl
@[simp] theorem State.setObj_pending : (s.setObj a x).pending = s.pending := rfl
@[simp] theorem State.setObj_free : (s.setObj a x).free = s.free := rfl
@[simp] theorem State.setObj_ctx (u : Fin 192) (d : Fin 4) : (s.setObj a x).ctx u d = s.ctx u d := rfl
@[simp] theorem State.setObj_tile (u : Fin 192) : (s.setObj a x).tile u = s.tile u := rfl
@[simp] theorem State.setObj_slot (i : Fin 16) : (s.setObj a x).slot i = s.slot i := rfl
@[simp] theorem State.setObj_launch (i : Fin 16) : (s.setObj a x).launch i = s.launch i := rfl
@[simp] theorem State.setObj_queue (r : Fin 256) : (s.setObj a x).queue r = s.queue r := rfl
@[simp] theorem State.setObj_aeCtx (u : Fin 32) (d : Fin 4) : (s.setObj a x).aeCtx u d = s.aeCtx u d := rfl
@[simp] theorem State.setObj_ae (u : Fin 32) : (s.setObj a x).ae u = s.ae u := rfl
@[simp] theorem State.setObj_obj (b : Nat) : (s.setObj a x).obj b = if a = b then x else s.obj b := by
  simp [State.setObj, State.obj]
@[simp] theorem State.setObj_chan (j : Nat) : (s.setObj a x).chan j = s.chan j := rfl
@[simp] theorem State.setObj_mbx (j : Fin 8) : (s.setObj a x).mbx j = s.mbx j := rfl
@[simp] theorem State.setObj_evq (j : Nat) : (s.setObj a x).evq j = s.evq j := rfl
@[simp] theorem State.setObj_msix (j : Fin 16) : (s.setObj a x).msix j = s.msix j := rfl
@[simp] theorem State.setObj_level (j : Nat) : (s.setObj a x).level j = s.level j := rfl
@[simp] theorem State.setObj_wakePhase (j : Nat) : (s.setObj a x).wakePhase j = s.wakePhase j := rfl
@[simp] theorem State.setObj_counter (j : Nat) : (s.setObj a x).counter j = s.counter j := rfl
@[simp] theorem State.setObj_grain (j : Nat) : (s.setObj a x).grain j = s.grain j := rfl
@[simp] theorem State.setObj_seq (j : Nat) : (s.setObj a x).seq j = s.seq j := rfl
@[simp] theorem State.setObj_page (j : Nat) : (s.setObj a x).page j = s.page j := rfl
@[simp] theorem State.setObj_cxl (j : Nat) : (s.setObj a x).cxl j = s.cxl j := rfl
@[simp] theorem State.setObj_ring (j : Nat) : (s.setObj a x).ring j = s.ring j := rfl
@[simp] theorem State.setObj_bind (j : Nat) : (s.setObj a x).bind j = s.bind j := rfl
@[simp] theorem State.setObj_group (j : Nat) : (s.setObj a x).group j = s.group j := rfl
@[simp] theorem State.setObj_port (j : Nat) : (s.setObj a x).port j = s.port j := rfl
@[simp] theorem State.setObj_sess (j : Nat) : (s.setObj a x).sess j = s.sess j := rfl

end

/-! setChan. -/

section
variable (s : State) (k : Nat) (x : StrChan)

@[simp] theorem State.setChan_ctxs : (s.setChan k x).ctxs = s.ctxs := rfl
@[simp] theorem State.setChan_tiles : (s.setChan k x).tiles = s.tiles := rfl
@[simp] theorem State.setChan_sram : (s.setChan k x).sram = s.sram := rfl
@[simp] theorem State.setChan_dev : (s.setChan k x).dev = s.dev := rfl
@[simp] theorem State.setChan_hostMem : (s.setChan k x).hostMem = s.hostMem := rfl
@[simp] theorem State.setChan_saves : (s.setChan k x).saves = s.saves := rfl
@[simp] theorem State.setChan_slots : (s.setChan k x).slots = s.slots := rfl
@[simp] theorem State.setChan_blocks : (s.setChan k x).blocks = s.blocks := rfl
@[simp] theorem State.setChan_launchNo : (s.setChan k x).launchNo = s.launchNo := rfl
@[simp] theorem State.setChan_parks : (s.setChan k x).parks = s.parks := rfl
@[simp] theorem State.setChan_sync : (s.setChan k x).sync = { s.sync with chans := tabPut {} s.sync.chans k x } := rfl
@[simp] theorem State.setChan_streams : (s.setChan k x).streams = s.streams := rfl
@[simp] theorem State.setChan_tiers : (s.setChan k x).tiers = s.tiers := rfl
@[simp] theorem State.setChan_seqs : (s.setChan k x).seqs = s.seqs := rfl
@[simp] theorem State.setChan_rings : (s.setChan k x).rings = s.rings := rfl
@[simp] theorem State.setChan_aeCtxs : (s.setChan k x).aeCtxs = s.aeCtxs := rfl
@[simp] theorem State.setChan_aes : (s.setChan k x).aes = s.aes := rfl
@[simp] theorem State.setChan_colls : (s.setChan k x).colls = s.colls := rfl
@[simp] theorem State.setChan_host : (s.setChan k x).host = s.host := rfl
@[simp] theorem State.setChan_fabric : (s.setChan k x).fabric = s.fabric := rfl
@[simp] theorem State.setChan_time : (s.setChan k x).time = s.time := rfl
@[simp] theorem State.setChan_cmd : (s.setChan k x).cmd = s.cmd := rfl
@[simp] theorem State.setChan_prot : (s.setChan k x).prot = s.prot := rfl
@[simp] theorem State.setChan_power : (s.setChan k x).power = s.power := rfl
@[simp] theorem State.setChan_pins : (s.setChan k x).pins = s.pins := rfl
@[simp] theorem State.setChan_smbus : (s.setChan k x).smbus = s.smbus := rfl
@[simp] theorem State.setChan_idle : (s.setChan k x).idle = s.idle := rfl
@[simp] theorem State.setChan_geo : (s.setChan k x).geo = s.geo := rfl
@[simp] theorem State.setChan_counters : (s.setChan k x).counters = s.counters := rfl
@[simp] theorem State.setChan_out : (s.setChan k x).out = s.out := rfl
@[simp] theorem State.setChan_pending : (s.setChan k x).pending = s.pending := rfl
@[simp] theorem State.setChan_free : (s.setChan k x).free = s.free := rfl
@[simp] theorem State.setChan_ctx (u : Fin 192) (d : Fin 4) : (s.setChan k x).ctx u d = s.ctx u d := rfl
@[simp] theorem State.setChan_tile (u : Fin 192) : (s.setChan k x).tile u = s.tile u := rfl
@[simp] theorem State.setChan_slot (i : Fin 16) : (s.setChan k x).slot i = s.slot i := rfl
@[simp] theorem State.setChan_launch (i : Fin 16) : (s.setChan k x).launch i = s.launch i := rfl
@[simp] theorem State.setChan_queue (r : Fin 256) : (s.setChan k x).queue r = s.queue r := rfl
@[simp] theorem State.setChan_aeCtx (u : Fin 32) (d : Fin 4) : (s.setChan k x).aeCtx u d = s.aeCtx u d := rfl
@[simp] theorem State.setChan_ae (u : Fin 32) : (s.setChan k x).ae u = s.ae u := rfl
@[simp] theorem State.setChan_obj (b : Nat) : (s.setChan k x).obj b = s.obj b := rfl
@[simp] theorem State.setChan_chan (j : Nat) : (s.setChan k x).chan j = if k = j then x else s.chan j := by
  simp [State.setChan, State.chan]
@[simp] theorem State.setChan_mbx (j : Fin 8) : (s.setChan k x).mbx j = s.mbx j := rfl
@[simp] theorem State.setChan_evq (j : Nat) : (s.setChan k x).evq j = s.evq j := rfl
@[simp] theorem State.setChan_msix (j : Fin 16) : (s.setChan k x).msix j = s.msix j := rfl
@[simp] theorem State.setChan_level (j : Nat) : (s.setChan k x).level j = s.level j := rfl
@[simp] theorem State.setChan_wakePhase (j : Nat) : (s.setChan k x).wakePhase j = s.wakePhase j := rfl
@[simp] theorem State.setChan_counter (j : Nat) : (s.setChan k x).counter j = s.counter j := rfl
@[simp] theorem State.setChan_grain (j : Nat) : (s.setChan k x).grain j = s.grain j := rfl
@[simp] theorem State.setChan_seq (j : Nat) : (s.setChan k x).seq j = s.seq j := rfl
@[simp] theorem State.setChan_page (j : Nat) : (s.setChan k x).page j = s.page j := rfl
@[simp] theorem State.setChan_cxl (j : Nat) : (s.setChan k x).cxl j = s.cxl j := rfl
@[simp] theorem State.setChan_ring (j : Nat) : (s.setChan k x).ring j = s.ring j := rfl
@[simp] theorem State.setChan_bind (j : Nat) : (s.setChan k x).bind j = s.bind j := rfl
@[simp] theorem State.setChan_group (j : Nat) : (s.setChan k x).group j = s.group j := rfl
@[simp] theorem State.setChan_port (j : Nat) : (s.setChan k x).port j = s.port j := rfl
@[simp] theorem State.setChan_sess (j : Nat) : (s.setChan k x).sess j = s.sess j := rfl

end

/-! setMbx. -/

section
variable (s : State) (m : Fin 8) (x : Mailbox)

@[simp] theorem State.setMbx_ctxs : (s.setMbx m x).ctxs = s.ctxs := rfl
@[simp] theorem State.setMbx_tiles : (s.setMbx m x).tiles = s.tiles := rfl
@[simp] theorem State.setMbx_sram : (s.setMbx m x).sram = s.sram := rfl
@[simp] theorem State.setMbx_dev : (s.setMbx m x).dev = s.dev := rfl
@[simp] theorem State.setMbx_hostMem : (s.setMbx m x).hostMem = s.hostMem := rfl
@[simp] theorem State.setMbx_saves : (s.setMbx m x).saves = s.saves := rfl
@[simp] theorem State.setMbx_slots : (s.setMbx m x).slots = s.slots := rfl
@[simp] theorem State.setMbx_blocks : (s.setMbx m x).blocks = s.blocks := rfl
@[simp] theorem State.setMbx_launchNo : (s.setMbx m x).launchNo = s.launchNo := rfl
@[simp] theorem State.setMbx_parks : (s.setMbx m x).parks = s.parks := rfl
@[simp] theorem State.setMbx_sync : (s.setMbx m x).sync = s.sync := rfl
@[simp] theorem State.setMbx_streams : (s.setMbx m x).streams = s.streams := rfl
@[simp] theorem State.setMbx_tiers : (s.setMbx m x).tiers = s.tiers := rfl
@[simp] theorem State.setMbx_seqs : (s.setMbx m x).seqs = s.seqs := rfl
@[simp] theorem State.setMbx_rings : (s.setMbx m x).rings = s.rings := rfl
@[simp] theorem State.setMbx_aeCtxs : (s.setMbx m x).aeCtxs = s.aeCtxs := rfl
@[simp] theorem State.setMbx_aes : (s.setMbx m x).aes = s.aes := rfl
@[simp] theorem State.setMbx_colls : (s.setMbx m x).colls = s.colls := rfl
@[simp] theorem State.setMbx_host : (s.setMbx m x).host = { s.host with mbx := tabPut {} s.host.mbx m.val x } := rfl
@[simp] theorem State.setMbx_fabric : (s.setMbx m x).fabric = s.fabric := rfl
@[simp] theorem State.setMbx_time : (s.setMbx m x).time = s.time := rfl
@[simp] theorem State.setMbx_cmd : (s.setMbx m x).cmd = s.cmd := rfl
@[simp] theorem State.setMbx_prot : (s.setMbx m x).prot = s.prot := rfl
@[simp] theorem State.setMbx_power : (s.setMbx m x).power = s.power := rfl
@[simp] theorem State.setMbx_pins : (s.setMbx m x).pins = s.pins := rfl
@[simp] theorem State.setMbx_smbus : (s.setMbx m x).smbus = s.smbus := rfl
@[simp] theorem State.setMbx_idle : (s.setMbx m x).idle = s.idle := rfl
@[simp] theorem State.setMbx_geo : (s.setMbx m x).geo = s.geo := rfl
@[simp] theorem State.setMbx_counters : (s.setMbx m x).counters = s.counters := rfl
@[simp] theorem State.setMbx_out : (s.setMbx m x).out = s.out := rfl
@[simp] theorem State.setMbx_pending : (s.setMbx m x).pending = s.pending := rfl
@[simp] theorem State.setMbx_free : (s.setMbx m x).free = s.free := rfl
@[simp] theorem State.setMbx_ctx (u : Fin 192) (d : Fin 4) : (s.setMbx m x).ctx u d = s.ctx u d := rfl
@[simp] theorem State.setMbx_tile (u : Fin 192) : (s.setMbx m x).tile u = s.tile u := rfl
@[simp] theorem State.setMbx_slot (i : Fin 16) : (s.setMbx m x).slot i = s.slot i := rfl
@[simp] theorem State.setMbx_launch (i : Fin 16) : (s.setMbx m x).launch i = s.launch i := rfl
@[simp] theorem State.setMbx_queue (r : Fin 256) : (s.setMbx m x).queue r = s.queue r := rfl
@[simp] theorem State.setMbx_aeCtx (u : Fin 32) (d : Fin 4) : (s.setMbx m x).aeCtx u d = s.aeCtx u d := rfl
@[simp] theorem State.setMbx_ae (u : Fin 32) : (s.setMbx m x).ae u = s.ae u := rfl
@[simp] theorem State.setMbx_obj (b : Nat) : (s.setMbx m x).obj b = s.obj b := rfl
@[simp] theorem State.setMbx_chan (j : Nat) : (s.setMbx m x).chan j = s.chan j := rfl
@[simp] theorem State.setMbx_mbx (j : Fin 8) : (s.setMbx m x).mbx j = if m = j then x else s.mbx j := by
  simp [State.setMbx, State.mbx, Fin.ext_iff]
@[simp] theorem State.setMbx_evq (j : Nat) : (s.setMbx m x).evq j = s.evq j := rfl
@[simp] theorem State.setMbx_msix (j : Fin 16) : (s.setMbx m x).msix j = s.msix j := rfl
@[simp] theorem State.setMbx_level (j : Nat) : (s.setMbx m x).level j = s.level j := rfl
@[simp] theorem State.setMbx_wakePhase (j : Nat) : (s.setMbx m x).wakePhase j = s.wakePhase j := rfl
@[simp] theorem State.setMbx_counter (j : Nat) : (s.setMbx m x).counter j = s.counter j := rfl
@[simp] theorem State.setMbx_grain (j : Nat) : (s.setMbx m x).grain j = s.grain j := rfl
@[simp] theorem State.setMbx_seq (j : Nat) : (s.setMbx m x).seq j = s.seq j := rfl
@[simp] theorem State.setMbx_page (j : Nat) : (s.setMbx m x).page j = s.page j := rfl
@[simp] theorem State.setMbx_cxl (j : Nat) : (s.setMbx m x).cxl j = s.cxl j := rfl
@[simp] theorem State.setMbx_ring (j : Nat) : (s.setMbx m x).ring j = s.ring j := rfl
@[simp] theorem State.setMbx_bind (j : Nat) : (s.setMbx m x).bind j = s.bind j := rfl
@[simp] theorem State.setMbx_group (j : Nat) : (s.setMbx m x).group j = s.group j := rfl
@[simp] theorem State.setMbx_port (j : Nat) : (s.setMbx m x).port j = s.port j := rfl
@[simp] theorem State.setMbx_sess (j : Nat) : (s.setMbx m x).sess j = s.sess j := rfl

end

/-! setEvq. -/

section
variable (s : State) (i : Nat) (x : EvQueue)

@[simp] theorem State.setEvq_ctxs : (s.setEvq i x).ctxs = s.ctxs := rfl
@[simp] theorem State.setEvq_tiles : (s.setEvq i x).tiles = s.tiles := rfl
@[simp] theorem State.setEvq_sram : (s.setEvq i x).sram = s.sram := rfl
@[simp] theorem State.setEvq_dev : (s.setEvq i x).dev = s.dev := rfl
@[simp] theorem State.setEvq_hostMem : (s.setEvq i x).hostMem = s.hostMem := rfl
@[simp] theorem State.setEvq_saves : (s.setEvq i x).saves = s.saves := rfl
@[simp] theorem State.setEvq_slots : (s.setEvq i x).slots = s.slots := rfl
@[simp] theorem State.setEvq_blocks : (s.setEvq i x).blocks = s.blocks := rfl
@[simp] theorem State.setEvq_launchNo : (s.setEvq i x).launchNo = s.launchNo := rfl
@[simp] theorem State.setEvq_parks : (s.setEvq i x).parks = s.parks := rfl
@[simp] theorem State.setEvq_sync : (s.setEvq i x).sync = s.sync := rfl
@[simp] theorem State.setEvq_streams : (s.setEvq i x).streams = s.streams := rfl
@[simp] theorem State.setEvq_tiers : (s.setEvq i x).tiers = s.tiers := rfl
@[simp] theorem State.setEvq_seqs : (s.setEvq i x).seqs = s.seqs := rfl
@[simp] theorem State.setEvq_rings : (s.setEvq i x).rings = s.rings := rfl
@[simp] theorem State.setEvq_aeCtxs : (s.setEvq i x).aeCtxs = s.aeCtxs := rfl
@[simp] theorem State.setEvq_aes : (s.setEvq i x).aes = s.aes := rfl
@[simp] theorem State.setEvq_colls : (s.setEvq i x).colls = s.colls := rfl
@[simp] theorem State.setEvq_host : (s.setEvq i x).host = { s.host with evq := tabPut {} s.host.evq i x } := rfl
@[simp] theorem State.setEvq_fabric : (s.setEvq i x).fabric = s.fabric := rfl
@[simp] theorem State.setEvq_time : (s.setEvq i x).time = s.time := rfl
@[simp] theorem State.setEvq_cmd : (s.setEvq i x).cmd = s.cmd := rfl
@[simp] theorem State.setEvq_prot : (s.setEvq i x).prot = s.prot := rfl
@[simp] theorem State.setEvq_power : (s.setEvq i x).power = s.power := rfl
@[simp] theorem State.setEvq_pins : (s.setEvq i x).pins = s.pins := rfl
@[simp] theorem State.setEvq_smbus : (s.setEvq i x).smbus = s.smbus := rfl
@[simp] theorem State.setEvq_idle : (s.setEvq i x).idle = s.idle := rfl
@[simp] theorem State.setEvq_geo : (s.setEvq i x).geo = s.geo := rfl
@[simp] theorem State.setEvq_counters : (s.setEvq i x).counters = s.counters := rfl
@[simp] theorem State.setEvq_out : (s.setEvq i x).out = s.out := rfl
@[simp] theorem State.setEvq_pending : (s.setEvq i x).pending = s.pending := rfl
@[simp] theorem State.setEvq_free : (s.setEvq i x).free = s.free := rfl
@[simp] theorem State.setEvq_ctx (u : Fin 192) (d : Fin 4) : (s.setEvq i x).ctx u d = s.ctx u d := rfl
@[simp] theorem State.setEvq_tile (u : Fin 192) : (s.setEvq i x).tile u = s.tile u := rfl
@[simp] theorem State.setEvq_slot (i' : Fin 16) : (s.setEvq i x).slot i' = s.slot i' := rfl
@[simp] theorem State.setEvq_launch (i' : Fin 16) : (s.setEvq i x).launch i' = s.launch i' := rfl
@[simp] theorem State.setEvq_queue (r : Fin 256) : (s.setEvq i x).queue r = s.queue r := rfl
@[simp] theorem State.setEvq_aeCtx (u : Fin 32) (d : Fin 4) : (s.setEvq i x).aeCtx u d = s.aeCtx u d := rfl
@[simp] theorem State.setEvq_ae (u : Fin 32) : (s.setEvq i x).ae u = s.ae u := rfl
@[simp] theorem State.setEvq_obj (b : Nat) : (s.setEvq i x).obj b = s.obj b := rfl
@[simp] theorem State.setEvq_chan (j : Nat) : (s.setEvq i x).chan j = s.chan j := rfl
@[simp] theorem State.setEvq_mbx (j : Fin 8) : (s.setEvq i x).mbx j = s.mbx j := rfl
@[simp] theorem State.setEvq_evq (j : Nat) : (s.setEvq i x).evq j = if i = j then x else s.evq j := by
  simp [State.setEvq, State.evq]
@[simp] theorem State.setEvq_msix (j : Fin 16) : (s.setEvq i x).msix j = s.msix j := rfl
@[simp] theorem State.setEvq_level (j : Nat) : (s.setEvq i x).level j = s.level j := rfl
@[simp] theorem State.setEvq_wakePhase (j : Nat) : (s.setEvq i x).wakePhase j = s.wakePhase j := rfl
@[simp] theorem State.setEvq_counter (j : Nat) : (s.setEvq i x).counter j = s.counter j := rfl
@[simp] theorem State.setEvq_grain (j : Nat) : (s.setEvq i x).grain j = s.grain j := rfl
@[simp] theorem State.setEvq_seq (j : Nat) : (s.setEvq i x).seq j = s.seq j := rfl
@[simp] theorem State.setEvq_page (j : Nat) : (s.setEvq i x).page j = s.page j := rfl
@[simp] theorem State.setEvq_cxl (j : Nat) : (s.setEvq i x).cxl j = s.cxl j := rfl
@[simp] theorem State.setEvq_ring (j : Nat) : (s.setEvq i x).ring j = s.ring j := rfl
@[simp] theorem State.setEvq_bind (j : Nat) : (s.setEvq i x).bind j = s.bind j := rfl
@[simp] theorem State.setEvq_group (j : Nat) : (s.setEvq i x).group j = s.group j := rfl
@[simp] theorem State.setEvq_port (j : Nat) : (s.setEvq i x).port j = s.port j := rfl
@[simp] theorem State.setEvq_sess (j : Nat) : (s.setEvq i x).sess j = s.sess j := rfl

end

/-! setMsix. -/

section
variable (s : State) (v : Fin 16) (x : MsixEntry)

@[simp] theorem State.setMsix_ctxs : (s.setMsix v x).ctxs = s.ctxs := rfl
@[simp] theorem State.setMsix_tiles : (s.setMsix v x).tiles = s.tiles := rfl
@[simp] theorem State.setMsix_sram : (s.setMsix v x).sram = s.sram := rfl
@[simp] theorem State.setMsix_dev : (s.setMsix v x).dev = s.dev := rfl
@[simp] theorem State.setMsix_hostMem : (s.setMsix v x).hostMem = s.hostMem := rfl
@[simp] theorem State.setMsix_saves : (s.setMsix v x).saves = s.saves := rfl
@[simp] theorem State.setMsix_slots : (s.setMsix v x).slots = s.slots := rfl
@[simp] theorem State.setMsix_blocks : (s.setMsix v x).blocks = s.blocks := rfl
@[simp] theorem State.setMsix_launchNo : (s.setMsix v x).launchNo = s.launchNo := rfl
@[simp] theorem State.setMsix_parks : (s.setMsix v x).parks = s.parks := rfl
@[simp] theorem State.setMsix_sync : (s.setMsix v x).sync = s.sync := rfl
@[simp] theorem State.setMsix_streams : (s.setMsix v x).streams = s.streams := rfl
@[simp] theorem State.setMsix_tiers : (s.setMsix v x).tiers = s.tiers := rfl
@[simp] theorem State.setMsix_seqs : (s.setMsix v x).seqs = s.seqs := rfl
@[simp] theorem State.setMsix_rings : (s.setMsix v x).rings = s.rings := rfl
@[simp] theorem State.setMsix_aeCtxs : (s.setMsix v x).aeCtxs = s.aeCtxs := rfl
@[simp] theorem State.setMsix_aes : (s.setMsix v x).aes = s.aes := rfl
@[simp] theorem State.setMsix_colls : (s.setMsix v x).colls = s.colls := rfl
@[simp] theorem State.setMsix_host : (s.setMsix v x).host = { s.host with msix := tabPut {} s.host.msix v.val x } := rfl
@[simp] theorem State.setMsix_fabric : (s.setMsix v x).fabric = s.fabric := rfl
@[simp] theorem State.setMsix_time : (s.setMsix v x).time = s.time := rfl
@[simp] theorem State.setMsix_cmd : (s.setMsix v x).cmd = s.cmd := rfl
@[simp] theorem State.setMsix_prot : (s.setMsix v x).prot = s.prot := rfl
@[simp] theorem State.setMsix_power : (s.setMsix v x).power = s.power := rfl
@[simp] theorem State.setMsix_pins : (s.setMsix v x).pins = s.pins := rfl
@[simp] theorem State.setMsix_smbus : (s.setMsix v x).smbus = s.smbus := rfl
@[simp] theorem State.setMsix_idle : (s.setMsix v x).idle = s.idle := rfl
@[simp] theorem State.setMsix_geo : (s.setMsix v x).geo = s.geo := rfl
@[simp] theorem State.setMsix_counters : (s.setMsix v x).counters = s.counters := rfl
@[simp] theorem State.setMsix_out : (s.setMsix v x).out = s.out := rfl
@[simp] theorem State.setMsix_pending : (s.setMsix v x).pending = s.pending := rfl
@[simp] theorem State.setMsix_free : (s.setMsix v x).free = s.free := rfl
@[simp] theorem State.setMsix_ctx (u : Fin 192) (d : Fin 4) : (s.setMsix v x).ctx u d = s.ctx u d := rfl
@[simp] theorem State.setMsix_tile (u : Fin 192) : (s.setMsix v x).tile u = s.tile u := rfl
@[simp] theorem State.setMsix_slot (i : Fin 16) : (s.setMsix v x).slot i = s.slot i := rfl
@[simp] theorem State.setMsix_launch (i : Fin 16) : (s.setMsix v x).launch i = s.launch i := rfl
@[simp] theorem State.setMsix_queue (r : Fin 256) : (s.setMsix v x).queue r = s.queue r := rfl
@[simp] theorem State.setMsix_aeCtx (u : Fin 32) (d : Fin 4) : (s.setMsix v x).aeCtx u d = s.aeCtx u d := rfl
@[simp] theorem State.setMsix_ae (u : Fin 32) : (s.setMsix v x).ae u = s.ae u := rfl
@[simp] theorem State.setMsix_obj (b : Nat) : (s.setMsix v x).obj b = s.obj b := rfl
@[simp] theorem State.setMsix_chan (j : Nat) : (s.setMsix v x).chan j = s.chan j := rfl
@[simp] theorem State.setMsix_mbx (j : Fin 8) : (s.setMsix v x).mbx j = s.mbx j := rfl
@[simp] theorem State.setMsix_evq (j : Nat) : (s.setMsix v x).evq j = s.evq j := rfl
@[simp] theorem State.setMsix_msix (j : Fin 16) : (s.setMsix v x).msix j = if v = j then x else s.msix j := by
  simp [State.setMsix, State.msix, Fin.ext_iff]
@[simp] theorem State.setMsix_level (j : Nat) : (s.setMsix v x).level j = s.level j := rfl
@[simp] theorem State.setMsix_wakePhase (j : Nat) : (s.setMsix v x).wakePhase j = s.wakePhase j := rfl
@[simp] theorem State.setMsix_counter (j : Nat) : (s.setMsix v x).counter j = s.counter j := rfl
@[simp] theorem State.setMsix_grain (j : Nat) : (s.setMsix v x).grain j = s.grain j := rfl
@[simp] theorem State.setMsix_seq (j : Nat) : (s.setMsix v x).seq j = s.seq j := rfl
@[simp] theorem State.setMsix_page (j : Nat) : (s.setMsix v x).page j = s.page j := rfl
@[simp] theorem State.setMsix_cxl (j : Nat) : (s.setMsix v x).cxl j = s.cxl j := rfl
@[simp] theorem State.setMsix_ring (j : Nat) : (s.setMsix v x).ring j = s.ring j := rfl
@[simp] theorem State.setMsix_bind (j : Nat) : (s.setMsix v x).bind j = s.bind j := rfl
@[simp] theorem State.setMsix_group (j : Nat) : (s.setMsix v x).group j = s.group j := rfl
@[simp] theorem State.setMsix_port (j : Nat) : (s.setMsix v x).port j = s.port j := rfl
@[simp] theorem State.setMsix_sess (j : Nat) : (s.setMsix v x).sess j = s.sess j := rfl

end

/-! setLevel. -/

section
variable (s : State) (u : Nat) (x : Fin 4)

@[simp] theorem State.setLevel_ctxs : (s.setLevel u x).ctxs = s.ctxs := rfl
@[simp] theorem State.setLevel_tiles : (s.setLevel u x).tiles = s.tiles := rfl
@[simp] theorem State.setLevel_sram : (s.setLevel u x).sram = s.sram := rfl
@[simp] theorem State.setLevel_dev : (s.setLevel u x).dev = s.dev := rfl
@[simp] theorem State.setLevel_hostMem : (s.setLevel u x).hostMem = s.hostMem := rfl
@[simp] theorem State.setLevel_saves : (s.setLevel u x).saves = s.saves := rfl
@[simp] theorem State.setLevel_slots : (s.setLevel u x).slots = s.slots := rfl
@[simp] theorem State.setLevel_blocks : (s.setLevel u x).blocks = s.blocks := rfl
@[simp] theorem State.setLevel_launchNo : (s.setLevel u x).launchNo = s.launchNo := rfl
@[simp] theorem State.setLevel_parks : (s.setLevel u x).parks = s.parks := rfl
@[simp] theorem State.setLevel_sync : (s.setLevel u x).sync = s.sync := rfl
@[simp] theorem State.setLevel_streams : (s.setLevel u x).streams = s.streams := rfl
@[simp] theorem State.setLevel_tiers : (s.setLevel u x).tiers = s.tiers := rfl
@[simp] theorem State.setLevel_seqs : (s.setLevel u x).seqs = s.seqs := rfl
@[simp] theorem State.setLevel_rings : (s.setLevel u x).rings = s.rings := rfl
@[simp] theorem State.setLevel_aeCtxs : (s.setLevel u x).aeCtxs = s.aeCtxs := rfl
@[simp] theorem State.setLevel_aes : (s.setLevel u x).aes = s.aes := rfl
@[simp] theorem State.setLevel_colls : (s.setLevel u x).colls = s.colls := rfl
@[simp] theorem State.setLevel_host : (s.setLevel u x).host = s.host := rfl
@[simp] theorem State.setLevel_fabric : (s.setLevel u x).fabric = s.fabric := rfl
@[simp] theorem State.setLevel_time : (s.setLevel u x).time = s.time := rfl
@[simp] theorem State.setLevel_cmd : (s.setLevel u x).cmd = s.cmd := rfl
@[simp] theorem State.setLevel_prot : (s.setLevel u x).prot = s.prot := rfl
@[simp] theorem State.setLevel_power : (s.setLevel u x).power = s.power := rfl
@[simp] theorem State.setLevel_pins : (s.setLevel u x).pins = s.pins := rfl
@[simp] theorem State.setLevel_smbus : (s.setLevel u x).smbus = s.smbus := rfl
@[simp] theorem State.setLevel_idle : (s.setLevel u x).idle = { s.idle with levels := tabPut 0 s.idle.levels u x } := rfl
@[simp] theorem State.setLevel_geo : (s.setLevel u x).geo = s.geo := rfl
@[simp] theorem State.setLevel_counters : (s.setLevel u x).counters = s.counters := rfl
@[simp] theorem State.setLevel_out : (s.setLevel u x).out = s.out := rfl
@[simp] theorem State.setLevel_pending : (s.setLevel u x).pending = s.pending := rfl
@[simp] theorem State.setLevel_free : (s.setLevel u x).free = s.free := rfl
@[simp] theorem State.setLevel_ctx (u' : Fin 192) (d : Fin 4) : (s.setLevel u x).ctx u' d = s.ctx u' d := rfl
@[simp] theorem State.setLevel_tile (u' : Fin 192) : (s.setLevel u x).tile u' = s.tile u' := rfl
@[simp] theorem State.setLevel_slot (i : Fin 16) : (s.setLevel u x).slot i = s.slot i := rfl
@[simp] theorem State.setLevel_launch (i : Fin 16) : (s.setLevel u x).launch i = s.launch i := rfl
@[simp] theorem State.setLevel_queue (r : Fin 256) : (s.setLevel u x).queue r = s.queue r := rfl
@[simp] theorem State.setLevel_aeCtx (u' : Fin 32) (d : Fin 4) : (s.setLevel u x).aeCtx u' d = s.aeCtx u' d := rfl
@[simp] theorem State.setLevel_ae (u' : Fin 32) : (s.setLevel u x).ae u' = s.ae u' := rfl
@[simp] theorem State.setLevel_obj (b : Nat) : (s.setLevel u x).obj b = s.obj b := rfl
@[simp] theorem State.setLevel_chan (j : Nat) : (s.setLevel u x).chan j = s.chan j := rfl
@[simp] theorem State.setLevel_mbx (j : Fin 8) : (s.setLevel u x).mbx j = s.mbx j := rfl
@[simp] theorem State.setLevel_evq (j : Nat) : (s.setLevel u x).evq j = s.evq j := rfl
@[simp] theorem State.setLevel_msix (j : Fin 16) : (s.setLevel u x).msix j = s.msix j := rfl
@[simp] theorem State.setLevel_level (j : Nat) : (s.setLevel u x).level j = if u = j then x else s.level j := by
  simp [State.setLevel, State.level]
@[simp] theorem State.setLevel_wakePhase (j : Nat) : (s.setLevel u x).wakePhase j = s.wakePhase j := rfl
@[simp] theorem State.setLevel_counter (j : Nat) : (s.setLevel u x).counter j = s.counter j := rfl
@[simp] theorem State.setLevel_grain (j : Nat) : (s.setLevel u x).grain j = s.grain j := rfl
@[simp] theorem State.setLevel_seq (j : Nat) : (s.setLevel u x).seq j = s.seq j := rfl
@[simp] theorem State.setLevel_page (j : Nat) : (s.setLevel u x).page j = s.page j := rfl
@[simp] theorem State.setLevel_cxl (j : Nat) : (s.setLevel u x).cxl j = s.cxl j := rfl
@[simp] theorem State.setLevel_ring (j : Nat) : (s.setLevel u x).ring j = s.ring j := rfl
@[simp] theorem State.setLevel_bind (j : Nat) : (s.setLevel u x).bind j = s.bind j := rfl
@[simp] theorem State.setLevel_group (j : Nat) : (s.setLevel u x).group j = s.group j := rfl
@[simp] theorem State.setLevel_port (j : Nat) : (s.setLevel u x).port j = s.port j := rfl
@[simp] theorem State.setLevel_sess (j : Nat) : (s.setLevel u x).sess j = s.sess j := rfl

end

/-! setWake. -/

section
variable (s : State) (u : Nat) (x : Fin 4)

@[simp] theorem State.setWake_ctxs : (s.setWake u x).ctxs = s.ctxs := rfl
@[simp] theorem State.setWake_tiles : (s.setWake u x).tiles = s.tiles := rfl
@[simp] theorem State.setWake_sram : (s.setWake u x).sram = s.sram := rfl
@[simp] theorem State.setWake_dev : (s.setWake u x).dev = s.dev := rfl
@[simp] theorem State.setWake_hostMem : (s.setWake u x).hostMem = s.hostMem := rfl
@[simp] theorem State.setWake_saves : (s.setWake u x).saves = s.saves := rfl
@[simp] theorem State.setWake_slots : (s.setWake u x).slots = s.slots := rfl
@[simp] theorem State.setWake_blocks : (s.setWake u x).blocks = s.blocks := rfl
@[simp] theorem State.setWake_launchNo : (s.setWake u x).launchNo = s.launchNo := rfl
@[simp] theorem State.setWake_parks : (s.setWake u x).parks = s.parks := rfl
@[simp] theorem State.setWake_sync : (s.setWake u x).sync = s.sync := rfl
@[simp] theorem State.setWake_streams : (s.setWake u x).streams = s.streams := rfl
@[simp] theorem State.setWake_tiers : (s.setWake u x).tiers = s.tiers := rfl
@[simp] theorem State.setWake_seqs : (s.setWake u x).seqs = s.seqs := rfl
@[simp] theorem State.setWake_rings : (s.setWake u x).rings = s.rings := rfl
@[simp] theorem State.setWake_aeCtxs : (s.setWake u x).aeCtxs = s.aeCtxs := rfl
@[simp] theorem State.setWake_aes : (s.setWake u x).aes = s.aes := rfl
@[simp] theorem State.setWake_colls : (s.setWake u x).colls = s.colls := rfl
@[simp] theorem State.setWake_host : (s.setWake u x).host = s.host := rfl
@[simp] theorem State.setWake_fabric : (s.setWake u x).fabric = s.fabric := rfl
@[simp] theorem State.setWake_time : (s.setWake u x).time = s.time := rfl
@[simp] theorem State.setWake_cmd : (s.setWake u x).cmd = s.cmd := rfl
@[simp] theorem State.setWake_prot : (s.setWake u x).prot = s.prot := rfl
@[simp] theorem State.setWake_power : (s.setWake u x).power = s.power := rfl
@[simp] theorem State.setWake_pins : (s.setWake u x).pins = s.pins := rfl
@[simp] theorem State.setWake_smbus : (s.setWake u x).smbus = s.smbus := rfl
@[simp] theorem State.setWake_idle : (s.setWake u x).idle = { s.idle with waking := tabPut 0 s.idle.waking u x } := rfl
@[simp] theorem State.setWake_geo : (s.setWake u x).geo = s.geo := rfl
@[simp] theorem State.setWake_counters : (s.setWake u x).counters = s.counters := rfl
@[simp] theorem State.setWake_out : (s.setWake u x).out = s.out := rfl
@[simp] theorem State.setWake_pending : (s.setWake u x).pending = s.pending := rfl
@[simp] theorem State.setWake_free : (s.setWake u x).free = s.free := rfl
@[simp] theorem State.setWake_ctx (u' : Fin 192) (d : Fin 4) : (s.setWake u x).ctx u' d = s.ctx u' d := rfl
@[simp] theorem State.setWake_tile (u' : Fin 192) : (s.setWake u x).tile u' = s.tile u' := rfl
@[simp] theorem State.setWake_slot (i : Fin 16) : (s.setWake u x).slot i = s.slot i := rfl
@[simp] theorem State.setWake_launch (i : Fin 16) : (s.setWake u x).launch i = s.launch i := rfl
@[simp] theorem State.setWake_queue (r : Fin 256) : (s.setWake u x).queue r = s.queue r := rfl
@[simp] theorem State.setWake_aeCtx (u' : Fin 32) (d : Fin 4) : (s.setWake u x).aeCtx u' d = s.aeCtx u' d := rfl
@[simp] theorem State.setWake_ae (u' : Fin 32) : (s.setWake u x).ae u' = s.ae u' := rfl
@[simp] theorem State.setWake_obj (b : Nat) : (s.setWake u x).obj b = s.obj b := rfl
@[simp] theorem State.setWake_chan (j : Nat) : (s.setWake u x).chan j = s.chan j := rfl
@[simp] theorem State.setWake_mbx (j : Fin 8) : (s.setWake u x).mbx j = s.mbx j := rfl
@[simp] theorem State.setWake_evq (j : Nat) : (s.setWake u x).evq j = s.evq j := rfl
@[simp] theorem State.setWake_msix (j : Fin 16) : (s.setWake u x).msix j = s.msix j := rfl
@[simp] theorem State.setWake_level (j : Nat) : (s.setWake u x).level j = s.level j := rfl
@[simp] theorem State.setWake_wakePhase (j : Nat) : (s.setWake u x).wakePhase j = if u = j then x else s.wakePhase j := by
  simp [State.setWake, State.wakePhase]
@[simp] theorem State.setWake_counter (j : Nat) : (s.setWake u x).counter j = s.counter j := rfl
@[simp] theorem State.setWake_grain (j : Nat) : (s.setWake u x).grain j = s.grain j := rfl
@[simp] theorem State.setWake_seq (j : Nat) : (s.setWake u x).seq j = s.seq j := rfl
@[simp] theorem State.setWake_page (j : Nat) : (s.setWake u x).page j = s.page j := rfl
@[simp] theorem State.setWake_cxl (j : Nat) : (s.setWake u x).cxl j = s.cxl j := rfl
@[simp] theorem State.setWake_ring (j : Nat) : (s.setWake u x).ring j = s.ring j := rfl
@[simp] theorem State.setWake_bind (j : Nat) : (s.setWake u x).bind j = s.bind j := rfl
@[simp] theorem State.setWake_group (j : Nat) : (s.setWake u x).group j = s.group j := rfl
@[simp] theorem State.setWake_port (j : Nat) : (s.setWake u x).port j = s.port j := rfl
@[simp] theorem State.setWake_sess (j : Nat) : (s.setWake u x).sess j = s.sess j := rfl

end

/-! setCounter. -/

section
variable (s : State) (n : Nat) (x : Counter)

@[simp] theorem State.setCounter_ctxs : (s.setCounter n x).ctxs = s.ctxs := rfl
@[simp] theorem State.setCounter_tiles : (s.setCounter n x).tiles = s.tiles := rfl
@[simp] theorem State.setCounter_sram : (s.setCounter n x).sram = s.sram := rfl
@[simp] theorem State.setCounter_dev : (s.setCounter n x).dev = s.dev := rfl
@[simp] theorem State.setCounter_hostMem : (s.setCounter n x).hostMem = s.hostMem := rfl
@[simp] theorem State.setCounter_saves : (s.setCounter n x).saves = s.saves := rfl
@[simp] theorem State.setCounter_slots : (s.setCounter n x).slots = s.slots := rfl
@[simp] theorem State.setCounter_blocks : (s.setCounter n x).blocks = s.blocks := rfl
@[simp] theorem State.setCounter_launchNo : (s.setCounter n x).launchNo = s.launchNo := rfl
@[simp] theorem State.setCounter_parks : (s.setCounter n x).parks = s.parks := rfl
@[simp] theorem State.setCounter_sync : (s.setCounter n x).sync = s.sync := rfl
@[simp] theorem State.setCounter_streams : (s.setCounter n x).streams = s.streams := rfl
@[simp] theorem State.setCounter_tiers : (s.setCounter n x).tiers = s.tiers := rfl
@[simp] theorem State.setCounter_seqs : (s.setCounter n x).seqs = s.seqs := rfl
@[simp] theorem State.setCounter_rings : (s.setCounter n x).rings = s.rings := rfl
@[simp] theorem State.setCounter_aeCtxs : (s.setCounter n x).aeCtxs = s.aeCtxs := rfl
@[simp] theorem State.setCounter_aes : (s.setCounter n x).aes = s.aes := rfl
@[simp] theorem State.setCounter_colls : (s.setCounter n x).colls = s.colls := rfl
@[simp] theorem State.setCounter_host : (s.setCounter n x).host = s.host := rfl
@[simp] theorem State.setCounter_fabric : (s.setCounter n x).fabric = s.fabric := rfl
@[simp] theorem State.setCounter_time : (s.setCounter n x).time = s.time := rfl
@[simp] theorem State.setCounter_cmd : (s.setCounter n x).cmd = s.cmd := rfl
@[simp] theorem State.setCounter_prot : (s.setCounter n x).prot = s.prot := rfl
@[simp] theorem State.setCounter_power : (s.setCounter n x).power = s.power := rfl
@[simp] theorem State.setCounter_pins : (s.setCounter n x).pins = s.pins := rfl
@[simp] theorem State.setCounter_smbus : (s.setCounter n x).smbus = s.smbus := rfl
@[simp] theorem State.setCounter_idle : (s.setCounter n x).idle = s.idle := rfl
@[simp] theorem State.setCounter_geo : (s.setCounter n x).geo = s.geo := rfl
@[simp] theorem State.setCounter_counters : (s.setCounter n x).counters = tabPut {} s.counters n x := rfl
@[simp] theorem State.setCounter_out : (s.setCounter n x).out = s.out := rfl
@[simp] theorem State.setCounter_pending : (s.setCounter n x).pending = s.pending := rfl
@[simp] theorem State.setCounter_free : (s.setCounter n x).free = s.free := rfl
@[simp] theorem State.setCounter_ctx (u : Fin 192) (d : Fin 4) : (s.setCounter n x).ctx u d = s.ctx u d := rfl
@[simp] theorem State.setCounter_tile (u : Fin 192) : (s.setCounter n x).tile u = s.tile u := rfl
@[simp] theorem State.setCounter_slot (i : Fin 16) : (s.setCounter n x).slot i = s.slot i := rfl
@[simp] theorem State.setCounter_launch (i : Fin 16) : (s.setCounter n x).launch i = s.launch i := rfl
@[simp] theorem State.setCounter_queue (r : Fin 256) : (s.setCounter n x).queue r = s.queue r := rfl
@[simp] theorem State.setCounter_aeCtx (u : Fin 32) (d : Fin 4) : (s.setCounter n x).aeCtx u d = s.aeCtx u d := rfl
@[simp] theorem State.setCounter_ae (u : Fin 32) : (s.setCounter n x).ae u = s.ae u := rfl
@[simp] theorem State.setCounter_obj (b : Nat) : (s.setCounter n x).obj b = s.obj b := rfl
@[simp] theorem State.setCounter_chan (j : Nat) : (s.setCounter n x).chan j = s.chan j := rfl
@[simp] theorem State.setCounter_mbx (j : Fin 8) : (s.setCounter n x).mbx j = s.mbx j := rfl
@[simp] theorem State.setCounter_evq (j : Nat) : (s.setCounter n x).evq j = s.evq j := rfl
@[simp] theorem State.setCounter_msix (j : Fin 16) : (s.setCounter n x).msix j = s.msix j := rfl
@[simp] theorem State.setCounter_level (j : Nat) : (s.setCounter n x).level j = s.level j := rfl
@[simp] theorem State.setCounter_wakePhase (j : Nat) : (s.setCounter n x).wakePhase j = s.wakePhase j := rfl
@[simp] theorem State.setCounter_counter (j : Nat) : (s.setCounter n x).counter j = if n = j then x else s.counter j := by
  simp [State.setCounter, State.counter]
@[simp] theorem State.setCounter_grain (j : Nat) : (s.setCounter n x).grain j = s.grain j := rfl
@[simp] theorem State.setCounter_seq (j : Nat) : (s.setCounter n x).seq j = s.seq j := rfl
@[simp] theorem State.setCounter_page (j : Nat) : (s.setCounter n x).page j = s.page j := rfl
@[simp] theorem State.setCounter_cxl (j : Nat) : (s.setCounter n x).cxl j = s.cxl j := rfl
@[simp] theorem State.setCounter_ring (j : Nat) : (s.setCounter n x).ring j = s.ring j := rfl
@[simp] theorem State.setCounter_bind (j : Nat) : (s.setCounter n x).bind j = s.bind j := rfl
@[simp] theorem State.setCounter_group (j : Nat) : (s.setCounter n x).group j = s.group j := rfl
@[simp] theorem State.setCounter_port (j : Nat) : (s.setCounter n x).port j = s.port j := rfl
@[simp] theorem State.setCounter_sess (j : Nat) : (s.setCounter n x).sess j = s.sess j := rfl

end

/-! setSeq. -/

section
variable (s : State) (h : Nat) (x : SeqEntry)

@[simp] theorem State.setSeq_ctxs : (s.setSeq h x).ctxs = s.ctxs := rfl
@[simp] theorem State.setSeq_tiles : (s.setSeq h x).tiles = s.tiles := rfl
@[simp] theorem State.setSeq_sram : (s.setSeq h x).sram = s.sram := rfl
@[simp] theorem State.setSeq_dev : (s.setSeq h x).dev = s.dev := rfl
@[simp] theorem State.setSeq_hostMem : (s.setSeq h x).hostMem = s.hostMem := rfl
@[simp] theorem State.setSeq_saves : (s.setSeq h x).saves = s.saves := rfl
@[simp] theorem State.setSeq_slots : (s.setSeq h x).slots = s.slots := rfl
@[simp] theorem State.setSeq_blocks : (s.setSeq h x).blocks = s.blocks := rfl
@[simp] theorem State.setSeq_launchNo : (s.setSeq h x).launchNo = s.launchNo := rfl
@[simp] theorem State.setSeq_parks : (s.setSeq h x).parks = s.parks := rfl
@[simp] theorem State.setSeq_sync : (s.setSeq h x).sync = s.sync := rfl
@[simp] theorem State.setSeq_streams : (s.setSeq h x).streams = s.streams := rfl
@[simp] theorem State.setSeq_tiers : (s.setSeq h x).tiers = s.tiers := rfl
@[simp] theorem State.setSeq_seqs : (s.setSeq h x).seqs = { s.seqs with table := tabPut {} s.seqs.table h x } := rfl
@[simp] theorem State.setSeq_rings : (s.setSeq h x).rings = s.rings := rfl
@[simp] theorem State.setSeq_aeCtxs : (s.setSeq h x).aeCtxs = s.aeCtxs := rfl
@[simp] theorem State.setSeq_aes : (s.setSeq h x).aes = s.aes := rfl
@[simp] theorem State.setSeq_colls : (s.setSeq h x).colls = s.colls := rfl
@[simp] theorem State.setSeq_host : (s.setSeq h x).host = s.host := rfl
@[simp] theorem State.setSeq_fabric : (s.setSeq h x).fabric = s.fabric := rfl
@[simp] theorem State.setSeq_time : (s.setSeq h x).time = s.time := rfl
@[simp] theorem State.setSeq_cmd : (s.setSeq h x).cmd = s.cmd := rfl
@[simp] theorem State.setSeq_prot : (s.setSeq h x).prot = s.prot := rfl
@[simp] theorem State.setSeq_power : (s.setSeq h x).power = s.power := rfl
@[simp] theorem State.setSeq_pins : (s.setSeq h x).pins = s.pins := rfl
@[simp] theorem State.setSeq_smbus : (s.setSeq h x).smbus = s.smbus := rfl
@[simp] theorem State.setSeq_idle : (s.setSeq h x).idle = s.idle := rfl
@[simp] theorem State.setSeq_geo : (s.setSeq h x).geo = s.geo := rfl
@[simp] theorem State.setSeq_counters : (s.setSeq h x).counters = s.counters := rfl
@[simp] theorem State.setSeq_out : (s.setSeq h x).out = s.out := rfl
@[simp] theorem State.setSeq_pending : (s.setSeq h x).pending = s.pending := rfl
@[simp] theorem State.setSeq_free : (s.setSeq h x).free = s.free := rfl
@[simp] theorem State.setSeq_ctx (u : Fin 192) (d : Fin 4) : (s.setSeq h x).ctx u d = s.ctx u d := rfl
@[simp] theorem State.setSeq_tile (u : Fin 192) : (s.setSeq h x).tile u = s.tile u := rfl
@[simp] theorem State.setSeq_slot (i : Fin 16) : (s.setSeq h x).slot i = s.slot i := rfl
@[simp] theorem State.setSeq_launch (i : Fin 16) : (s.setSeq h x).launch i = s.launch i := rfl
@[simp] theorem State.setSeq_queue (r : Fin 256) : (s.setSeq h x).queue r = s.queue r := rfl
@[simp] theorem State.setSeq_aeCtx (u : Fin 32) (d : Fin 4) : (s.setSeq h x).aeCtx u d = s.aeCtx u d := rfl
@[simp] theorem State.setSeq_ae (u : Fin 32) : (s.setSeq h x).ae u = s.ae u := rfl
@[simp] theorem State.setSeq_obj (b : Nat) : (s.setSeq h x).obj b = s.obj b := rfl
@[simp] theorem State.setSeq_chan (j : Nat) : (s.setSeq h x).chan j = s.chan j := rfl
@[simp] theorem State.setSeq_mbx (j : Fin 8) : (s.setSeq h x).mbx j = s.mbx j := rfl
@[simp] theorem State.setSeq_evq (j : Nat) : (s.setSeq h x).evq j = s.evq j := rfl
@[simp] theorem State.setSeq_msix (j : Fin 16) : (s.setSeq h x).msix j = s.msix j := rfl
@[simp] theorem State.setSeq_level (j : Nat) : (s.setSeq h x).level j = s.level j := rfl
@[simp] theorem State.setSeq_wakePhase (j : Nat) : (s.setSeq h x).wakePhase j = s.wakePhase j := rfl
@[simp] theorem State.setSeq_counter (j : Nat) : (s.setSeq h x).counter j = s.counter j := rfl
@[simp] theorem State.setSeq_grain (j : Nat) : (s.setSeq h x).grain j = s.grain j := rfl
@[simp] theorem State.setSeq_seq (j : Nat) : (s.setSeq h x).seq j = if h = j then x else s.seq j := by
  simp [State.setSeq, State.seq]
@[simp] theorem State.setSeq_page (j : Nat) : (s.setSeq h x).page j = s.page j := rfl
@[simp] theorem State.setSeq_cxl (j : Nat) : (s.setSeq h x).cxl j = s.cxl j := rfl
@[simp] theorem State.setSeq_ring (j : Nat) : (s.setSeq h x).ring j = s.ring j := rfl
@[simp] theorem State.setSeq_bind (j : Nat) : (s.setSeq h x).bind j = s.bind j := rfl
@[simp] theorem State.setSeq_group (j : Nat) : (s.setSeq h x).group j = s.group j := rfl
@[simp] theorem State.setSeq_port (j : Nat) : (s.setSeq h x).port j = s.port j := rfl
@[simp] theorem State.setSeq_sess (j : Nat) : (s.setSeq h x).sess j = s.sess j := rfl

end

/-! setPage. -/

section
variable (s : State) (p : Nat) (x : PageRec)

@[simp] theorem State.setPage_ctxs : (s.setPage p x).ctxs = s.ctxs := rfl
@[simp] theorem State.setPage_tiles : (s.setPage p x).tiles = s.tiles := rfl
@[simp] theorem State.setPage_sram : (s.setPage p x).sram = s.sram := rfl
@[simp] theorem State.setPage_dev : (s.setPage p x).dev = s.dev := rfl
@[simp] theorem State.setPage_hostMem : (s.setPage p x).hostMem = s.hostMem := rfl
@[simp] theorem State.setPage_saves : (s.setPage p x).saves = s.saves := rfl
@[simp] theorem State.setPage_slots : (s.setPage p x).slots = s.slots := rfl
@[simp] theorem State.setPage_blocks : (s.setPage p x).blocks = s.blocks := rfl
@[simp] theorem State.setPage_launchNo : (s.setPage p x).launchNo = s.launchNo := rfl
@[simp] theorem State.setPage_parks : (s.setPage p x).parks = s.parks := rfl
@[simp] theorem State.setPage_sync : (s.setPage p x).sync = s.sync := rfl
@[simp] theorem State.setPage_streams : (s.setPage p x).streams = s.streams := rfl
@[simp] theorem State.setPage_tiers : (s.setPage p x).tiers = s.tiers := rfl
@[simp] theorem State.setPage_seqs : (s.setPage p x).seqs = { s.seqs with pages := tabPut {} s.seqs.pages p x } := rfl
@[simp] theorem State.setPage_rings : (s.setPage p x).rings = s.rings := rfl
@[simp] theorem State.setPage_aeCtxs : (s.setPage p x).aeCtxs = s.aeCtxs := rfl
@[simp] theorem State.setPage_aes : (s.setPage p x).aes = s.aes := rfl
@[simp] theorem State.setPage_colls : (s.setPage p x).colls = s.colls := rfl
@[simp] theorem State.setPage_host : (s.setPage p x).host = s.host := rfl
@[simp] theorem State.setPage_fabric : (s.setPage p x).fabric = s.fabric := rfl
@[simp] theorem State.setPage_time : (s.setPage p x).time = s.time := rfl
@[simp] theorem State.setPage_cmd : (s.setPage p x).cmd = s.cmd := rfl
@[simp] theorem State.setPage_prot : (s.setPage p x).prot = s.prot := rfl
@[simp] theorem State.setPage_power : (s.setPage p x).power = s.power := rfl
@[simp] theorem State.setPage_pins : (s.setPage p x).pins = s.pins := rfl
@[simp] theorem State.setPage_smbus : (s.setPage p x).smbus = s.smbus := rfl
@[simp] theorem State.setPage_idle : (s.setPage p x).idle = s.idle := rfl
@[simp] theorem State.setPage_geo : (s.setPage p x).geo = s.geo := rfl
@[simp] theorem State.setPage_counters : (s.setPage p x).counters = s.counters := rfl
@[simp] theorem State.setPage_out : (s.setPage p x).out = s.out := rfl
@[simp] theorem State.setPage_pending : (s.setPage p x).pending = s.pending := rfl
@[simp] theorem State.setPage_free : (s.setPage p x).free = s.free := rfl
@[simp] theorem State.setPage_ctx (u : Fin 192) (d : Fin 4) : (s.setPage p x).ctx u d = s.ctx u d := rfl
@[simp] theorem State.setPage_tile (u : Fin 192) : (s.setPage p x).tile u = s.tile u := rfl
@[simp] theorem State.setPage_slot (i : Fin 16) : (s.setPage p x).slot i = s.slot i := rfl
@[simp] theorem State.setPage_launch (i : Fin 16) : (s.setPage p x).launch i = s.launch i := rfl
@[simp] theorem State.setPage_queue (r : Fin 256) : (s.setPage p x).queue r = s.queue r := rfl
@[simp] theorem State.setPage_aeCtx (u : Fin 32) (d : Fin 4) : (s.setPage p x).aeCtx u d = s.aeCtx u d := rfl
@[simp] theorem State.setPage_ae (u : Fin 32) : (s.setPage p x).ae u = s.ae u := rfl
@[simp] theorem State.setPage_obj (b : Nat) : (s.setPage p x).obj b = s.obj b := rfl
@[simp] theorem State.setPage_chan (j : Nat) : (s.setPage p x).chan j = s.chan j := rfl
@[simp] theorem State.setPage_mbx (j : Fin 8) : (s.setPage p x).mbx j = s.mbx j := rfl
@[simp] theorem State.setPage_evq (j : Nat) : (s.setPage p x).evq j = s.evq j := rfl
@[simp] theorem State.setPage_msix (j : Fin 16) : (s.setPage p x).msix j = s.msix j := rfl
@[simp] theorem State.setPage_level (j : Nat) : (s.setPage p x).level j = s.level j := rfl
@[simp] theorem State.setPage_wakePhase (j : Nat) : (s.setPage p x).wakePhase j = s.wakePhase j := rfl
@[simp] theorem State.setPage_counter (j : Nat) : (s.setPage p x).counter j = s.counter j := rfl
@[simp] theorem State.setPage_grain (j : Nat) : (s.setPage p x).grain j = s.grain j := rfl
@[simp] theorem State.setPage_seq (j : Nat) : (s.setPage p x).seq j = s.seq j := rfl
@[simp] theorem State.setPage_page (j : Nat) : (s.setPage p x).page j = if p = j then x else s.page j := by
  simp [State.setPage, State.page]
@[simp] theorem State.setPage_cxl (j : Nat) : (s.setPage p x).cxl j = s.cxl j := rfl
@[simp] theorem State.setPage_ring (j : Nat) : (s.setPage p x).ring j = s.ring j := rfl
@[simp] theorem State.setPage_bind (j : Nat) : (s.setPage p x).bind j = s.bind j := rfl
@[simp] theorem State.setPage_group (j : Nat) : (s.setPage p x).group j = s.group j := rfl
@[simp] theorem State.setPage_port (j : Nat) : (s.setPage p x).port j = s.port j := rfl
@[simp] theorem State.setPage_sess (j : Nat) : (s.setPage p x).sess j = s.sess j := rfl

end

/-! setCxl. -/

section
variable (s : State) (p : Nat) (x : CxlPort)

@[simp] theorem State.setCxl_ctxs : (s.setCxl p x).ctxs = s.ctxs := rfl
@[simp] theorem State.setCxl_tiles : (s.setCxl p x).tiles = s.tiles := rfl
@[simp] theorem State.setCxl_sram : (s.setCxl p x).sram = s.sram := rfl
@[simp] theorem State.setCxl_dev : (s.setCxl p x).dev = s.dev := rfl
@[simp] theorem State.setCxl_hostMem : (s.setCxl p x).hostMem = s.hostMem := rfl
@[simp] theorem State.setCxl_saves : (s.setCxl p x).saves = s.saves := rfl
@[simp] theorem State.setCxl_slots : (s.setCxl p x).slots = s.slots := rfl
@[simp] theorem State.setCxl_blocks : (s.setCxl p x).blocks = s.blocks := rfl
@[simp] theorem State.setCxl_launchNo : (s.setCxl p x).launchNo = s.launchNo := rfl
@[simp] theorem State.setCxl_parks : (s.setCxl p x).parks = s.parks := rfl
@[simp] theorem State.setCxl_sync : (s.setCxl p x).sync = s.sync := rfl
@[simp] theorem State.setCxl_streams : (s.setCxl p x).streams = s.streams := rfl
@[simp] theorem State.setCxl_tiers : (s.setCxl p x).tiers = { s.tiers with cxl := tabPut {} s.tiers.cxl p x } := rfl
@[simp] theorem State.setCxl_seqs : (s.setCxl p x).seqs = s.seqs := rfl
@[simp] theorem State.setCxl_rings : (s.setCxl p x).rings = s.rings := rfl
@[simp] theorem State.setCxl_aeCtxs : (s.setCxl p x).aeCtxs = s.aeCtxs := rfl
@[simp] theorem State.setCxl_aes : (s.setCxl p x).aes = s.aes := rfl
@[simp] theorem State.setCxl_colls : (s.setCxl p x).colls = s.colls := rfl
@[simp] theorem State.setCxl_host : (s.setCxl p x).host = s.host := rfl
@[simp] theorem State.setCxl_fabric : (s.setCxl p x).fabric = s.fabric := rfl
@[simp] theorem State.setCxl_time : (s.setCxl p x).time = s.time := rfl
@[simp] theorem State.setCxl_cmd : (s.setCxl p x).cmd = s.cmd := rfl
@[simp] theorem State.setCxl_prot : (s.setCxl p x).prot = s.prot := rfl
@[simp] theorem State.setCxl_power : (s.setCxl p x).power = s.power := rfl
@[simp] theorem State.setCxl_pins : (s.setCxl p x).pins = s.pins := rfl
@[simp] theorem State.setCxl_smbus : (s.setCxl p x).smbus = s.smbus := rfl
@[simp] theorem State.setCxl_idle : (s.setCxl p x).idle = s.idle := rfl
@[simp] theorem State.setCxl_geo : (s.setCxl p x).geo = s.geo := rfl
@[simp] theorem State.setCxl_counters : (s.setCxl p x).counters = s.counters := rfl
@[simp] theorem State.setCxl_out : (s.setCxl p x).out = s.out := rfl
@[simp] theorem State.setCxl_pending : (s.setCxl p x).pending = s.pending := rfl
@[simp] theorem State.setCxl_free : (s.setCxl p x).free = s.free := rfl
@[simp] theorem State.setCxl_ctx (u : Fin 192) (d : Fin 4) : (s.setCxl p x).ctx u d = s.ctx u d := rfl
@[simp] theorem State.setCxl_tile (u : Fin 192) : (s.setCxl p x).tile u = s.tile u := rfl
@[simp] theorem State.setCxl_slot (i : Fin 16) : (s.setCxl p x).slot i = s.slot i := rfl
@[simp] theorem State.setCxl_launch (i : Fin 16) : (s.setCxl p x).launch i = s.launch i := rfl
@[simp] theorem State.setCxl_queue (r : Fin 256) : (s.setCxl p x).queue r = s.queue r := rfl
@[simp] theorem State.setCxl_aeCtx (u : Fin 32) (d : Fin 4) : (s.setCxl p x).aeCtx u d = s.aeCtx u d := rfl
@[simp] theorem State.setCxl_ae (u : Fin 32) : (s.setCxl p x).ae u = s.ae u := rfl
@[simp] theorem State.setCxl_obj (b : Nat) : (s.setCxl p x).obj b = s.obj b := rfl
@[simp] theorem State.setCxl_chan (j : Nat) : (s.setCxl p x).chan j = s.chan j := rfl
@[simp] theorem State.setCxl_mbx (j : Fin 8) : (s.setCxl p x).mbx j = s.mbx j := rfl
@[simp] theorem State.setCxl_evq (j : Nat) : (s.setCxl p x).evq j = s.evq j := rfl
@[simp] theorem State.setCxl_msix (j : Fin 16) : (s.setCxl p x).msix j = s.msix j := rfl
@[simp] theorem State.setCxl_level (j : Nat) : (s.setCxl p x).level j = s.level j := rfl
@[simp] theorem State.setCxl_wakePhase (j : Nat) : (s.setCxl p x).wakePhase j = s.wakePhase j := rfl
@[simp] theorem State.setCxl_counter (j : Nat) : (s.setCxl p x).counter j = s.counter j := rfl
@[simp] theorem State.setCxl_grain (j : Nat) : (s.setCxl p x).grain j = s.grain j := rfl
@[simp] theorem State.setCxl_seq (j : Nat) : (s.setCxl p x).seq j = s.seq j := rfl
@[simp] theorem State.setCxl_page (j : Nat) : (s.setCxl p x).page j = s.page j := rfl
@[simp] theorem State.setCxl_cxl (j : Nat) : (s.setCxl p x).cxl j = if p = j then x else s.cxl j := by
  simp [State.setCxl, State.cxl]
@[simp] theorem State.setCxl_ring (j : Nat) : (s.setCxl p x).ring j = s.ring j := rfl
@[simp] theorem State.setCxl_bind (j : Nat) : (s.setCxl p x).bind j = s.bind j := rfl
@[simp] theorem State.setCxl_group (j : Nat) : (s.setCxl p x).group j = s.group j := rfl
@[simp] theorem State.setCxl_port (j : Nat) : (s.setCxl p x).port j = s.port j := rfl
@[simp] theorem State.setCxl_sess (j : Nat) : (s.setCxl p x).sess j = s.sess j := rfl

end

/-! setRing. -/

section
variable (s : State) (i : Nat) (x : RingEntry)

@[simp] theorem State.setRing_ctxs : (s.setRing i x).ctxs = s.ctxs := rfl
@[simp] theorem State.setRing_tiles : (s.setRing i x).tiles = s.tiles := rfl
@[simp] theorem State.setRing_sram : (s.setRing i x).sram = s.sram := rfl
@[simp] theorem State.setRing_dev : (s.setRing i x).dev = s.dev := rfl
@[simp] theorem State.setRing_hostMem : (s.setRing i x).hostMem = s.hostMem := rfl
@[simp] theorem State.setRing_saves : (s.setRing i x).saves = s.saves := rfl
@[simp] theorem State.setRing_slots : (s.setRing i x).slots = s.slots := rfl
@[simp] theorem State.setRing_blocks : (s.setRing i x).blocks = s.blocks := rfl
@[simp] theorem State.setRing_launchNo : (s.setRing i x).launchNo = s.launchNo := rfl
@[simp] theorem State.setRing_parks : (s.setRing i x).parks = s.parks := rfl
@[simp] theorem State.setRing_sync : (s.setRing i x).sync = s.sync := rfl
@[simp] theorem State.setRing_streams : (s.setRing i x).streams = s.streams := rfl
@[simp] theorem State.setRing_tiers : (s.setRing i x).tiers = s.tiers := rfl
@[simp] theorem State.setRing_seqs : (s.setRing i x).seqs = s.seqs := rfl
@[simp] theorem State.setRing_rings : (s.setRing i x).rings = { s.rings with table := tabPut {} s.rings.table i x } := rfl
@[simp] theorem State.setRing_aeCtxs : (s.setRing i x).aeCtxs = s.aeCtxs := rfl
@[simp] theorem State.setRing_aes : (s.setRing i x).aes = s.aes := rfl
@[simp] theorem State.setRing_colls : (s.setRing i x).colls = s.colls := rfl
@[simp] theorem State.setRing_host : (s.setRing i x).host = s.host := rfl
@[simp] theorem State.setRing_fabric : (s.setRing i x).fabric = s.fabric := rfl
@[simp] theorem State.setRing_time : (s.setRing i x).time = s.time := rfl
@[simp] theorem State.setRing_cmd : (s.setRing i x).cmd = s.cmd := rfl
@[simp] theorem State.setRing_prot : (s.setRing i x).prot = s.prot := rfl
@[simp] theorem State.setRing_power : (s.setRing i x).power = s.power := rfl
@[simp] theorem State.setRing_pins : (s.setRing i x).pins = s.pins := rfl
@[simp] theorem State.setRing_smbus : (s.setRing i x).smbus = s.smbus := rfl
@[simp] theorem State.setRing_idle : (s.setRing i x).idle = s.idle := rfl
@[simp] theorem State.setRing_geo : (s.setRing i x).geo = s.geo := rfl
@[simp] theorem State.setRing_counters : (s.setRing i x).counters = s.counters := rfl
@[simp] theorem State.setRing_out : (s.setRing i x).out = s.out := rfl
@[simp] theorem State.setRing_pending : (s.setRing i x).pending = s.pending := rfl
@[simp] theorem State.setRing_free : (s.setRing i x).free = s.free := rfl
@[simp] theorem State.setRing_ctx (u : Fin 192) (d : Fin 4) : (s.setRing i x).ctx u d = s.ctx u d := rfl
@[simp] theorem State.setRing_tile (u : Fin 192) : (s.setRing i x).tile u = s.tile u := rfl
@[simp] theorem State.setRing_slot (i' : Fin 16) : (s.setRing i x).slot i' = s.slot i' := rfl
@[simp] theorem State.setRing_launch (i' : Fin 16) : (s.setRing i x).launch i' = s.launch i' := rfl
@[simp] theorem State.setRing_queue (r : Fin 256) : (s.setRing i x).queue r = s.queue r := rfl
@[simp] theorem State.setRing_aeCtx (u : Fin 32) (d : Fin 4) : (s.setRing i x).aeCtx u d = s.aeCtx u d := rfl
@[simp] theorem State.setRing_ae (u : Fin 32) : (s.setRing i x).ae u = s.ae u := rfl
@[simp] theorem State.setRing_obj (b : Nat) : (s.setRing i x).obj b = s.obj b := rfl
@[simp] theorem State.setRing_chan (j : Nat) : (s.setRing i x).chan j = s.chan j := rfl
@[simp] theorem State.setRing_mbx (j : Fin 8) : (s.setRing i x).mbx j = s.mbx j := rfl
@[simp] theorem State.setRing_evq (j : Nat) : (s.setRing i x).evq j = s.evq j := rfl
@[simp] theorem State.setRing_msix (j : Fin 16) : (s.setRing i x).msix j = s.msix j := rfl
@[simp] theorem State.setRing_level (j : Nat) : (s.setRing i x).level j = s.level j := rfl
@[simp] theorem State.setRing_wakePhase (j : Nat) : (s.setRing i x).wakePhase j = s.wakePhase j := rfl
@[simp] theorem State.setRing_counter (j : Nat) : (s.setRing i x).counter j = s.counter j := rfl
@[simp] theorem State.setRing_grain (j : Nat) : (s.setRing i x).grain j = s.grain j := rfl
@[simp] theorem State.setRing_seq (j : Nat) : (s.setRing i x).seq j = s.seq j := rfl
@[simp] theorem State.setRing_page (j : Nat) : (s.setRing i x).page j = s.page j := rfl
@[simp] theorem State.setRing_cxl (j : Nat) : (s.setRing i x).cxl j = s.cxl j := rfl
@[simp] theorem State.setRing_ring (j : Nat) : (s.setRing i x).ring j = if i = j then x else s.ring j := by
  simp [State.setRing, State.ring]
@[simp] theorem State.setRing_bind (j : Nat) : (s.setRing i x).bind j = s.bind j := rfl
@[simp] theorem State.setRing_group (j : Nat) : (s.setRing i x).group j = s.group j := rfl
@[simp] theorem State.setRing_port (j : Nat) : (s.setRing i x).port j = s.port j := rfl
@[simp] theorem State.setRing_sess (j : Nat) : (s.setRing i x).sess j = s.sess j := rfl

end

/-! setBind. -/

section
variable (s : State) (b : Nat) (x : Binding)

@[simp] theorem State.setBind_ctxs : (s.setBind b x).ctxs = s.ctxs := rfl
@[simp] theorem State.setBind_tiles : (s.setBind b x).tiles = s.tiles := rfl
@[simp] theorem State.setBind_sram : (s.setBind b x).sram = s.sram := rfl
@[simp] theorem State.setBind_dev : (s.setBind b x).dev = s.dev := rfl
@[simp] theorem State.setBind_hostMem : (s.setBind b x).hostMem = s.hostMem := rfl
@[simp] theorem State.setBind_saves : (s.setBind b x).saves = s.saves := rfl
@[simp] theorem State.setBind_slots : (s.setBind b x).slots = s.slots := rfl
@[simp] theorem State.setBind_blocks : (s.setBind b x).blocks = s.blocks := rfl
@[simp] theorem State.setBind_launchNo : (s.setBind b x).launchNo = s.launchNo := rfl
@[simp] theorem State.setBind_parks : (s.setBind b x).parks = s.parks := rfl
@[simp] theorem State.setBind_sync : (s.setBind b x).sync = s.sync := rfl
@[simp] theorem State.setBind_streams : (s.setBind b x).streams = s.streams := rfl
@[simp] theorem State.setBind_tiers : (s.setBind b x).tiers = s.tiers := rfl
@[simp] theorem State.setBind_seqs : (s.setBind b x).seqs = s.seqs := rfl
@[simp] theorem State.setBind_rings : (s.setBind b x).rings = { s.rings with binds := tabPut {} s.rings.binds b x } := rfl
@[simp] theorem State.setBind_aeCtxs : (s.setBind b x).aeCtxs = s.aeCtxs := rfl
@[simp] theorem State.setBind_aes : (s.setBind b x).aes = s.aes := rfl
@[simp] theorem State.setBind_colls : (s.setBind b x).colls = s.colls := rfl
@[simp] theorem State.setBind_host : (s.setBind b x).host = s.host := rfl
@[simp] theorem State.setBind_fabric : (s.setBind b x).fabric = s.fabric := rfl
@[simp] theorem State.setBind_time : (s.setBind b x).time = s.time := rfl
@[simp] theorem State.setBind_cmd : (s.setBind b x).cmd = s.cmd := rfl
@[simp] theorem State.setBind_prot : (s.setBind b x).prot = s.prot := rfl
@[simp] theorem State.setBind_power : (s.setBind b x).power = s.power := rfl
@[simp] theorem State.setBind_pins : (s.setBind b x).pins = s.pins := rfl
@[simp] theorem State.setBind_smbus : (s.setBind b x).smbus = s.smbus := rfl
@[simp] theorem State.setBind_idle : (s.setBind b x).idle = s.idle := rfl
@[simp] theorem State.setBind_geo : (s.setBind b x).geo = s.geo := rfl
@[simp] theorem State.setBind_counters : (s.setBind b x).counters = s.counters := rfl
@[simp] theorem State.setBind_out : (s.setBind b x).out = s.out := rfl
@[simp] theorem State.setBind_pending : (s.setBind b x).pending = s.pending := rfl
@[simp] theorem State.setBind_free : (s.setBind b x).free = s.free := rfl
@[simp] theorem State.setBind_ctx (u : Fin 192) (d : Fin 4) : (s.setBind b x).ctx u d = s.ctx u d := rfl
@[simp] theorem State.setBind_tile (u : Fin 192) : (s.setBind b x).tile u = s.tile u := rfl
@[simp] theorem State.setBind_slot (i : Fin 16) : (s.setBind b x).slot i = s.slot i := rfl
@[simp] theorem State.setBind_launch (i : Fin 16) : (s.setBind b x).launch i = s.launch i := rfl
@[simp] theorem State.setBind_queue (r : Fin 256) : (s.setBind b x).queue r = s.queue r := rfl
@[simp] theorem State.setBind_aeCtx (u : Fin 32) (d : Fin 4) : (s.setBind b x).aeCtx u d = s.aeCtx u d := rfl
@[simp] theorem State.setBind_ae (u : Fin 32) : (s.setBind b x).ae u = s.ae u := rfl
@[simp] theorem State.setBind_obj (b' : Nat) : (s.setBind b x).obj b' = s.obj b' := rfl
@[simp] theorem State.setBind_chan (j : Nat) : (s.setBind b x).chan j = s.chan j := rfl
@[simp] theorem State.setBind_mbx (j : Fin 8) : (s.setBind b x).mbx j = s.mbx j := rfl
@[simp] theorem State.setBind_evq (j : Nat) : (s.setBind b x).evq j = s.evq j := rfl
@[simp] theorem State.setBind_msix (j : Fin 16) : (s.setBind b x).msix j = s.msix j := rfl
@[simp] theorem State.setBind_level (j : Nat) : (s.setBind b x).level j = s.level j := rfl
@[simp] theorem State.setBind_wakePhase (j : Nat) : (s.setBind b x).wakePhase j = s.wakePhase j := rfl
@[simp] theorem State.setBind_counter (j : Nat) : (s.setBind b x).counter j = s.counter j := rfl
@[simp] theorem State.setBind_grain (j : Nat) : (s.setBind b x).grain j = s.grain j := rfl
@[simp] theorem State.setBind_seq (j : Nat) : (s.setBind b x).seq j = s.seq j := rfl
@[simp] theorem State.setBind_page (j : Nat) : (s.setBind b x).page j = s.page j := rfl
@[simp] theorem State.setBind_cxl (j : Nat) : (s.setBind b x).cxl j = s.cxl j := rfl
@[simp] theorem State.setBind_ring (j : Nat) : (s.setBind b x).ring j = s.ring j := rfl
@[simp] theorem State.setBind_bind (j : Nat) : (s.setBind b x).bind j = if b = j then x else s.bind j := by
  simp [State.setBind, State.bind]
@[simp] theorem State.setBind_group (j : Nat) : (s.setBind b x).group j = s.group j := rfl
@[simp] theorem State.setBind_port (j : Nat) : (s.setBind b x).port j = s.port j := rfl
@[simp] theorem State.setBind_sess (j : Nat) : (s.setBind b x).sess j = s.sess j := rfl

end

/-! setGroup. -/

section
variable (s : State) (g : Nat) (x : GroupEntry)

@[simp] theorem State.setGroup_ctxs : (s.setGroup g x).ctxs = s.ctxs := rfl
@[simp] theorem State.setGroup_tiles : (s.setGroup g x).tiles = s.tiles := rfl
@[simp] theorem State.setGroup_sram : (s.setGroup g x).sram = s.sram := rfl
@[simp] theorem State.setGroup_dev : (s.setGroup g x).dev = s.dev := rfl
@[simp] theorem State.setGroup_hostMem : (s.setGroup g x).hostMem = s.hostMem := rfl
@[simp] theorem State.setGroup_saves : (s.setGroup g x).saves = s.saves := rfl
@[simp] theorem State.setGroup_slots : (s.setGroup g x).slots = s.slots := rfl
@[simp] theorem State.setGroup_blocks : (s.setGroup g x).blocks = s.blocks := rfl
@[simp] theorem State.setGroup_launchNo : (s.setGroup g x).launchNo = s.launchNo := rfl
@[simp] theorem State.setGroup_parks : (s.setGroup g x).parks = s.parks := rfl
@[simp] theorem State.setGroup_sync : (s.setGroup g x).sync = s.sync := rfl
@[simp] theorem State.setGroup_streams : (s.setGroup g x).streams = s.streams := rfl
@[simp] theorem State.setGroup_tiers : (s.setGroup g x).tiers = s.tiers := rfl
@[simp] theorem State.setGroup_seqs : (s.setGroup g x).seqs = s.seqs := rfl
@[simp] theorem State.setGroup_rings : (s.setGroup g x).rings = s.rings := rfl
@[simp] theorem State.setGroup_aeCtxs : (s.setGroup g x).aeCtxs = s.aeCtxs := rfl
@[simp] theorem State.setGroup_aes : (s.setGroup g x).aes = s.aes := rfl
@[simp] theorem State.setGroup_colls : (s.setGroup g x).colls = { s.colls with groups := tabPut {} s.colls.groups g x } := rfl
@[simp] theorem State.setGroup_host : (s.setGroup g x).host = s.host := rfl
@[simp] theorem State.setGroup_fabric : (s.setGroup g x).fabric = s.fabric := rfl
@[simp] theorem State.setGroup_time : (s.setGroup g x).time = s.time := rfl
@[simp] theorem State.setGroup_cmd : (s.setGroup g x).cmd = s.cmd := rfl
@[simp] theorem State.setGroup_prot : (s.setGroup g x).prot = s.prot := rfl
@[simp] theorem State.setGroup_power : (s.setGroup g x).power = s.power := rfl
@[simp] theorem State.setGroup_pins : (s.setGroup g x).pins = s.pins := rfl
@[simp] theorem State.setGroup_smbus : (s.setGroup g x).smbus = s.smbus := rfl
@[simp] theorem State.setGroup_idle : (s.setGroup g x).idle = s.idle := rfl
@[simp] theorem State.setGroup_geo : (s.setGroup g x).geo = s.geo := rfl
@[simp] theorem State.setGroup_counters : (s.setGroup g x).counters = s.counters := rfl
@[simp] theorem State.setGroup_out : (s.setGroup g x).out = s.out := rfl
@[simp] theorem State.setGroup_pending : (s.setGroup g x).pending = s.pending := rfl
@[simp] theorem State.setGroup_free : (s.setGroup g x).free = s.free := rfl
@[simp] theorem State.setGroup_ctx (u : Fin 192) (d : Fin 4) : (s.setGroup g x).ctx u d = s.ctx u d := rfl
@[simp] theorem State.setGroup_tile (u : Fin 192) : (s.setGroup g x).tile u = s.tile u := rfl
@[simp] theorem State.setGroup_slot (i : Fin 16) : (s.setGroup g x).slot i = s.slot i := rfl
@[simp] theorem State.setGroup_launch (i : Fin 16) : (s.setGroup g x).launch i = s.launch i := rfl
@[simp] theorem State.setGroup_queue (r : Fin 256) : (s.setGroup g x).queue r = s.queue r := rfl
@[simp] theorem State.setGroup_aeCtx (u : Fin 32) (d : Fin 4) : (s.setGroup g x).aeCtx u d = s.aeCtx u d := rfl
@[simp] theorem State.setGroup_ae (u : Fin 32) : (s.setGroup g x).ae u = s.ae u := rfl
@[simp] theorem State.setGroup_obj (b : Nat) : (s.setGroup g x).obj b = s.obj b := rfl
@[simp] theorem State.setGroup_chan (j : Nat) : (s.setGroup g x).chan j = s.chan j := rfl
@[simp] theorem State.setGroup_mbx (j : Fin 8) : (s.setGroup g x).mbx j = s.mbx j := rfl
@[simp] theorem State.setGroup_evq (j : Nat) : (s.setGroup g x).evq j = s.evq j := rfl
@[simp] theorem State.setGroup_msix (j : Fin 16) : (s.setGroup g x).msix j = s.msix j := rfl
@[simp] theorem State.setGroup_level (j : Nat) : (s.setGroup g x).level j = s.level j := rfl
@[simp] theorem State.setGroup_wakePhase (j : Nat) : (s.setGroup g x).wakePhase j = s.wakePhase j := rfl
@[simp] theorem State.setGroup_counter (j : Nat) : (s.setGroup g x).counter j = s.counter j := rfl
@[simp] theorem State.setGroup_grain (j : Nat) : (s.setGroup g x).grain j = s.grain j := rfl
@[simp] theorem State.setGroup_seq (j : Nat) : (s.setGroup g x).seq j = s.seq j := rfl
@[simp] theorem State.setGroup_page (j : Nat) : (s.setGroup g x).page j = s.page j := rfl
@[simp] theorem State.setGroup_cxl (j : Nat) : (s.setGroup g x).cxl j = s.cxl j := rfl
@[simp] theorem State.setGroup_ring (j : Nat) : (s.setGroup g x).ring j = s.ring j := rfl
@[simp] theorem State.setGroup_bind (j : Nat) : (s.setGroup g x).bind j = s.bind j := rfl
@[simp] theorem State.setGroup_group (j : Nat) : (s.setGroup g x).group j = if g = j then x else s.group j := by
  simp [State.setGroup, State.group]
@[simp] theorem State.setGroup_port (j : Nat) : (s.setGroup g x).port j = s.port j := rfl
@[simp] theorem State.setGroup_sess (j : Nat) : (s.setGroup g x).sess j = s.sess j := rfl

end

/-! setPort. -/

section
variable (s : State) (p : Nat) (x : Port)

@[simp] theorem State.setPort_ctxs : (s.setPort p x).ctxs = s.ctxs := rfl
@[simp] theorem State.setPort_tiles : (s.setPort p x).tiles = s.tiles := rfl
@[simp] theorem State.setPort_sram : (s.setPort p x).sram = s.sram := rfl
@[simp] theorem State.setPort_dev : (s.setPort p x).dev = s.dev := rfl
@[simp] theorem State.setPort_hostMem : (s.setPort p x).hostMem = s.hostMem := rfl
@[simp] theorem State.setPort_saves : (s.setPort p x).saves = s.saves := rfl
@[simp] theorem State.setPort_slots : (s.setPort p x).slots = s.slots := rfl
@[simp] theorem State.setPort_blocks : (s.setPort p x).blocks = s.blocks := rfl
@[simp] theorem State.setPort_launchNo : (s.setPort p x).launchNo = s.launchNo := rfl
@[simp] theorem State.setPort_parks : (s.setPort p x).parks = s.parks := rfl
@[simp] theorem State.setPort_sync : (s.setPort p x).sync = s.sync := rfl
@[simp] theorem State.setPort_streams : (s.setPort p x).streams = s.streams := rfl
@[simp] theorem State.setPort_tiers : (s.setPort p x).tiers = s.tiers := rfl
@[simp] theorem State.setPort_seqs : (s.setPort p x).seqs = s.seqs := rfl
@[simp] theorem State.setPort_rings : (s.setPort p x).rings = s.rings := rfl
@[simp] theorem State.setPort_aeCtxs : (s.setPort p x).aeCtxs = s.aeCtxs := rfl
@[simp] theorem State.setPort_aes : (s.setPort p x).aes = s.aes := rfl
@[simp] theorem State.setPort_colls : (s.setPort p x).colls = s.colls := rfl
@[simp] theorem State.setPort_host : (s.setPort p x).host = s.host := rfl
@[simp] theorem State.setPort_fabric : (s.setPort p x).fabric = { s.fabric with ports := tabPut {} s.fabric.ports p x } := rfl
@[simp] theorem State.setPort_time : (s.setPort p x).time = s.time := rfl
@[simp] theorem State.setPort_cmd : (s.setPort p x).cmd = s.cmd := rfl
@[simp] theorem State.setPort_prot : (s.setPort p x).prot = s.prot := rfl
@[simp] theorem State.setPort_power : (s.setPort p x).power = s.power := rfl
@[simp] theorem State.setPort_pins : (s.setPort p x).pins = s.pins := rfl
@[simp] theorem State.setPort_smbus : (s.setPort p x).smbus = s.smbus := rfl
@[simp] theorem State.setPort_idle : (s.setPort p x).idle = s.idle := rfl
@[simp] theorem State.setPort_geo : (s.setPort p x).geo = s.geo := rfl
@[simp] theorem State.setPort_counters : (s.setPort p x).counters = s.counters := rfl
@[simp] theorem State.setPort_out : (s.setPort p x).out = s.out := rfl
@[simp] theorem State.setPort_pending : (s.setPort p x).pending = s.pending := rfl
@[simp] theorem State.setPort_free : (s.setPort p x).free = s.free := rfl
@[simp] theorem State.setPort_ctx (u : Fin 192) (d : Fin 4) : (s.setPort p x).ctx u d = s.ctx u d := rfl
@[simp] theorem State.setPort_tile (u : Fin 192) : (s.setPort p x).tile u = s.tile u := rfl
@[simp] theorem State.setPort_slot (i : Fin 16) : (s.setPort p x).slot i = s.slot i := rfl
@[simp] theorem State.setPort_launch (i : Fin 16) : (s.setPort p x).launch i = s.launch i := rfl
@[simp] theorem State.setPort_queue (r : Fin 256) : (s.setPort p x).queue r = s.queue r := rfl
@[simp] theorem State.setPort_aeCtx (u : Fin 32) (d : Fin 4) : (s.setPort p x).aeCtx u d = s.aeCtx u d := rfl
@[simp] theorem State.setPort_ae (u : Fin 32) : (s.setPort p x).ae u = s.ae u := rfl
@[simp] theorem State.setPort_obj (b : Nat) : (s.setPort p x).obj b = s.obj b := rfl
@[simp] theorem State.setPort_chan (j : Nat) : (s.setPort p x).chan j = s.chan j := rfl
@[simp] theorem State.setPort_mbx (j : Fin 8) : (s.setPort p x).mbx j = s.mbx j := rfl
@[simp] theorem State.setPort_evq (j : Nat) : (s.setPort p x).evq j = s.evq j := rfl
@[simp] theorem State.setPort_msix (j : Fin 16) : (s.setPort p x).msix j = s.msix j := rfl
@[simp] theorem State.setPort_level (j : Nat) : (s.setPort p x).level j = s.level j := rfl
@[simp] theorem State.setPort_wakePhase (j : Nat) : (s.setPort p x).wakePhase j = s.wakePhase j := rfl
@[simp] theorem State.setPort_counter (j : Nat) : (s.setPort p x).counter j = s.counter j := rfl
@[simp] theorem State.setPort_grain (j : Nat) : (s.setPort p x).grain j = s.grain j := rfl
@[simp] theorem State.setPort_seq (j : Nat) : (s.setPort p x).seq j = s.seq j := rfl
@[simp] theorem State.setPort_page (j : Nat) : (s.setPort p x).page j = s.page j := rfl
@[simp] theorem State.setPort_cxl (j : Nat) : (s.setPort p x).cxl j = s.cxl j := rfl
@[simp] theorem State.setPort_ring (j : Nat) : (s.setPort p x).ring j = s.ring j := rfl
@[simp] theorem State.setPort_bind (j : Nat) : (s.setPort p x).bind j = s.bind j := rfl
@[simp] theorem State.setPort_group (j : Nat) : (s.setPort p x).group j = s.group j := rfl
@[simp] theorem State.setPort_port (j : Nat) : (s.setPort p x).port j = if p = j then x else s.port j := by
  simp [State.setPort, State.port]
@[simp] theorem State.setPort_sess (j : Nat) : (s.setPort p x).sess j = s.sess j := rfl

end

/-! setSess. -/

section
variable (s : State) (d : Nat) (x : Session)

@[simp] theorem State.setSess_ctxs : (s.setSess d x).ctxs = s.ctxs := rfl
@[simp] theorem State.setSess_tiles : (s.setSess d x).tiles = s.tiles := rfl
@[simp] theorem State.setSess_sram : (s.setSess d x).sram = s.sram := rfl
@[simp] theorem State.setSess_dev : (s.setSess d x).dev = s.dev := rfl
@[simp] theorem State.setSess_hostMem : (s.setSess d x).hostMem = s.hostMem := rfl
@[simp] theorem State.setSess_saves : (s.setSess d x).saves = s.saves := rfl
@[simp] theorem State.setSess_slots : (s.setSess d x).slots = s.slots := rfl
@[simp] theorem State.setSess_blocks : (s.setSess d x).blocks = s.blocks := rfl
@[simp] theorem State.setSess_launchNo : (s.setSess d x).launchNo = s.launchNo := rfl
@[simp] theorem State.setSess_parks : (s.setSess d x).parks = s.parks := rfl
@[simp] theorem State.setSess_sync : (s.setSess d x).sync = s.sync := rfl
@[simp] theorem State.setSess_streams : (s.setSess d x).streams = s.streams := rfl
@[simp] theorem State.setSess_tiers : (s.setSess d x).tiers = s.tiers := rfl
@[simp] theorem State.setSess_seqs : (s.setSess d x).seqs = s.seqs := rfl
@[simp] theorem State.setSess_rings : (s.setSess d x).rings = s.rings := rfl
@[simp] theorem State.setSess_aeCtxs : (s.setSess d x).aeCtxs = s.aeCtxs := rfl
@[simp] theorem State.setSess_aes : (s.setSess d x).aes = s.aes := rfl
@[simp] theorem State.setSess_colls : (s.setSess d x).colls = s.colls := rfl
@[simp] theorem State.setSess_host : (s.setSess d x).host = s.host := rfl
@[simp] theorem State.setSess_fabric : (s.setSess d x).fabric = { s.fabric with sessions := tabPut {} s.fabric.sessions d x } := rfl
@[simp] theorem State.setSess_time : (s.setSess d x).time = s.time := rfl
@[simp] theorem State.setSess_cmd : (s.setSess d x).cmd = s.cmd := rfl
@[simp] theorem State.setSess_prot : (s.setSess d x).prot = s.prot := rfl
@[simp] theorem State.setSess_power : (s.setSess d x).power = s.power := rfl
@[simp] theorem State.setSess_pins : (s.setSess d x).pins = s.pins := rfl
@[simp] theorem State.setSess_smbus : (s.setSess d x).smbus = s.smbus := rfl
@[simp] theorem State.setSess_idle : (s.setSess d x).idle = s.idle := rfl
@[simp] theorem State.setSess_geo : (s.setSess d x).geo = s.geo := rfl
@[simp] theorem State.setSess_counters : (s.setSess d x).counters = s.counters := rfl
@[simp] theorem State.setSess_out : (s.setSess d x).out = s.out := rfl
@[simp] theorem State.setSess_pending : (s.setSess d x).pending = s.pending := rfl
@[simp] theorem State.setSess_free : (s.setSess d x).free = s.free := rfl
@[simp] theorem State.setSess_ctx (u : Fin 192) (d' : Fin 4) : (s.setSess d x).ctx u d' = s.ctx u d' := rfl
@[simp] theorem State.setSess_tile (u : Fin 192) : (s.setSess d x).tile u = s.tile u := rfl
@[simp] theorem State.setSess_slot (i : Fin 16) : (s.setSess d x).slot i = s.slot i := rfl
@[simp] theorem State.setSess_launch (i : Fin 16) : (s.setSess d x).launch i = s.launch i := rfl
@[simp] theorem State.setSess_queue (r : Fin 256) : (s.setSess d x).queue r = s.queue r := rfl
@[simp] theorem State.setSess_aeCtx (u : Fin 32) (d' : Fin 4) : (s.setSess d x).aeCtx u d' = s.aeCtx u d' := rfl
@[simp] theorem State.setSess_ae (u : Fin 32) : (s.setSess d x).ae u = s.ae u := rfl
@[simp] theorem State.setSess_obj (b : Nat) : (s.setSess d x).obj b = s.obj b := rfl
@[simp] theorem State.setSess_chan (j : Nat) : (s.setSess d x).chan j = s.chan j := rfl
@[simp] theorem State.setSess_mbx (j : Fin 8) : (s.setSess d x).mbx j = s.mbx j := rfl
@[simp] theorem State.setSess_evq (j : Nat) : (s.setSess d x).evq j = s.evq j := rfl
@[simp] theorem State.setSess_msix (j : Fin 16) : (s.setSess d x).msix j = s.msix j := rfl
@[simp] theorem State.setSess_level (j : Nat) : (s.setSess d x).level j = s.level j := rfl
@[simp] theorem State.setSess_wakePhase (j : Nat) : (s.setSess d x).wakePhase j = s.wakePhase j := rfl
@[simp] theorem State.setSess_counter (j : Nat) : (s.setSess d x).counter j = s.counter j := rfl
@[simp] theorem State.setSess_grain (j : Nat) : (s.setSess d x).grain j = s.grain j := rfl
@[simp] theorem State.setSess_seq (j : Nat) : (s.setSess d x).seq j = s.seq j := rfl
@[simp] theorem State.setSess_page (j : Nat) : (s.setSess d x).page j = s.page j := rfl
@[simp] theorem State.setSess_cxl (j : Nat) : (s.setSess d x).cxl j = s.cxl j := rfl
@[simp] theorem State.setSess_ring (j : Nat) : (s.setSess d x).ring j = s.ring j := rfl
@[simp] theorem State.setSess_bind (j : Nat) : (s.setSess d x).bind j = s.bind j := rfl
@[simp] theorem State.setSess_group (j : Nat) : (s.setSess d x).group j = s.group j := rfl
@[simp] theorem State.setSess_port (j : Nat) : (s.setSess d x).port j = s.port j := rfl
@[simp] theorem State.setSess_sess (j : Nat) : (s.setSess d x).sess j = if d = j then x else s.sess j := by
  simp [State.setSess, State.sess]

end

/-! setGrain. -/

section
variable (s : State) (g : Nat) (x : Grain)

@[simp] theorem State.setGrain_ctxs : (s.setGrain g x).ctxs = s.ctxs := rfl
@[simp] theorem State.setGrain_tiles : (s.setGrain g x).tiles = s.tiles := rfl
@[simp] theorem State.setGrain_sram : (s.setGrain g x).sram = s.sram := rfl
@[simp] theorem State.setGrain_dev : (s.setGrain g x).dev = s.dev := rfl
@[simp] theorem State.setGrain_hostMem : (s.setGrain g x).hostMem = s.hostMem := rfl
@[simp] theorem State.setGrain_saves : (s.setGrain g x).saves = s.saves := rfl
@[simp] theorem State.setGrain_slots : (s.setGrain g x).slots = s.slots := rfl
@[simp] theorem State.setGrain_blocks : (s.setGrain g x).blocks = s.blocks := rfl
@[simp] theorem State.setGrain_launchNo : (s.setGrain g x).launchNo = s.launchNo := rfl
@[simp] theorem State.setGrain_parks : (s.setGrain g x).parks = s.parks := rfl
@[simp] theorem State.setGrain_sync : (s.setGrain g x).sync = s.sync := rfl
@[simp] theorem State.setGrain_streams : (s.setGrain g x).streams = s.streams := rfl
@[simp] theorem State.setGrain_tiers : (s.setGrain g x).tiers = { s.tiers with dir := tabPut {} s.tiers.dir g x, held := noteHeld s.cmd.domains x s.tiers.held } := rfl
@[simp] theorem State.setGrain_seqs : (s.setGrain g x).seqs = s.seqs := rfl
@[simp] theorem State.setGrain_rings : (s.setGrain g x).rings = s.rings := rfl
@[simp] theorem State.setGrain_aeCtxs : (s.setGrain g x).aeCtxs = s.aeCtxs := rfl
@[simp] theorem State.setGrain_aes : (s.setGrain g x).aes = s.aes := rfl
@[simp] theorem State.setGrain_colls : (s.setGrain g x).colls = s.colls := rfl
@[simp] theorem State.setGrain_host : (s.setGrain g x).host = s.host := rfl
@[simp] theorem State.setGrain_fabric : (s.setGrain g x).fabric = s.fabric := rfl
@[simp] theorem State.setGrain_time : (s.setGrain g x).time = s.time := rfl
@[simp] theorem State.setGrain_cmd : (s.setGrain g x).cmd = s.cmd := rfl
@[simp] theorem State.setGrain_prot : (s.setGrain g x).prot = s.prot := rfl
@[simp] theorem State.setGrain_power : (s.setGrain g x).power = s.power := rfl
@[simp] theorem State.setGrain_pins : (s.setGrain g x).pins = s.pins := rfl
@[simp] theorem State.setGrain_smbus : (s.setGrain g x).smbus = s.smbus := rfl
@[simp] theorem State.setGrain_idle : (s.setGrain g x).idle = s.idle := rfl
@[simp] theorem State.setGrain_geo : (s.setGrain g x).geo = s.geo := rfl
@[simp] theorem State.setGrain_counters : (s.setGrain g x).counters = s.counters := rfl
@[simp] theorem State.setGrain_out : (s.setGrain g x).out = s.out := rfl
@[simp] theorem State.setGrain_pending : (s.setGrain g x).pending = s.pending := rfl
@[simp] theorem State.setGrain_free : (s.setGrain g x).free = s.free := rfl
@[simp] theorem State.setGrain_ctx (u : Fin 192) (d : Fin 4) : (s.setGrain g x).ctx u d = s.ctx u d := rfl
@[simp] theorem State.setGrain_tile (u : Fin 192) : (s.setGrain g x).tile u = s.tile u := rfl
@[simp] theorem State.setGrain_slot (i : Fin 16) : (s.setGrain g x).slot i = s.slot i := rfl
@[simp] theorem State.setGrain_launch (i : Fin 16) : (s.setGrain g x).launch i = s.launch i := rfl
@[simp] theorem State.setGrain_queue (r : Fin 256) : (s.setGrain g x).queue r = s.queue r := rfl
@[simp] theorem State.setGrain_aeCtx (u : Fin 32) (d : Fin 4) : (s.setGrain g x).aeCtx u d = s.aeCtx u d := rfl
@[simp] theorem State.setGrain_ae (u : Fin 32) : (s.setGrain g x).ae u = s.ae u := rfl
@[simp] theorem State.setGrain_obj (b : Nat) : (s.setGrain g x).obj b = s.obj b := rfl
@[simp] theorem State.setGrain_chan (j : Nat) : (s.setGrain g x).chan j = s.chan j := rfl
@[simp] theorem State.setGrain_mbx (j : Fin 8) : (s.setGrain g x).mbx j = s.mbx j := rfl
@[simp] theorem State.setGrain_evq (j : Nat) : (s.setGrain g x).evq j = s.evq j := rfl
@[simp] theorem State.setGrain_msix (j : Fin 16) : (s.setGrain g x).msix j = s.msix j := rfl
@[simp] theorem State.setGrain_level (j : Nat) : (s.setGrain g x).level j = s.level j := rfl
@[simp] theorem State.setGrain_wakePhase (j : Nat) : (s.setGrain g x).wakePhase j = s.wakePhase j := rfl
@[simp] theorem State.setGrain_counter (j : Nat) : (s.setGrain g x).counter j = s.counter j := rfl
@[simp] theorem State.setGrain_grain (j : Nat) : (s.setGrain g x).grain j = if g = j then x else s.grain j := by
  simp [State.setGrain, State.grain]
@[simp] theorem State.setGrain_seq (j : Nat) : (s.setGrain g x).seq j = s.seq j := rfl
@[simp] theorem State.setGrain_page (j : Nat) : (s.setGrain g x).page j = s.page j := rfl
@[simp] theorem State.setGrain_cxl (j : Nat) : (s.setGrain g x).cxl j = s.cxl j := rfl
@[simp] theorem State.setGrain_ring (j : Nat) : (s.setGrain g x).ring j = s.ring j := rfl
@[simp] theorem State.setGrain_bind (j : Nat) : (s.setGrain g x).bind j = s.bind j := rfl
@[simp] theorem State.setGrain_group (j : Nat) : (s.setGrain g x).group j = s.group j := rfl
@[simp] theorem State.setGrain_port (j : Nat) : (s.setGrain g x).port j = s.port j := rfl
@[simp] theorem State.setGrain_sess (j : Nat) : (s.setGrain g x).sess j = s.sess j := rfl

end

/-! bump. -/

section
variable (s : State)

@[simp] theorem State.bump_ctxs : s.bump.ctxs = s.ctxs := rfl
@[simp] theorem State.bump_tiles : s.bump.tiles = s.tiles := rfl
@[simp] theorem State.bump_sram : s.bump.sram = s.sram := rfl
@[simp] theorem State.bump_dev : s.bump.dev = s.dev := rfl
@[simp] theorem State.bump_hostMem : s.bump.hostMem = s.hostMem := rfl
@[simp] theorem State.bump_saves : s.bump.saves = s.saves := rfl
@[simp] theorem State.bump_slots : s.bump.slots = s.slots := rfl
@[simp] theorem State.bump_blocks : s.bump.blocks = s.blocks := rfl
@[simp] theorem State.bump_launchNo : s.bump.launchNo = s.launchNo := rfl
@[simp] theorem State.bump_parks : s.bump.parks = s.parks := rfl
@[simp] theorem State.bump_sync : s.bump.sync = s.sync := rfl
@[simp] theorem State.bump_streams : s.bump.streams = s.streams := rfl
@[simp] theorem State.bump_tiers : s.bump.tiers = s.tiers := rfl
@[simp] theorem State.bump_seqs : s.bump.seqs = s.seqs := rfl
@[simp] theorem State.bump_rings : s.bump.rings = s.rings := rfl
@[simp] theorem State.bump_aeCtxs : s.bump.aeCtxs = s.aeCtxs := rfl
@[simp] theorem State.bump_aes : s.bump.aes = s.aes := rfl
@[simp] theorem State.bump_colls : s.bump.colls = s.colls := rfl
@[simp] theorem State.bump_host : s.bump.host = s.host := rfl
@[simp] theorem State.bump_fabric : s.bump.fabric = s.fabric := rfl
@[simp] theorem State.bump_time : s.bump.time = s.time := rfl
@[simp] theorem State.bump_cmd : s.bump.cmd = s.cmd := rfl
@[simp] theorem State.bump_prot : s.bump.prot = s.prot := rfl
@[simp] theorem State.bump_power : s.bump.power = s.power := rfl
@[simp] theorem State.bump_pins : s.bump.pins = s.pins := rfl
@[simp] theorem State.bump_smbus : s.bump.smbus = s.smbus := rfl
@[simp] theorem State.bump_idle : s.bump.idle = s.idle := rfl
@[simp] theorem State.bump_geo : s.bump.geo = s.geo := rfl
@[simp] theorem State.bump_counters : s.bump.counters = s.counters := rfl
@[simp] theorem State.bump_out : s.bump.out = s.out := rfl
@[simp] theorem State.bump_pending : s.bump.pending = s.pending := rfl
@[simp] theorem State.bump_free : s.bump.free = s.free + 1 := rfl
@[simp] theorem State.bump_ctx (u : Fin 192) (d : Fin 4) : s.bump.ctx u d = s.ctx u d := rfl
@[simp] theorem State.bump_tile (u : Fin 192) : s.bump.tile u = s.tile u := rfl
@[simp] theorem State.bump_slot (i : Fin 16) : s.bump.slot i = s.slot i := rfl
@[simp] theorem State.bump_launch (i : Fin 16) : s.bump.launch i = s.launch i := rfl
@[simp] theorem State.bump_queue (r : Fin 256) : s.bump.queue r = s.queue r := rfl
@[simp] theorem State.bump_aeCtx (u : Fin 32) (d : Fin 4) : s.bump.aeCtx u d = s.aeCtx u d := rfl
@[simp] theorem State.bump_ae (u : Fin 32) : s.bump.ae u = s.ae u := rfl
@[simp] theorem State.bump_obj (b : Nat) : s.bump.obj b = s.obj b := rfl
@[simp] theorem State.bump_chan (j : Nat) : s.bump.chan j = s.chan j := rfl
@[simp] theorem State.bump_mbx (j : Fin 8) : s.bump.mbx j = s.mbx j := rfl
@[simp] theorem State.bump_evq (j : Nat) : s.bump.evq j = s.evq j := rfl
@[simp] theorem State.bump_msix (j : Fin 16) : s.bump.msix j = s.msix j := rfl
@[simp] theorem State.bump_level (j : Nat) : s.bump.level j = s.level j := rfl
@[simp] theorem State.bump_wakePhase (j : Nat) : s.bump.wakePhase j = s.wakePhase j := rfl
@[simp] theorem State.bump_counter (j : Nat) : s.bump.counter j = s.counter j := rfl
@[simp] theorem State.bump_grain (j : Nat) : s.bump.grain j = s.grain j := rfl
@[simp] theorem State.bump_seq (j : Nat) : s.bump.seq j = s.seq j := rfl
@[simp] theorem State.bump_page (j : Nat) : s.bump.page j = s.page j := rfl
@[simp] theorem State.bump_cxl (j : Nat) : s.bump.cxl j = s.cxl j := rfl
@[simp] theorem State.bump_ring (j : Nat) : s.bump.ring j = s.ring j := rfl
@[simp] theorem State.bump_bind (j : Nat) : s.bump.bind j = s.bind j := rfl
@[simp] theorem State.bump_group (j : Nat) : s.bump.group j = s.group j := rfl
@[simp] theorem State.bump_port (j : Nat) : s.bump.port j = s.port j := rfl
@[simp] theorem State.bump_sess (j : Nat) : s.bump.sess j = s.sess j := rfl

end

end Sys2Proof.Machine
end

