-- ==== Sys2Proof/Laws/Sched.lean ====
section
/-! SUPPORT. What the tile sequencer's operations change. -/

namespace Sys2Proof.Machine

theorem State.ctx_setCtx (s : State) (t : Fin 192) (c : Fin 4) (x : Ctx) (v : Fin 192) (d : Fin 4) :
    (s.setCtx t c x).ctx v d = if t = v ∧ c = d then x else s.ctx v d := by
  simp only [State.ctx, State.setCtx, tabGet_put, ctxIx_inj]

theorem State.tile_setTile (s : State) (t v : Fin 192) (y : Tile) :
    (s.setTile t y).tile v = if t = v then y else s.tile v := by
  simp only [State.tile, State.setTile, tabGet_put, Fin.ext_iff]

theorem State.queue_setQueue (s : State) (q r : Fin 256) (x : StQueue) :
    (s.setQueue q x).queue r = if q = r then x else s.queue r := by
  simp only [State.queue, State.setQueue, tabGet_put, Fin.ext_iff]

theorem Promotes.refl (s : State) : Promotes s s := ⟨fun _ => .inl rfl, fun _ h => h, fun _ => .inl rfl⟩

/-- Neither the directory nor the memory changes. -/
theorem Promotes.of_eq {s t : State} (hd : t.tiers.dir = s.tiers.dir) (hm : t.dev = s.dev) : Promotes s t := by
  have hg : ∀ g, t.grain g = s.grain g := fun g => by simp only [State.grain, hd]
  refine ⟨fun g => .inl (hg g), fun g h => ?_, fun a => .inl (by rw [hm])⟩
  unfold Leaving at *; rw [← hg g]; exact h

theorem Promotes.trans {a b c : State} (h : Promotes a b) (k : Promotes b c) : Promotes a c := by
  obtain ⟨h1, h2, h3⟩ := h
  obtain ⟨k1, k2, k3⟩ := k
  refine ⟨fun g => ?_, fun g x => h2 g (k2 g x), fun x => ?_⟩
  · rcases h1 g with e | e
    · rw [← e]; exact k1 g
    · exact .inr e
  · rcases k3 x with e | ⟨l, e⟩
    · rw [e]; exact h3 x
    · exact .inr ⟨h2 _ l, e⟩

theorem Scheduled.refl (u : Fin 192) (s : State) : Scheduled u s s :=
  ⟨rfl, fun _ _ => rfl, fun _ _ _ => rfl, fun _ => rfl, fun _ _ => rfl, fun _ => rfl, .refl s⟩

theorem Scheduled.trans {u : Fin 192} {a b c : State} (h : Scheduled u a b) (k : Scheduled u b c) : Scheduled u a c := by
  obtain ⟨h1, h2, h3, h4, h5, h6, h7⟩ := h
  obtain ⟨k1, k2, k3, k4, k5, k6, k7⟩ := k
  refine ⟨?_, ?_, ?_, ?_, ?_, ?_, h7.trans k7⟩
  · rw [k1, h1]
  · intro v d; rw [k2 v d, h2 v d]
  · intro v d hv; rw [k3 v d hv, h3 v d hv]
  · intro v; rw [k4 v, h4 v]
  · intro v hv; rw [k5 v hv, h5 v hv]
  · intro q; rw [k6 q, h6 q]

/-- A context of the tile changes its state and its parking only. -/
theorem Scheduled.modCtx {u : Fin 192} {s : State} {c : Fin 4} {f : Ctx → Ctx}
    (hf : ∀ x, f x = { x with st := (f x).st, parked := (f x).parked }) : Scheduled u s (s.modCtx u c f) := by
  have hx : ∀ v d, (s.modCtx u c f).ctx v d = if u = v ∧ c = d then f (s.ctx u c) else s.ctx v d :=
    fun v d => State.ctx_setCtx s u c _ v d
  refine ⟨rfl, ?_, ?_, fun _ => rfl, fun _ _ => rfl, fun _ => rfl, .of_eq rfl rfl⟩
  · intro v d
    rw [hx v d]
    split
    · rename_i h; obtain ⟨rfl, rfl⟩ := h; exact hf _
    · rfl
  · intro v d hv
    rw [hx v d, if_neg (fun h => hv h.1.symm)]

/-- The tile's selection changes only. -/
theorem Scheduled.modTile {u : Fin 192} {s : State} {f : Tile → Tile}
    (hf : ∀ y, f y = { y with lastSel := (f y).lastSel, switching := (f y).switching }) : Scheduled u s (s.modTile u f) := by
  have hx : ∀ v, (s.modTile u f).tile v = if u = v then f (s.tile u) else s.tile v :=
    fun v => State.tile_setTile s u v _
  refine ⟨rfl, fun _ _ => rfl, fun _ _ _ => rfl, ?_, ?_, fun _ => rfl, .of_eq rfl rfl⟩
  · intro v
    rw [hx v]
    split
    · rename_i h; cases h; exact hf _
    · rfl
  · intro v hv
    rw [hx v, if_neg (fun h => hv h.symm)]

theorem Scheduled.forAll {α : Type} {u : Fin 192} {l : List α} {f : State → α → State}
    (hf : ∀ s a, Scheduled u s (f s a)) (s : State) : Scheduled u s (s.forAll l f) := by
  unfold State.forAll
  induction l generalizing s with
  | nil => exact .refl u s
  | cons a l ih => exact (hf s a).trans (ih _)

theorem Scheduled.parks {u : Fin 192} {s : State} {n : Nat} : Scheduled u s { s with parks := n } :=
  ⟨rfl, fun _ _ => rfl, fun _ _ _ => rfl, fun _ => rfl, fun _ _ => rfl, fun _ => rfl, .of_eq rfl rfl⟩

theorem Scheduled.idle {u : Fin 192} {s : State} {i : Idle} : Scheduled u s { s with idle := i } :=
  ⟨rfl, fun _ _ => rfl, fun _ _ _ => rfl, fun _ => rfl, fun _ _ => rfl, fun _ => rfl, .of_eq rfl rfl⟩

theorem Scheduled.fill {u : Fin 192} {s : State} {q : Fin 256} {b : Bool} :
    Scheduled u s (s.setQueue q { s.queue q with fillMark := b }) := by
  refine ⟨rfl, fun _ _ => rfl, fun _ _ _ => rfl, fun _ => rfl, fun _ _ => rfl, ?_, .of_eq rfl rfl⟩
  intro r
  rw [State.queue_setQueue]
  split
  · rename_i h; cases h; rfl
  · rfl

theorem Scheduled.marks {u : Fin 192} {s : State} {l : List (Fin 256)} :
    Scheduled u s { s with streams := { s.streams with marks := l } } :=
  ⟨rfl, fun _ _ => rfl, fun _ _ _ => rfl, fun _ => rfl, fun _ _ => rfl, fun _ => rfl, .of_eq rfl rfl⟩

theorem selectCtx_scheduled (s : State) (t : Fin 192) : Scheduled t s (selectCtx s t) := by
  unfold selectCtx
  split
  · exact .refl t s
  · split
    · exact (Scheduled.modCtx fun _ => rfl).trans (.modTile fun _ => rfl)
    · exact .modTile fun _ => rfl

/-! Counting and reporting. -/

theorem Reported.refl (s : State) : Reported s s := rfl

theorem Reported.trans {a b c : State} (h : Reported a b) (k : Reported b c) : Reported a c := by
  unfold Reported at *
  rw [k, h]

theorem Reported.forAll {α : Type} {l : List α} {f : State → α → State} (hf : ∀ s a, Reported s (f s a)) (s : State) :
    Reported s (s.forAll l f) := by
  unfold State.forAll
  induction l generalizing s with
  | nil => exact .refl s
  | cons a l ih => exact (hf s a).trans (ih _)

theorem Reported.setEvq {s : State} {i : Nat} {q : EvQueue} : Reported s (s.setEvq i q) := rfl

theorem putRecord_reported (s : State) (i : Nat) (r : Nat → Nat) : Reported s (putRecord s i r) := by
  unfold putRecord
  dsimp only [State.setEvq, State.hostWrite, State.evq]
  rfl

theorem putEvent_reported (s : State) (i : Nat) (e : Ev) : Reported s (putEvent s i e) := by
  unfold putEvent
  exact Reported.setEvq.trans (Reported.forAll (fun _ _ => putRecord_reported _ _ _) _)

theorem testQueue_reported (s : State) (i : Nat) : Reported s (testQueue s i) := by
  unfold testQueue
  dsimp only
  split
  · unfold raiseQueue raiseVector
    dsimp only
    split <;> rfl
  · exact .refl s

theorem queueEvent_reported (s : State) (i : Nat) (e : Ev) : Reported s (queueEvent s i e) := by
  unfold queueEvent
  dsimp only
  split
  · split
    · exact Reported.setEvq.trans ((putEvent_reported _ _ _).trans ((putEvent_reported _ _ _).trans (testQueue_reported _ _)))
    · exact .setEvq
  · split
    · exact (putEvent_reported _ _ _).trans (testQueue_reported _ _)
    · exact .setEvq

theorem count_reported (s : State) (n : Nat) : Reported s (count s n) := by
  have he : ∀ (a : State) (e : Ev), Reported a (emit a e) := by
    intro a e
    unfold emit emitTo
    split
    · exact queueEvent_reported _ _ _
    · split
      · exact queueEvent_reported _ _ _
      · dsimp only
        have hb : Reported a (bumpCounter a 0x1B00 1).1 := rfl
        split
        · split
          · exact hb.trans (queueEvent_reported _ _ _)
          · exact hb
        · exact hb
  unfold count countN
  dsimp only
  have hb : Reported s (bumpCounter s n 1).1 := rfl
  split
  · exact hb.trans (he _ _)
  · exact hb

theorem Scheduled.reported {u : Fin 192} {s t : State} (h : Reported s t) : Scheduled u s t := by
  rw [show t = _ from h]
  exact ⟨rfl, fun _ _ => rfl, fun _ _ _ => rfl, fun _ => rfl, fun _ _ => rfl, fun _ => rfl, .of_eq rfl rfl⟩

/-! Promotions that a fill mark asks for. -/

theorem State.grain_setGrain (s : State) (g : Nat) (x : Grain) (h : Nat) :
    (s.setGrain g x).grain h = if g = h then x else s.grain h := by
  simp only [State.grain, State.setGrain, tabGet_put]

/-- A grain that is UNBACKED, FAR or EVICTING takes another entry, that no release waits on. -/
theorem Scheduled.setGrain {u : Fin 192} {s : State} {g : Nat} {x : Grain}
    (hs : (s.grain g).st = 0 ∨ (s.grain g).st = 4 ∨ (s.grain g).st = 6) (hx : x.st ≠ 6) : Scheduled u s (s.setGrain g x) := by
  have hg := State.grain_setGrain s g x
  refine ⟨rfl, fun _ _ => rfl, fun _ _ _ => rfl, fun _ => rfl, fun _ _ => rfl, fun _ => rfl, ?_, ?_, fun _ => .inl rfl⟩
  · intro h
    rw [hg]
    split
    · rename_i e; subst e; exact .inr hs
    · exact .inl rfl
  · intro h
    unfold Leaving
    rw [hg]
    split
    · exact fun k => absurd k.1 hx
    · exact id

theorem startBacking_scheduled (u : Fin 192) (s : State) (g d : Nat) (die : Fin 5) : Scheduled u s (startBacking s g d die) := by
  unfold startBacking
  dsimp only
  split
  · rename_i h
    simp only [Bool.and_eq_true, decide_eq_true_eq] at h
    exact (Scheduled.setGrain (.inl h.1) (by simp)).trans (.reported (count_reported _ _))
  · exact .refl u s

theorem markPend_scheduled (u : Fin 192) (s : State) (p : Pend) : Scheduled u s (markPend s p) := by
  unfold markPend
  dsimp only
  split
  · rename_i h
    refine Scheduled.trans (b := s.setGrain p.grain { s.grain p.grain with pending := true })
      (.setGrain (.inr (.inl h)) (by simp [h])) ?_
    unfold pushPend
    split
    · exact .refl u _
    · exact ⟨rfl, fun _ _ => rfl, fun _ _ _ => rfl, fun _ => rfl, fun _ _ => rfl, fun _ => rfl, .of_eq rfl rfl⟩
  · exact .refl u s

/-- The release that waited for an eviction which has been ended since. -/
theorem Scheduled.releaseNow {u : Fin 192} {s a : State} {g : Nat} (h : Scheduled u s a) (hl : Leaving s g) :
    Scheduled u s (releaseNow a g) := by
  have free : ∀ (a : State) (f : Nat × Nat), Scheduled u a (freeNear a f) := fun a f =>
    ⟨rfl, fun _ _ => rfl, fun _ _ _ => rfl, fun _ => rfl, fun _ _ => rfl, fun _ => rfl, .of_eq rfl rfl⟩
  have freeF : ∀ (a : State) (p f : Nat), Scheduled u a (freeFar a p f) := fun a p f =>
    ⟨rfl, fun _ _ => rfl, fun _ _ _ => rfl, fun _ => rfl, fun _ _ => rfl, fun _ => rfl, .of_eq rfl rfl⟩
  have near : ∀ (a : State) (x : Grain), Scheduled u a (freeNearOf a x) := fun a x => by
    unfold freeNearOf
    dsimp only
    split <;> split
    · exact (free _ _).trans (free _ _)
    · exact free _ _
    · exact free _ _
    · exact .refl u _
  have far : ∀ (a : State) (x : Grain), Scheduled u a (freeFarOf a x) := fun a x => by
    unfold freeFarOf
    dsimp only
    split <;> split
    · exact (freeF _ _ _).trans (freeF _ _ _)
    · exact freeF _ _ _
    · exact freeF _ _ _
    · exact .refl u _
  have drop : ∀ a : State, Scheduled u a (dropTunGrain (unpend a g) g) := fun a =>
    ⟨rfl, fun _ _ => rfl, fun _ _ _ => rfl, fun _ => rfl, fun _ _ => rfl, fun _ => rfl, .of_eq rfl rfl⟩
  unfold Machine.releaseNow
  dsimp only
  have hb := (h.trans (near a (a.grain g))).trans ((far _ (a.grain g)).trans (drop _))
  generalize dropTunGrain (unpend (freeFarOf (freeNearOf a (a.grain g)) (a.grain g)) g) g = b at hb
  obtain ⟨h1, h2, h3, h4, h5, h6, h7, h8, h9⟩ := hb
  refine ⟨?_, h2, h3, h4, h5, h6, ?_, ?_, ?_⟩
  · rw [h1]
  · intro j
    simp only [State.grain, tabGet_put]
    split
    · rename_i e; subst e; exact .inr (.inr (.inr hl.1))
    · exact h7 j
  · intro j
    simp only [Leaving, State.grain, tabGet_put]
    split
    · exact fun k => absurd k.1 (by simp)
    · exact h8 j
  · intro x
    simp only [memGet_zero]
    split
    · have : x / 65536 = g := by omega
      exact .inr ⟨this ▸ hl, rfl⟩
    · exact h9 x

theorem cancelEviction_scheduled (u : Fin 192) (s : State) (g : Nat) : Scheduled u s (cancelEviction s g) := by
  unfold cancelEviction
  dsimp only
  split
  · rename_i h
    have hs : Scheduled u s (s.setGrain g { s.grain g with st := 2 }) := .setGrain (.inr (.inr h)) (by simp)
    have hc := count_reported (s.setGrain g { s.grain g with st := 2 }) 0x0500
    have hr : ((count (s.setGrain g { s.grain g with st := 2 }) 0x0500).grain g).releasing = (s.grain g).releasing := by
      rw [show count _ _ = _ from hc]
      show ((s.setGrain g { s.grain g with st := 2 }).grain g).releasing = _
      rw [State.grain_setGrain, if_pos rfl]
    have hk := hs.trans (.reported hc)
    unfold afterCopy
    rw [hr]
    split
    · exact hk.releaseNow ⟨h, ‹_›⟩
    · exact hk
  · exact .refl u s

theorem requestPromotion_scheduled (u : Fin 192) (s : State) (g d : Nat) (cls : Fin 4) (die : Fin 5) :
    Scheduled u s (requestPromotion s g d cls die) := by
  unfold requestPromotion requestPend
  dsimp only
  split
  · exact startBacking_scheduled u _ _ _ _
  · split
    · exact cancelEviction_scheduled u _ _
    · split
      · rename_i h
        exact (Scheduled.setGrain (.inr (.inl h)) (by simp [h])).trans (.forAll (fun _ _ => markPend_scheduled u _ _) _)
      · exact .refl u s

theorem refreshMarks_scheduled (s : State) (t : Fin 192) : Scheduled t s (refreshMarks s t) := by
  have ask : ∀ (a : State) (c : Fin 4), Scheduled t a (askFill a t c) := fun a c =>
    .forAll (fun _ _ => .forAll (fun _ _ => .forAll (fun _ _ => requestPromotion_scheduled t _ _ _ _ _) _) _) a
  unfold refreshMarks
  dsimp only
  split
  · exact ((Scheduled.forAll (fun _ _ => .fill) s).trans .marks).trans (ask _ _)
  · exact (Scheduled.forAll (fun _ _ => .fill) s).trans .marks

theorem idleUnit_scheduled (u : Fin 192) (s : State) (n : Nat) (a b : Bool) : Scheduled u s (idleUnit s n a b) := by
  unfold idleUnit
  split
  · split
    · exact .idle
    · exact .refl u s
  · split
    · exact .idle
    · exact .refl u s

/-- The sequencer's rules change nothing but its own decisions. -/
theorem resched_scheduled (s : State) (t : Fin 192) : Scheduled t s (resched s t) := by
  have h1 : Scheduled t s (match hasSt s t .spinning with
      | some c => if (s.ctx t c).spunOut && otherReady s t c then
          { s.modCtx t c (fun x => { x with st := .parked, parked := s.parks }) with parks := s.parks + 1 } else s
      | none => s) := by
    split
    · split
      · exact (Scheduled.modCtx fun _ => rfl).trans .parks
      · exact .refl t s
    · exact .refl t s
  unfold resched
  lift_lets
  intro a
  have ha : Scheduled t s a := h1
  clear_value a
  intro b
  have hb : Scheduled t a b := by
    subst b
    split
    · exact .refl t a
    · split
      · split
        · split
          · exact (Scheduled.modCtx fun _ => rfl).trans (selectCtx_scheduled _ t)
          · exact .refl t a
        · exact .refl t a
      · exact selectCtx_scheduled a t
  exact (ha.trans hb).trans ((refreshMarks_scheduled b t).trans (idleUnit_scheduled t _ _ _ _))

/-- The program counter moves to a byte offset within CODE. -/
theorem jumpTo_scheduled (s : State) (t : Fin 192) (c : Fin 4) (pc : Nat)
    (h : (BitVec.ofNat 32 pc).toNat < codeLen (s.modCtx t c (fun x => { x with pc := BitVec.ofNat 32 pc })) t c) :
    Scheduled t (s.setCtx t c { s.ctx t c with pc := BitVec.ofNat 32 pc }) (jumpTo s t c pc) := by
  unfold jumpTo
  rw [if_neg (Nat.not_le.mpr h)]
  exact resched_scheduled _ t

/-- Writing a context twice keeps the last. -/
theorem tabPut_put {α : Type} [DecidableEq α] (d : α) (t : Tab α) (i : Nat) (v w : α) :
    tabPut d (tabPut d t i v) i w = tabPut d t i w := by
  have hd : tabDel i (tabIns i v (tabDel i t)) = tabDel i t := by
    have key : ∀ l : Tab α, (∀ e ∈ l, e.1 ≠ i) → tabDel i (tabIns i v l) = l := by
      intro l
      induction l with
      | nil => intro _; simp [tabIns, tabDel]
      | cons e l ih =>
        intro h
        obtain ⟨k, z⟩ := e
        have hk : k ≠ i := h (k, z) (by simp)
        have hf : List.filter (fun e => e.1 != i) l = l :=
          List.filter_eq_self.mpr fun e he => by simpa using h e (by simp [he])
        have ih' := ih fun e he => h e (by simp [he])
        simp only [tabDel] at ih'
        simp only [tabIns]
        split
        · simp [tabDel, hk, hf]
        · simp [tabDel, hk, ih']
    exact key _ fun e he => mem_tabDel_ne he
  have hdd : tabDel i (tabDel i t) = tabDel i t := by simp [tabDel]
  unfold tabPut
  split <;> split <;> simp_all

theorem State.setCtx_setCtx (s : State) (t : Fin 192) (c : Fin 4) (x y : Ctx) :
    (s.setCtx t c x).setCtx t c y = s.setCtx t c y := by
  simp only [State.setCtx, tabPut_put]

/-- To the next instruction, where another word of CODE follows. -/
theorem advance_continues {s : State} {u : Issue} {x : Ctx} {f : Ctx → Ctx} (hp : (f x).pc = x.pc)
    (hn : (f x).nest = x.nest) (hl : (f x).loops = x.loops)
    (hlt : (BitVec.ofNat 32 (following x).1).toNat < ((s.tile u.tile).stepLen).getD (codeBytes (ctxImage s (f x)))) :
    Continues s u x f (advance (s.setCtx u.tile u.ctx (f x)) u.tile u.ctx) := by
  have hx : (s.setCtx u.tile u.ctx (f x)).ctx u.tile u.ctx = f x := by simp
  unfold Continues advance advanceFrom
  simp only [hx, hp, hn, hl, State.setCtx_setCtx]
  rw [show leaveWord x.pc.toNat x.nest x.loops = following x from rfl]
  have h := jumpTo_scheduled (s.setCtx u.tile u.ctx { f x with nest := (following x).2.1, loops := (following x).2.2 })
    u.tile u.ctx (following x).1 (by
      have e : ∀ (a : State) (y : Ctx), codeLen (a.setCtx u.tile u.ctx y) u.tile u.ctx =
          ((a.tile u.tile).stepLen).getD (codeBytes (ctxImage a y)) := fun a y => by
        unfold codeLen
        rw [State.ctx_setCtx, if_pos ⟨rfl, rfl⟩]
        rfl
      rw [State.modCtx, e, State.ctx_setCtx, if_pos ⟨rfl, rfl⟩]
      exact hlt)
  simpa [State.ctx_setCtx, State.setCtx_setCtx, hp] using h

end Sys2Proof.Machine
end

