-- ==== Sys2Proof/Laws/SteadyBase.lean ====
section
/-! SUPPORT. What every command keeps, as a relation between the state before and a state on the way. -/

namespace Sys2Proof.Machine

/-- Queue and address pins as before, no free value used twice, canonical memories stay canonical. -/
def Steady (o s : State) : Prop := s.pending = o.pending ∧ s.geo = o.geo ∧ o.free ≤ s.free ∧ (MemOk o → MemOk s)

/-- An outcome whose next state keeps them. -/
structure OutSteady (o : State) (r : Outcome) : Prop where
  keep : ∀ t, r = .next t → Steady o t

theorem OutSteady.next {o t : State} (h : Steady o t) : OutSteady o (.next t) := ⟨fun _ e => by cases e; exact h⟩

/-- An optional state, alone or with a value, that keeps them. -/
structure OptSteady (o : State) (r : Option State) : Prop where
  keep : ∀ t, r = some t → Steady o t
structure OptSteadyP (o : State) {α : Type} (r : Option (State × α)) : Prop where
  keep : ∀ t, r = some t → Steady o t.1

theorem OptSteady.none' {o : State} : OptSteady o none := ⟨fun _ e => by cases e⟩
theorem OptSteady.some' {o t : State} (h : Steady o t) : OptSteady o (some t) := ⟨fun _ e => by cases e; exact h⟩
theorem OptSteadyP.none' {o : State} {α : Type} : OptSteadyP o (none : Option (State × α)) := ⟨fun _ e => by cases e⟩
theorem OptSteadyP.some' {o : State} {α : Type} {t : State × α} (h : Steady o t.1) : OptSteadyP o (some t) :=
  ⟨fun _ e => by cases e; exact h⟩
theorem OptSteadyP.of {o s : State} {α : Type} {r : Option (State × α)} {a : α} (h : OptSteadyP o r) (e : r = some (s, a)) :
    Steady o s := h.keep _ e
theorem OptSteady.map {o : State} {α : Type} {r : Option (State × α)} {f : State × α → State} (h : OptSteadyP o r)
    (hf : ∀ p, Steady o p.1 → Steady o (f p)) : OptSteady o (r.map f) :=
  ⟨fun t e => by cases r with
    | none => cases e
    | some p => cases e; exact hf p (h.keep p rfl)⟩
theorem OptSteadyP.map {o : State} {α β : Type} {r : Option (State × α)} {f : State × α → State × β} (h : OptSteadyP o r)
    (hf : ∀ p, Steady o p.1 → Steady o (f p).1) : OptSteadyP o (r.map f) :=
  ⟨fun t e => by cases r with
    | none => cases e
    | some p => cases e; exact hf p (h.keep p rfl)⟩
theorem OptSteady.mapv {o : State} {α : Type} {r : Option α} {f : α → State} (hf : ∀ p, Steady o (f p)) : OptSteady o (r.map f) :=
  ⟨fun t e => by cases r with
    | none => cases e
    | some p => cases e; exact hf p⟩
theorem OptSteadyP.mapv {o : State} {α β : Type} {r : Option α} {f : α → State × β} (hf : ∀ p, Steady o (f p).1) : OptSteadyP o (r.map f) :=
  ⟨fun t e => by cases r with
    | none => cases e
    | some p => cases e; exact hf p⟩

theorem OptSteady.mapS {o : State} {r : Option State} {f : State → State} (h : OptSteady o r)
    (hf : ∀ p, Steady o p → Steady o (f p)) : OptSteady o (r.map f) :=
  ⟨fun t e => by cases r with
    | none => cases e
    | some p => cases e; exact hf p (h.keep p rfl)⟩
theorem OptSteadyP.mapS {o : State} {β : Type} {r : Option State} {f : State → State × β} (h : OptSteady o r)
    (hf : ∀ p, Steady o p → Steady o (f p).1) : OptSteadyP o (r.map f) :=
  ⟨fun t e => by cases r with
    | none => cases e
    | some p => cases e; exact hf p (h.keep p rfl)⟩

theorem OptSteady.bindv {o : State} {α : Type} {r : Option α} {f : α → Option State} (hf : ∀ p, OptSteady o (f p)) :
    OptSteady o (r.bind f) :=
  ⟨fun t e => by cases r with
    | none => cases e
    | some p => exact (hf p).keep t e⟩
theorem OptSteadyP.bindv {o : State} {α β : Type} {r : Option α} {f : α → Option (State × β)} (hf : ∀ p, OptSteadyP o (f p)) :
    OptSteadyP o (r.bind f) :=
  ⟨fun t e => by cases r with
    | none => cases e
    | some p => exact (hf p).keep t e⟩

/-- A state that differs elsewhere and in canonical memories. -/
theorem Steady.set {o s t : State} (h : Steady o s) (hp : t.pending = s.pending) (hg : t.geo = s.geo) (hf : t.free = s.free)
    (h1 : memWf s.sram = true → memWf t.sram = true) (h2 : memWf s.dev = true → memWf t.dev = true)
    (h3 : memWf s.hostMem = true → memWf t.hostMem = true) : Steady o t :=
  ⟨hp.trans h.1, hg.trans h.2.1, hf ▸ h.2.2.1, fun k => ⟨h1 (h.2.2.2 k).1, h2 (h.2.2.2 k).2.1, h3 (h.2.2.2 k).2.2⟩⟩

theorem Steady.of {o s t : State} (h1 : t.pending = s.pending) (h2 : t.geo = s.geo) (h3 : t.free = s.free)
    (h4 : t.sram = s.sram) (h5 : t.dev = s.dev) (h6 : t.hostMem = s.hostMem) (h : Steady o s) : Steady o t := by
  unfold Steady MemOk at *; rw [h1, h2, h3, h4, h5, h6]; exact h

theorem Steady.fst {o s : State} {α : Type} {p : State × α} {a : α} (h : Steady o p.1) (e : p = (s, a)) : Steady o s := by
  subst e; exact h

theorem Steady.mk {o s : State} {ctxs : Tab Ctx} {tiles : Tab Tile} {saves : Tab (List (Nat × List Byte))} {slots : Tab Slot} {blocks : Tab Nat} {launchNo : Word32} {parks : Nat} {sync : SyncUnit} {streams : StreamUnit} {tiers : Tiers} {seqs : SeqUnit} {rings : RingUnit} {aeCtxs : Tab AeCtx} {aes : Tab AeEngine} {colls : CollUnit} {host : HostPort} {fabric : Fabric} {time : TimeUnit} {cmd : CmdUnit} {prot : Prot} {power : Power} {pins : Pins} {smbus : Smbus} {idle : Idle} {counters : Tab Counter} {out : Out} :
    Steady o { s with ctxs := ctxs, tiles := tiles, saves := saves, slots := slots, blocks := blocks, launchNo := launchNo, parks := parks, sync := sync, streams := streams, tiers := tiers, seqs := seqs, rings := rings, aeCtxs := aeCtxs, aes := aes, colls := colls, host := host, fabric := fabric, time := time, cmd := cmd, prot := prot, power := power, pins := pins, smbus := smbus, idle := idle, counters := counters, out := out } ↔ Steady o s := Iff.rfl

theorem Steady.rfl {s : State} : Steady s s := ⟨.refl _, .refl _, Nat.le_refl _, id⟩

theorem Steady.sram {o s : State} {m : Mem} (h : Steady o s) (hm : memWf s.sram = true → memWf m = true) :
    Steady o { s with sram := m } := ⟨h.1, h.2.1, h.2.2.1, fun k => ⟨hm (h.2.2.2 k).1, (h.2.2.2 k).2⟩⟩
theorem Steady.dev {o s : State} {m : Mem} (h : Steady o s) (hm : memWf s.dev = true → memWf m = true) :
    Steady o { s with dev := m } := ⟨h.1, h.2.1, h.2.2.1, fun k => ⟨(h.2.2.2 k).1, hm (h.2.2.2 k).2.1, (h.2.2.2 k).2.2⟩⟩
theorem Steady.hostMem {o s : State} {m : Mem} (h : Steady o s) (hm : memWf s.hostMem = true → memWf m = true) :
    Steady o { s with hostMem := m } := ⟨h.1, h.2.1, h.2.2.1, fun k => ⟨(h.2.2.2 k).1, (h.2.2.2 k).2.1, hm (h.2.2.2 k).2.2⟩⟩

theorem foldl_steady {o : State} {α : Type} {f : State → α → State} {l : List α} {s : State}
    (hf : ∀ s x, Steady o s → Steady o (f s x)) (h : Steady o s) : Steady o (l.foldl f s) := by
  induction l generalizing s with
  | nil => exact h
  | cons a l ih => exact ih (hf _ _ h)

theorem foldl_fst_steady {o : State} {α β : Type} {f : State × β → α → State × β} {l : List α} {p : State × β}
    (hf : ∀ p x, Steady o p.1 → Steady o (f p x).1) (h : Steady o p.1) : Steady o (l.foldl f p).1 := by
  induction l generalizing p with
  | nil => exact h
  | cons a l ih => exact ih (hf _ _ h)

end Sys2Proof.Machine
end

