-- ==== Sys2Proof/Laws/SteadyTiles.lean ====
section
/-! SUPPORT. What the operations of Machine/Ops, Machine/Tiers, Machine/Bar2, Machine/Maltster, Machine/TileCtx, Machine/TileScalar, Machine/TileUnits, Machine/Sync keep: the queue, the address pins, canonical memories. -/

namespace Sys2Proof.Machine

/-! Machine/Ops. -/

theorem State.setCtx_steady {og : State} {s : State} {t : Fin 192} {c : Fin 4} {x : Ctx} (hs : Steady og s) : Steady og (State.setCtx s t c x) := by
  unfold State.setCtx
  repeat' first
    | with_reducible assumption
    | simp -zeta only [Steady.mk]

theorem State.modCtx_steady {og : State} {s : State} {t : Fin 192} {c : Fin 4} {f : Ctx → Ctx} (hs : Steady og s) : Steady og (State.modCtx s t c f) := by
  unfold State.modCtx
  repeat' first
    | with_reducible assumption
    | with_reducible apply State.setCtx_steady

theorem State.setTile_steady {og : State} {s : State} {t : Fin 192} {x : Tile} (hs : Steady og s) : Steady og (State.setTile s t x) := by
  unfold State.setTile
  repeat' first
    | with_reducible assumption
    | simp -zeta only [Steady.mk]

theorem State.modTile_steady {og : State} {s : State} {t : Fin 192} {f : Tile → Tile} (hs : Steady og s) : Steady og (State.modTile s t f) := by
  unfold State.modTile
  repeat' first
    | with_reducible assumption
    | with_reducible apply State.setTile_steady

theorem State.setSlot_steady {og : State} {s : State} {n : Fin 16} {x : Slot} (hs : Steady og s) : Steady og (State.setSlot s n x) := by
  unfold State.setSlot
  repeat' first
    | with_reducible assumption
    | simp -zeta only [Steady.mk]

theorem State.setQueue_steady {og : State} {s : State} {q : Fin 256} {x : StQueue} (hs : Steady og s) : Steady og (State.setQueue s q x) := by
  unfold State.setQueue
  repeat' first
    | with_reducible assumption
    | (intro z; clear_value z)
    | lift_lets -underBinder
    | simp -zeta only [Steady.mk]

theorem State.modQueue_steady {og : State} {s : State} {q : Fin 256} {f : StQueue → StQueue} (hs : Steady og s) : Steady og (State.modQueue s q f) := by
  unfold State.modQueue
  repeat' first
    | with_reducible assumption
    | with_reducible apply State.setQueue_steady

theorem State.setGrain_steady {og : State} {s : State} {g : Nat} {x : Grain} (hs : Steady og s) : Steady og (State.setGrain s g x) := by
  unfold State.setGrain
  repeat' first
    | with_reducible assumption
    | (intro z; clear_value z)
    | lift_lets -underBinder
    | simp -zeta only [Steady.mk]

theorem State.setAeCtx_steady {og : State} {s : State} {e : Fin 32} {c : Fin 4} {x : AeCtx} (hs : Steady og s) : Steady og (State.setAeCtx s e c x) := by
  unfold State.setAeCtx
  repeat' first
    | with_reducible assumption
    | simp -zeta only [Steady.mk]

theorem State.setAe_steady {og : State} {s : State} {e : Fin 32} {x : AeEngine} (hs : Steady og s) : Steady og (State.setAe s e x) := by
  unfold State.setAe
  repeat' first
    | with_reducible assumption
    | simp -zeta only [Steady.mk]

theorem State.setObj_steady {og : State} {s : State} {a : Nat} {x : SyncObj} (hs : Steady og s) : Steady og (State.setObj s a x) := by
  unfold State.setObj
  repeat' first
    | with_reducible assumption
    | (intro z; clear_value z)
    | lift_lets -underBinder
    | simp -zeta only [Steady.mk]

theorem State.setChan_steady {og : State} {s : State} {k : Nat} {x : StrChan} (hs : Steady og s) : Steady og (State.setChan s k x) := by
  unfold State.setChan
  repeat' first
    | with_reducible assumption
    | (intro z; clear_value z)
    | lift_lets -underBinder
    | simp -zeta only [Steady.mk]

theorem State.setMbx_steady {og : State} {s : State} {m : Fin 8} {x : Mailbox} (hs : Steady og s) : Steady og (State.setMbx s m x) := by
  unfold State.setMbx
  repeat' first
    | with_reducible assumption
    | (intro z; clear_value z)
    | lift_lets -underBinder
    | simp -zeta only [Steady.mk]

theorem State.setEvq_steady {og : State} {s : State} {q : Nat} {x : EvQueue} (hs : Steady og s) : Steady og (State.setEvq s q x) := by
  unfold State.setEvq
  repeat' first
    | with_reducible assumption
    | (intro z; clear_value z)
    | lift_lets -underBinder
    | simp -zeta only [Steady.mk]

theorem State.forAll_steady {o s : State} {α : Type} {l : List α} {f : State → α → State}
    (hf : ∀ s x, Steady o s → Steady o (f s x)) (h : Steady o s) : Steady o (s.forAll l f) := foldl_steady hf h

theorem State.bump_steady {o s : State} (h : Steady o s) : Steady o s.bump :=
  ⟨h.1, h.2.1, Nat.le_succ_of_le h.2.2.1, h.2.2.2⟩

theorem State.sramWrite_steady {o s : State} {t : Fin 192} {off : Nat} {l : List Byte} (h : Steady o s) :
    Steady o (s.sramWrite t off l) := h.sram (memWf_write _ _)

theorem State.devPoke_steady {o s : State} {a : Nat} {l : List Byte} (h : Steady o s) : Steady o (s.devPoke a l) :=
  h.dev (memWf_write _ _)

theorem State.hostWrite_steady {o s : State} {a : Nat} {l : List Byte} (h : Steady o s) : Steady o (s.hostWrite a l) :=
  h.hostMem (memWf_write _ _)

theorem State.setLevel_steady {og : State} {s : State} {u : Nat} {l : Fin 4} (hs : Steady og s) : Steady og (State.setLevel s u l) := by
  unfold State.setLevel
  repeat' first
    | with_reducible assumption
    | (intro z; clear_value z)
    | lift_lets -underBinder
    | simp -zeta only [Steady.mk]

theorem State.setWake_steady {og : State} {s : State} {u : Nat} {l : Fin 4} (hs : Steady og s) : Steady og (State.setWake s u l) := by
  unfold State.setWake
  repeat' first
    | with_reducible assumption
    | (intro z; clear_value z)
    | lift_lets -underBinder
    | simp -zeta only [Steady.mk]

theorem idleUnit_steady {og : State} {s : State} {u : Nat} {idle : Bool} {work : Bool} (hs : Steady og s) : Steady og (idleUnit s u idle work) := by
  unfold idleUnit
  repeat' first
    | with_reducible assumption
    | with_reducible apply State.setLevel_steady
    | with_reducible apply State.setWake_steady
    | split

theorem wakeDie_steady {og : State} {s : State} {d : Nat} (hs : Steady og s) : Steady og (wakeDie s d) := by
  unfold wakeDie
  repeat' first
    | with_reducible assumption
    | (intro z; clear_value z)
    | lift_lets -underBinder
    | simp -zeta only [Steady.mk]

theorem wakeModule_steady {og : State} {s : State} (hs : Steady og s) : Steady og (wakeModule s) := by
  unfold wakeModule
  repeat' first
    | with_reducible assumption
    | (intro z; clear_value z)
    | split
    | lift_lets -underBinder
    | simp -zeta only [Steady.mk]

theorem State.setMsix_steady {og : State} {s : State} {v : Fin 16} {x : MsixEntry} (hs : Steady og s) : Steady og (State.setMsix s v x) := by
  unfold State.setMsix
  repeat' first
    | with_reducible assumption
    | (intro z; clear_value z)
    | lift_lets -underBinder
    | simp -zeta only [Steady.mk]

theorem raiseVector_steady {og : State} {s : State} {v : Fin 16} (hs : Steady og s) : Steady og (raiseVector s v) := by
  unfold raiseVector
  repeat' first
    | with_reducible assumption
    | (intro z; clear_value z)
    | with_reducible apply State.setMsix_steady
    | split
    | lift_lets -underBinder
    | simp -zeta only [Steady.mk]

theorem raiseQueue_steady {og : State} {s : State} {i : Nat} (hs : Steady og s) : Steady og (raiseQueue s i) := by
  unfold raiseQueue
  repeat' first
    | with_reducible assumption
    | with_reducible apply State.setEvq_steady
    | with_reducible apply raiseVector_steady

theorem testQueue_steady {og : State} {s : State} {i : Nat} (hs : Steady og s) : Steady og (testQueue s i) := by
  unfold testQueue
  repeat' first
    | with_reducible assumption
    | (intro z; clear_value z)
    | with_reducible apply raiseQueue_steady
    | split
    | lift_lets -underBinder

theorem putRecord_steady {og : State} {s : State} {i : Nat} {r : Nat → Nat} (hs : Steady og s) : Steady og (putRecord s i r) := by
  unfold putRecord
  repeat' first
    | with_reducible assumption
    | (intro z; clear_value z)
    | with_reducible apply State.setEvq_steady
    | with_reducible apply State.hostWrite_steady
    | lift_lets -underBinder
    | simp -zeta only [Steady.mk]

theorem putEvent_steady {og : State} {s : State} {i : Nat} {e : Ev} (hs : Steady og s) : Steady og (putEvent s i e) := by
  unfold putEvent
  repeat' first
    | with_reducible assumption
    | intro _
    | with_reducible apply State.setEvq_steady
    | with_reducible apply State.forAll_steady
    | with_reducible apply putRecord_steady

theorem queueEvent_steady {og : State} {s : State} {i : Nat} {e : Ev} (hs : Steady og s) : Steady og (queueEvent s i e) := by
  unfold queueEvent
  repeat' first
    | with_reducible assumption
    | (intro z; refine (fun hz => ?_ : Steady og z → _) ?_; rotate_left; subst z; rotate_left; clear_value z)
    | (intro z; clear_value z)
    | with_reducible apply State.setEvq_steady
    | with_reducible apply testQueue_steady
    | with_reducible apply putEvent_steady
    | split
    | lift_lets -underBinder

theorem State.setCounter_steady {og : State} {s : State} {n : Nat} {x : Counter} (hs : Steady og s) : Steady og (State.setCounter s n x) := by
  unfold State.setCounter
  repeat' first
    | with_reducible assumption
    | simp -zeta only [Steady.mk]

theorem bumpCounter_steady {og : State} {s : State} {n : Nat} {k : Nat} (hs : Steady og s) : Steady og (bumpCounter s n k).1 := by
  unfold bumpCounter
  repeat' first
    | with_reducible assumption
    | with_reducible apply State.setCounter_steady

theorem emitTo_steady {og : State} {s : State} {i : Nat} {e : Ev} (hs : Steady og s) : Steady og (emitTo s i e) := by
  unfold emitTo
  repeat' first
    | with_reducible assumption
    | (intro z; refine (fun hz => ?_ : Steady og z.1 → _) ?_; rotate_left; subst z; rotate_left; clear_value z)
    | (intro z; clear_value z)
    | with_reducible apply queueEvent_steady
    | with_reducible apply bumpCounter_steady
    | split
    | lift_lets -underBinder

theorem emit_steady {og : State} {s : State} {e : Ev} (hs : Steady og s) : Steady og (emit s e) := by
  unfold emit
  repeat' first
    | with_reducible assumption
    | with_reducible apply emitTo_steady

theorem countN_steady {og : State} {s : State} {n : Nat} {k : Nat} (hs : Steady og s) : Steady og (countN s n k) := by
  unfold countN
  repeat' first
    | with_reducible assumption
    | (intro z; refine (fun hz => ?_ : Steady og z.1 → _) ?_; rotate_left; subst z; rotate_left; clear_value z)
    | with_reducible apply bumpCounter_steady
    | with_reducible apply emit_steady
    | split
    | lift_lets -underBinder

theorem count_steady {og : State} {s : State} {n : Nat} (hs : Steady og s) : Steady og (count s n) := by
  unfold count
  repeat' first
    | with_reducible assumption
    | with_reducible apply countN_steady

theorem hostError_steady {og : State} {s : State} {bit : Nat} {addr : Nat} (hs : Steady og s) : Steady og (hostError s bit addr) := by
  unfold hostError
  repeat' first
    | with_reducible assumption
    | (intro z; refine (fun hz => ?_ : Steady og z → _) ?_; rotate_left; subst z; rotate_left; clear_value z)
    | (intro z; clear_value z)
    | with_reducible apply emit_steady
    | with_reducible apply count_steady
    | split
    | lift_lets -underBinder
    | simp -zeta only [Steady.mk]

/-! Machine/Tiers. -/

theorem State.setPage_steady {og : State} {s : State} {p : Nat} {x : PageRec} (hs : Steady og s) : Steady og (State.setPage s p x) := by
  unfold State.setPage
  repeat' first
    | with_reducible assumption
    | (intro z; clear_value z)
    | lift_lets -underBinder
    | simp -zeta only [Steady.mk]

theorem takeNear_steady {og : State} {s : State} {f : Nat × Nat} (hs : Steady og s) : Steady og (takeNear s f) := by
  unfold takeNear
  repeat' first
    | with_reducible assumption
    | (intro z; clear_value z)
    | lift_lets -underBinder
    | simp -zeta only [Steady.mk]

theorem freeNear_steady {og : State} {s : State} {f : Nat × Nat} (hs : Steady og s) : Steady og (freeNear s f) := by
  unfold freeNear
  repeat' first
    | with_reducible assumption
    | (intro z; clear_value z)
    | lift_lets -underBinder
    | simp -zeta only [Steady.mk]

theorem State.setCxl_steady {og : State} {s : State} {p : Nat} {x : CxlPort} (hs : Steady og s) : Steady og (State.setCxl s p x) := by
  unfold State.setCxl
  repeat' first
    | with_reducible assumption
    | (intro z; clear_value z)
    | lift_lets -underBinder
    | simp -zeta only [Steady.mk]

theorem takeFar_steady {og : State} {s : State} {p : Nat} {f : Nat} (hs : Steady og s) : Steady og (takeFar s p f) := by
  unfold takeFar
  repeat' first
    | with_reducible assumption
    | (intro z; clear_value z)
    | lift_lets -underBinder
    | simp -zeta only [Steady.mk]

theorem freeFar_steady {og : State} {s : State} {p : Nat} {f : Nat} (hs : Steady og s) : Steady og (freeFar s p f) := by
  unfold freeFar
  repeat' first
    | with_reducible assumption
    | (intro z; clear_value z)
    | lift_lets -underBinder
    | simp -zeta only [Steady.mk]

theorem giveFar_steady {og : State} {s : State} {g : Nat} (hs : Steady og s) : Steady og (giveFar s g).1 := by
  unfold giveFar
  repeat' first
    | with_reducible assumption
    | (intro z; clear_value z)
    | with_reducible apply State.setGrain_steady
    | with_reducible apply takeFar_steady
    | split
    | lift_lets -underBinder

theorem giveMirror_steady {og : State} {s : State} {g : Nat} (hs : Steady og s) : Steady og (giveMirror s g).1 := by
  unfold giveMirror
  repeat' first
    | with_reducible assumption
    | (intro z; clear_value z)
    | with_reducible apply State.setGrain_steady
    | with_reducible apply takeFar_steady
    | split
    | lift_lets -underBinder

theorem giveFarAll_steady {og : State} {s : State} {g : Nat} (hs : Steady og s) : Steady og (giveFarAll s g).1 := by
  unfold giveFarAll
  repeat' first
    | with_reducible assumption
    | (intro z; refine (fun hz => ?_ : Steady og z.1 → _) ?_; rotate_left; subst z; rotate_left; clear_value z)
    | (intro z; clear_value z)
    | with_reducible apply State.setGrain_steady
    | with_reducible apply giveFar_steady
    | with_reducible apply giveMirror_steady
    | split
    | lift_lets -underBinder

theorem dropTun_steady {og : State} {s : State} {p : TunLine → Bool} (hs : Steady og s) : Steady og (dropTun s p) := by
  unfold dropTun
  repeat' first
    | with_reducible assumption
    | (intro z; clear_value z)
    | lift_lets -underBinder
    | simp -zeta only [Steady.mk]

theorem dropTunRange_steady {og : State} {s : State} {a : Nat} {n : Nat} (hs : Steady og s) : Steady og (dropTunRange s a n) := by
  unfold dropTunRange
  repeat' first
    | with_reducible assumption
    | with_reducible apply dropTun_steady

theorem dropTunGrain_steady {og : State} {s : State} {g : Nat} (hs : Steady og s) : Steady og (dropTunGrain s g) := by
  unfold dropTunGrain
  repeat' first
    | with_reducible assumption
    | with_reducible apply dropTunRange_steady

theorem startBacking_steady {og : State} {s : State} {g : Nat} {d : Nat} {die : Fin 5} (hs : Steady og s) : Steady og (startBacking s g d die) := by
  unfold startBacking
  repeat' first
    | with_reducible assumption
    | (intro z; clear_value z)
    | with_reducible apply State.setGrain_steady
    | with_reducible apply count_steady
    | split
    | lift_lets -underBinder

theorem unpend_steady {og : State} {s : State} {g : Nat} (hs : Steady og s) : Steady og (unpend s g) := by
  unfold unpend
  repeat' first
    | with_reducible assumption
    | (intro z; clear_value z)
    | lift_lets -underBinder
    | simp -zeta only [Steady.mk]

theorem freeNearOf_steady {og : State} {s : State} {x : Grain} (hs : Steady og s) : Steady og (freeNearOf s x) := by
  unfold freeNearOf
  repeat' first
    | with_reducible assumption
    | with_reducible apply freeNear_steady
    | split

theorem freeFarOf_steady {og : State} {s : State} {x : Grain} (hs : Steady og s) : Steady og (freeFarOf s x) := by
  unfold freeFarOf
  repeat' first
    | with_reducible assumption
    | with_reducible apply freeFar_steady
    | split

theorem releaseNow_steady {og : State} {s : State} {g : Nat} (hs : Steady og s) : Steady og (releaseNow s g) := by
  unfold releaseNow
  repeat' first
    | with_reducible assumption
    | (intro z; refine (fun hz => ?_ : Steady og z → _) ?_; rotate_left; subst z; rotate_left; clear_value z)
    | (intro z; clear_value z)
    | with_reducible apply dropTunGrain_steady
    | with_reducible apply unpend_steady
    | with_reducible apply freeNearOf_steady
    | with_reducible apply freeFarOf_steady
    | lift_lets -underBinder
    | simp -zeta only [Steady.mk]
    | with_reducible refine Steady.dev ?_ (memWf_zero _ _)

theorem releaseGrain_steady {og : State} {s : State} {g : Nat} (hs : Steady og s) : Steady og (releaseGrain s g) := by
  unfold releaseGrain
  repeat' first
    | with_reducible assumption
    | (intro z; clear_value z)
    | with_reducible apply State.setGrain_steady
    | with_reducible apply releaseNow_steady
    | split
    | lift_lets -underBinder

theorem afterCopy_steady {og : State} {s : State} {g : Nat} (hs : Steady og s) : Steady og (afterCopy s g) := by
  unfold afterCopy
  repeat' first
    | with_reducible assumption
    | with_reducible apply releaseNow_steady
    | split

theorem pushPend_steady {og : State} {s : State} {p : Pend} (hs : Steady og s) : Steady og (pushPend s p) := by
  unfold pushPend
  repeat' first
    | with_reducible assumption
    | (intro z; clear_value z)
    | intro _
    | with_reducible apply foldl_steady
    | with_reducible apply foldl_fst_steady
    | split
    | lift_lets -underBinder
    | simp -zeta only [Steady.mk]
    | with_reducible refine Steady.fst ?_ ‹_ = (_, _)›
    | with_reducible refine OptSteadyP.of ?_ ‹_ = some (_, _)›

theorem markPend_steady {og : State} {s : State} {p : Pend} (hs : Steady og s) : Steady og (markPend s p) := by
  unfold markPend
  repeat' first
    | with_reducible assumption
    | (intro z; clear_value z)
    | intro _
    | with_reducible apply State.setGrain_steady
    | with_reducible apply pushPend_steady
    | with_reducible apply foldl_steady
    | with_reducible apply foldl_fst_steady
    | split
    | lift_lets -underBinder
    | simp -zeta only [Steady.mk]
    | with_reducible refine Steady.fst ?_ ‹_ = (_, _)›
    | with_reducible refine OptSteadyP.of ?_ ‹_ = some (_, _)›

theorem markPending_steady {og : State} {s : State} {g : Nat} {cls : Fin 4} (hs : Steady og s) : Steady og (markPending s g cls) := by
  unfold markPending
  repeat' first
    | with_reducible assumption
    | (intro z; clear_value z)
    | intro _
    | with_reducible apply markPend_steady
    | with_reducible apply foldl_steady
    | with_reducible apply foldl_fst_steady
    | split
    | lift_lets -underBinder
    | simp -zeta only [Steady.mk]
    | with_reducible refine Steady.fst ?_ ‹_ = (_, _)›
    | with_reducible refine OptSteadyP.of ?_ ‹_ = some (_, _)›

theorem cancelEviction_steady {og : State} {s : State} {g : Nat} (hs : Steady og s) : Steady og (cancelEviction s g) := by
  unfold cancelEviction
  repeat' first
    | with_reducible assumption
    | (intro z; refine (fun hz => ?_ : Steady og z → _) ?_; rotate_left; subst z; rotate_left; clear_value z)
    | (intro z; clear_value z)
    | with_reducible apply State.setGrain_steady
    | with_reducible apply count_steady
    | with_reducible apply afterCopy_steady
    | split
    | lift_lets -underBinder

theorem requestPend_steady {og : State} {s : State} {p : Pend} {d : Nat} {die : Fin 5} (hs : Steady og s) : Steady og (requestPend s p d die) := by
  unfold requestPend
  repeat' first
    | with_reducible assumption
    | (intro z; clear_value z)
    | intro _
    | with_reducible apply State.setGrain_steady
    | with_reducible apply startBacking_steady
    | with_reducible apply markPend_steady
    | with_reducible apply cancelEviction_steady
    | with_reducible apply foldl_steady
    | with_reducible apply foldl_fst_steady
    | split
    | lift_lets -underBinder
    | simp -zeta only [Steady.mk]
    | with_reducible refine Steady.fst ?_ ‹_ = (_, _)›
    | with_reducible refine OptSteadyP.of ?_ ‹_ = some (_, _)›

theorem requestPromotion_steady {og : State} {s : State} {g : Nat} {d : Nat} {cls : Fin 4} {die : Fin 5} (hs : Steady og s) : Steady og (requestPromotion s g d cls die) := by
  unfold requestPromotion
  repeat' first
    | with_reducible assumption
    | (intro z; clear_value z)
    | intro _
    | with_reducible apply requestPend_steady
    | with_reducible apply foldl_steady
    | with_reducible apply foldl_fst_steady
    | split
    | lift_lets -underBinder
    | simp -zeta only [Steady.mk]
    | with_reducible refine Steady.fst ?_ ‹_ = (_, _)›
    | with_reducible refine OptSteadyP.of ?_ ‹_ = some (_, _)›

theorem observe_steady {og : State} {s : State} {g : Nat} {die : Fin 5} (hs : Steady og s) : Steady og (observe s g die) := by
  unfold observe
  repeat' first
    | with_reducible assumption
    | (intro z; refine (fun hz => ?_ : Steady og z → _) ?_; rotate_left; subst z; rotate_left; clear_value z)
    | (intro z; clear_value z)
    | intro _
    | with_reducible apply State.setGrain_steady
    | with_reducible apply wakeDie_steady
    | with_reducible apply markPending_steady
    | split
    | lift_lets -underBinder
    | with_reducible apply foldl_steady
    | simp -zeta only [Steady.mk]

theorem meetGrain_steady {og : State} {s : State} {g : Nat} {d : Nat} {write : Bool} {kv : Bool} {die : Fin 5} (hs : Steady og s) : Steady og (meetGrain s g d write kv die).1 := by
  unfold meetGrain
  repeat' first
    | with_reducible assumption
    | (intro z; clear_value z)
    | with_reducible apply startBacking_steady
    | with_reducible apply observe_steady
    | split
    | lift_lets -underBinder

theorem grainWritten_steady {og : State} {s : State} {g : Nat} (hs : Steady og s) : Steady og (grainWritten s g) := by
  unfold grainWritten
  repeat' first
    | with_reducible assumption
    | (intro z; clear_value z)
    | with_reducible apply State.setGrain_steady
    | with_reducible apply cancelEviction_steady
    | split
    | lift_lets -underBinder

theorem devStore_steady {og : State} {s : State} {a : Nat} {l : List Byte} (hs : Steady og s) : Steady og (devStore s a l) := by
  unfold devStore
  repeat' first
    | with_reducible assumption
    | with_reducible apply State.devPoke_steady
    | with_reducible apply dropTunRange_steady
    | with_reducible apply grainWritten_steady

theorem storeAcross_steady {og : State} {s : State} {a : Nat} {l : List Byte} (hs : Steady og s) : Steady og (storeAcross s a l) := by
  unfold storeAcross
  repeat' first
    | with_reducible assumption
    | (intro z; clear_value z)
    | intro _
    | with_reducible apply devStore_steady
    | with_reducible apply foldl_steady
    | with_reducible apply foldl_fst_steady
    | split
    | lift_lets -underBinder
    | simp -zeta only [Steady.mk]
    | with_reducible refine Steady.fst ?_ ‹_ = (_, _)›
    | with_reducible refine OptSteadyP.of ?_ ‹_ = some (_, _)›

theorem holdHub_steady {og : State} {s : State} {w : HubWrite} (hs : Steady og s) : Steady og (holdHub s w) := by
  unfold holdHub
  repeat' first
    | with_reducible assumption
    | (intro z; clear_value z)
    | intro _
    | with_reducible apply foldl_steady
    | with_reducible apply foldl_fst_steady
    | split
    | lift_lets -underBinder
    | simp -zeta only [Steady.mk]
    | with_reducible refine Steady.fst ?_ ‹_ = (_, _)›
    | with_reducible refine OptSteadyP.of ?_ ‹_ = some (_, _)›

theorem hubPart_steady {og : State} {s : State} {a : Nat} {l : List Byte} (hs : Steady og s) : Steady og (hubPart s a l) := by
  unfold hubPart
  repeat' first
    | with_reducible assumption
    | (intro z; clear_value z)
    | intro _
    | with_reducible apply startBacking_steady
    | with_reducible apply devStore_steady
    | with_reducible apply holdHub_steady
    | with_reducible apply foldl_steady
    | with_reducible apply foldl_fst_steady
    | split
    | lift_lets -underBinder
    | simp -zeta only [Steady.mk]
    | with_reducible refine Steady.fst ?_ ‹_ = (_, _)›
    | with_reducible refine OptSteadyP.of ?_ ‹_ = some (_, _)›

theorem hubStore_steady {og : State} {s : State} {a : Nat} {l : List Byte} (hs : Steady og s) : Steady og (hubStore s a l) := by
  unfold hubStore
  repeat' first
    | with_reducible assumption
    | (intro z; clear_value z)
    | intro _
    | with_reducible apply hubPart_steady
    | with_reducible apply foldl_steady
    | with_reducible apply foldl_fst_steady
    | split
    | lift_lets -underBinder
    | simp -zeta only [Steady.mk]
    | with_reducible refine Steady.fst ?_ ‹_ = (_, _)›
    | with_reducible refine OptSteadyP.of ?_ ‹_ = some (_, _)›

theorem memExhausted_steady {og : State} {s : State} (hs : Steady og s) : Steady og (memExhausted s) := by
  unfold memExhausted
  repeat' first
    | with_reducible assumption
    | (intro z; clear_value z)
    | with_reducible apply emit_steady
    | split
    | lift_lets -underBinder
    | simp -zeta only [Steady.mk]

theorem evictOne_steady {og : State} {s : State} {g : Nat} (hs : Steady og s) : Steady og (evictOne s g) := by
  unfold evictOne
  repeat' first
    | with_reducible assumption
    | (intro z; refine (fun hz => ?_ : Steady og z → _) ?_; rotate_left; subst z; rotate_left; clear_value z)
    | (intro z; refine (fun hz => ?_ : Steady og z.1 → _) ?_; rotate_left; subst z; rotate_left; clear_value z)
    | (intro z; clear_value z)
    | with_reducible apply State.setGrain_steady
    | with_reducible apply count_steady
    | with_reducible apply freeNear_steady
    | with_reducible apply giveMirror_steady
    | with_reducible apply giveFarAll_steady
    | split
    | lift_lets -underBinder

theorem evictGroup_steady {og : State} {s : State} {l : List Nat} (hs : Steady og s) : Steady og (evictGroup s l) := by
  unfold evictGroup
  repeat' first
    | with_reducible assumption
    | (intro z; clear_value z)
    | intro _
    | with_reducible apply countN_steady
    | with_reducible apply evictOne_steady
    | with_reducible apply foldl_steady
    | with_reducible apply foldl_fst_steady
    | split
    | lift_lets -underBinder
    | simp -zeta only [Steady.mk]
    | with_reducible refine Steady.fst ?_ ‹_ = (_, _)›
    | with_reducible refine OptSteadyP.of ?_ ‹_ = some (_, _)›

theorem evictAll_steady {og : State} {l : List Victim} : ∀ {s}, Steady og s → Steady og (evictAll l s) := by
  induction l with
  | nil => intro s h; exact h
  | cons v t ih =>
  intro s h
  unfold evictAll
  repeat' first
    | with_reducible assumption
    | intro _
    | with_reducible apply evictGroup_steady
    | with_reducible apply ih
    | split
    | lift_lets -underBinder
    | with_reducible apply foldl_steady

theorem lateRequest_steady {og : State} {chosen : List Nat} {s : State} {g : Nat} (hs : Steady og s) : Steady og (lateRequest chosen s g) := by
  unfold lateRequest
  repeat' first
    | with_reducible assumption
    | (intro z; clear_value z)
    | intro _
    | with_reducible apply State.setGrain_steady
    | with_reducible apply pushPend_steady
    | with_reducible apply foldl_steady
    | with_reducible apply foldl_fst_steady
    | split
    | lift_lets -underBinder
    | simp -zeta only [Steady.mk]
    | with_reducible refine Steady.fst ?_ ‹_ = (_, _)›
    | with_reducible refine OptSteadyP.of ?_ ‹_ = some (_, _)›

/-! Machine/Bar2. -/

theorem answerHost_steady {og : State} {s : State} {c : Completion} (hs : Steady og s) : Steady og (answerHost s c) := by
  unfold answerHost
  repeat' first
    | with_reducible assumption
    | (intro z; clear_value z)
    | lift_lets -underBinder
    | simp -zeta only [Steady.mk]

theorem bar2End_steady {og : State} {s : State} {x : Bar2Access} {m : Bar2Meet} (hs : Steady og s) : Steady og (bar2End s x m) := by
  unfold bar2End
  repeat' first
    | with_reducible assumption
    | (intro z; clear_value z)
    | intro _
    | with_reducible apply hostError_steady
    | with_reducible apply observe_steady
    | with_reducible apply storeAcross_steady
    | with_reducible apply answerHost_steady
    | with_reducible apply foldl_steady
    | with_reducible apply foldl_fst_steady
    | split
    | lift_lets -underBinder
    | simp -zeta only [Steady.mk]
    | with_reducible refine Steady.fst ?_ ‹_ = (_, _)›
    | with_reducible refine OptSteadyP.of ?_ ‹_ = some (_, _)›

/-! Machine/Maltster. -/

theorem backingCompleted_steady {og : State} {g : GrainNo} {s : State} (hs : Steady og s) : Steady og (backingCompleted g s) := by
  unfold backingCompleted
  repeat' first
    | with_reducible assumption
    | (intro z; refine (fun hz => ?_ : Steady og z.1 → _) ?_; rotate_left; subst z; rotate_left; clear_value z)
    | (intro z; clear_value z)
    | with_reducible apply State.setGrain_steady
    | with_reducible apply takeNear_steady
    | with_reducible apply giveFar_steady
    | with_reducible apply memExhausted_steady
    | split
    | lift_lets -underBinder

theorem dropMet_steady {og : State} {s : State} (hs : Steady og s) : Steady og (dropMet s) := by
  unfold dropMet
  repeat' first
    | with_reducible assumption
    | (intro z; refine (fun hz => ?_ : Steady og z → _) ?_; rotate_left; subst z; rotate_left; clear_value z)
    | (intro z; refine (fun hz => ?_ : Steady og z.1 → _) ?_; rotate_left; subst z; rotate_left; clear_value z)
    | (intro z; clear_value z)
    | intro _
    | with_reducible apply State.setGrain_steady
    | with_reducible apply foldl_steady
    | with_reducible apply foldl_fst_steady
    | split
    | lift_lets -underBinder
    | simp -zeta only [Steady.mk]
    | with_reducible refine Steady.fst ?_ ‹_ = (_, _)›
    | with_reducible refine OptSteadyP.of ?_ ‹_ = some (_, _)›

theorem promoteOne_steady {og : State} {s : State} {g : Nat} (hs : Steady og s) : Steady og (promoteOne s g) := by
  unfold promoteOne
  repeat' first
    | with_reducible assumption
    | with_reducible apply State.setGrain_steady
    | with_reducible apply count_steady
    | with_reducible apply takeNear_steady
    | with_reducible apply unpend_steady
    | split

theorem execPromotionStart_steady {og : State} {s : State} (hs : Steady og s) : OutSteady og (execPromotionStart s) := by
  unfold execPromotionStart
  repeat' first
    | with_reducible assumption
    | (intro z; refine (fun hz => ?_ : Steady og z → _) ?_; rotate_left; subst z; rotate_left; clear_value z)
    | (intro z; refine (fun hz => ?_ : Steady og z.1 → _) ?_; rotate_left; subst z; rotate_left; clear_value z)
    | (intro z; clear_value z)
    | intro _
    | with_reducible apply OutSteady.next
    | with_reducible apply dropMet_steady
    | with_reducible apply promoteOne_steady
    | with_reducible apply foldl_steady
    | with_reducible apply foldl_fst_steady
    | split
    | lift_lets -underBinder
    | simp -zeta only [Steady.mk]
    | with_reducible refine Steady.fst ?_ ‹_ = (_, _)›
    | with_reducible refine OptSteadyP.of ?_ ‹_ = some (_, _)›

theorem promotionCompleted_steady {og : State} {g : GrainNo} {s : State} (hs : Steady og s) : Steady og (promotionCompleted g s) := by
  unfold promotionCompleted
  repeat' first
    | with_reducible assumption
    | (intro z; clear_value z)
    | with_reducible apply State.setGrain_steady
    | with_reducible apply afterCopy_steady
    | split
    | lift_lets -underBinder

theorem execEvictionScan_steady {og : State} {late : List GrainNo} {s : State} (hs : Steady og s) : OutSteady og (execEvictionScan late s) := by
  unfold execEvictionScan
  repeat' first
    | with_reducible assumption
    | (intro z; refine (fun hz => ?_ : Steady og z → _) ?_; rotate_left; subst z; rotate_left; clear_value z)
    | (intro z; refine (fun hz => ?_ : Steady og z.1 → _) ?_; rotate_left; subst z; rotate_left; clear_value z)
    | (intro z; clear_value z)
    | intro _
    | with_reducible apply OutSteady.next
    | with_reducible apply evictAll_steady
    | with_reducible apply lateRequest_steady
    | with_reducible apply foldl_steady
    | with_reducible apply foldl_fst_steady
    | split
    | lift_lets -underBinder
    | simp -zeta only [Steady.mk]
    | with_reducible refine Steady.fst ?_ ‹_ = (_, _)›
    | with_reducible refine OptSteadyP.of ?_ ‹_ = some (_, _)›

theorem execEvictionComplete_steady {og : State} {g : GrainNo} {s : State} (hs : Steady og s) : OutSteady og (execEvictionComplete g s) := by
  unfold execEvictionComplete
  repeat' first
    | with_reducible assumption
    | (intro z; refine (fun hz => ?_ : Steady og z → _) ?_; rotate_left; subst z; rotate_left; clear_value z)
    | (intro z; refine (fun hz => ?_ : Steady og z.1 → _) ?_; rotate_left; subst z; rotate_left; clear_value z)
    | (intro z; clear_value z)
    | intro _
    | with_reducible apply OutSteady.next
    | with_reducible apply State.setGrain_steady
    | with_reducible apply count_steady
    | with_reducible apply freeNear_steady
    | with_reducible apply giveFarAll_steady
    | with_reducible apply afterCopy_steady
    | with_reducible apply foldl_steady
    | with_reducible apply foldl_fst_steady
    | split
    | lift_lets -underBinder
    | simp -zeta only [Steady.mk]
    | with_reducible refine Steady.fst ?_ ‹_ = (_, _)›
    | with_reducible refine OptSteadyP.of ?_ ‹_ = some (_, _)›

theorem moveGrain_steady {og : State} {s : State} {g : Nat} {k0 : Nat} (hs : Steady og s) : Steady og (moveGrain s g k0).1 := by
  unfold moveGrain
  repeat' first
    | with_reducible assumption
    | with_reducible apply State.setGrain_steady
    | with_reducible apply count_steady
    | with_reducible apply takeNear_steady
    | split

theorem windowGrain_steady {og : State} {p : State × (Nat → Nat)} {g : Nat} (hp : Steady og p.1) : Steady og (windowGrain p g).1 := by
  unfold windowGrain
  repeat' first
    | with_reducible assumption
    | (intro z; refine (fun hz => ?_ : Steady og z → _) ?_; rotate_left; subst z; rotate_left; clear_value z)
    | (intro z; refine (fun hz => ?_ : Steady og z.1 → _) ?_; rotate_left; subst z; rotate_left; clear_value z)
    | (intro z; clear_value z)
    | intro _
    | with_reducible apply moveGrain_steady
    | split
    | lift_lets -underBinder
    | simp -zeta only [Steady.mk]

theorem execMoveWindow_steady {og : State} {s : State} (hs : Steady og s) : OutSteady og (execMoveWindow s) := by
  unfold execMoveWindow
  repeat' first
    | with_reducible assumption
    | (intro z; clear_value z)
    | intro _
    | with_reducible apply OutSteady.next
    | with_reducible apply windowGrain_steady
    | lift_lets -underBinder
    | with_reducible apply foldl_fst_steady
    | simp -zeta only [Steady.mk]

theorem moveCompleted_steady {og : State} {g : GrainNo} {s : State} (hs : Steady og s) : Steady og (moveCompleted g s) := by
  unfold moveCompleted
  repeat' first
    | with_reducible assumption
    | (intro z; clear_value z)
    | with_reducible apply State.setGrain_steady
    | with_reducible apply count_steady
    | with_reducible apply freeNear_steady
    | with_reducible apply afterCopy_steady
    | split
    | lift_lets -underBinder

theorem poisonGrain_steady {og : State} {s : State} {g : Nat} (hs : Steady og s) : Steady og (poisonGrain s g) := by
  unfold poisonGrain
  repeat' first
    | with_reducible assumption
    | with_reducible apply State.setGrain_steady
    | with_reducible apply emit_steady
    | with_reducible apply freeNear_steady
    | with_reducible apply dropTunGrain_steady
    | with_reducible apply unpend_steady
    | split

theorem startRebuild_steady {og : State} {s : State} {g : Nat} {means : Fin 8} {near : Bool} (hs : Steady og s) : Steady og (startRebuild s g means near) := by
  unfold startRebuild
  repeat' first
    | with_reducible assumption
    | (intro z; refine (fun hz => ?_ : Steady og z → _) ?_; rotate_left; subst z; rotate_left; clear_value z)
    | (intro z; refine (fun hz => ?_ : Steady og z.1 → _) ?_; rotate_left; subst z; rotate_left; clear_value z)
    | (intro z; clear_value z)
    | intro _
    | with_reducible apply State.setGrain_steady
    | with_reducible apply count_steady
    | with_reducible apply takeNear_steady
    | with_reducible apply dropTunGrain_steady
    | with_reducible apply unpend_steady
    | with_reducible apply releaseNow_steady
    | with_reducible apply poisonGrain_steady
    | with_reducible apply foldl_steady
    | with_reducible apply foldl_fst_steady
    | split
    | lift_lets -underBinder
    | simp -zeta only [Steady.mk]
    | with_reducible refine Steady.fst ?_ ‹_ = (_, _)›
    | with_reducible refine OptSteadyP.of ?_ ‹_ = some (_, _)›

theorem dropTarget_steady {og : State} {s : State} {g : Nat} (hs : Steady og s) : Steady og (dropTarget s g) := by
  unfold dropTarget
  repeat' first
    | with_reducible assumption
    | (intro z; clear_value z)
    | with_reducible apply State.setGrain_steady
    | with_reducible apply freeNear_steady
    | split
    | lift_lets -underBinder

theorem nearFails_steady {og : State} {s : State} {g : Nat} (hs : Steady og s) : Steady og (nearFails s g) := by
  unfold nearFails
  repeat' first
    | with_reducible assumption
    | (intro z; refine (fun hz => ?_ : Steady og z → _) ?_; rotate_left; subst z; rotate_left; clear_value z)
    | (intro z; clear_value z)
    | with_reducible apply count_steady
    | with_reducible apply startRebuild_steady
    | with_reducible apply dropTarget_steady
    | split
    | lift_lets -underBinder

theorem farFailsNear_steady {og : State} {s : State} {g : Nat} {primary : Bool} (hs : Steady og s) : Steady og (farFailsNear s g primary) := by
  unfold farFailsNear
  repeat' first
    | with_reducible assumption
    | (intro z; refine (fun hz => ?_ : Steady og z → _) ?_; rotate_left; subst z; rotate_left; clear_value z)
    | (intro z; refine (fun hz => ?_ : Steady og z.1 → _) ?_; rotate_left; subst z; rotate_left; clear_value z)
    | (intro z; clear_value z)
    | intro _
    | with_reducible apply State.setGrain_steady
    | with_reducible apply giveMirror_steady
    | with_reducible apply giveFarAll_steady
    | with_reducible apply foldl_steady
    | with_reducible apply foldl_fst_steady
    | split
    | lift_lets -underBinder
    | simp -zeta only [Steady.mk]
    | with_reducible refine Steady.fst ?_ ‹_ = (_, _)›
    | with_reducible refine OptSteadyP.of ?_ ‹_ = some (_, _)›

theorem farFails_steady {og : State} {s : State} {g : Nat} {primary : Bool} (hs : Steady og s) : Steady og (farFails s g primary) := by
  unfold farFails
  repeat' first
    | with_reducible assumption
    | (intro z; refine (fun hz => ?_ : Steady og z → _) ?_; rotate_left; subst z; rotate_left; clear_value z)
    | (intro z; refine (fun hz => ?_ : Steady og z.1 → _) ?_; rotate_left; subst z; rotate_left; clear_value z)
    | (intro z; clear_value z)
    | intro _
    | with_reducible apply State.setGrain_steady
    | with_reducible apply count_steady
    | with_reducible apply startRebuild_steady
    | with_reducible apply dropTarget_steady
    | with_reducible apply farFailsNear_steady
    | with_reducible apply foldl_steady
    | with_reducible apply foldl_fst_steady
    | split
    | lift_lets -underBinder
    | simp -zeta only [Steady.mk]
    | with_reducible refine Steady.fst ?_ ‹_ = (_, _)›
    | with_reducible refine OptSteadyP.of ?_ ‹_ = some (_, _)›

theorem copyFails_steady {og : State} {s : State} {g : Nat} {copy : Fin 3} (hs : Steady og s) : Steady og (copyFails s g copy) := by
  unfold copyFails
  repeat' first
    | with_reducible assumption
    | with_reducible apply nearFails_steady
    | with_reducible apply farFails_steady
    | split

theorem reportCorrections_steady {og : State} {s : State} {stack : Nat} {k : Nat} {channel : Nat} {symbol : Nat} (hs : Steady og s) : Steady og (reportCorrections s stack k channel symbol) := by
  unfold reportCorrections
  repeat' first
    | with_reducible assumption
    | (intro z; refine (fun hz => ?_ : Steady og z → _) ?_; rotate_left; subst z; rotate_left; clear_value z)
    | (intro z; refine (fun hz => ?_ : Steady og z.1 → _) ?_; rotate_left; subst z; rotate_left; clear_value z)
    | (intro z; clear_value z)
    | intro _
    | with_reducible apply emit_steady
    | with_reducible apply countN_steady
    | with_reducible apply foldl_steady
    | with_reducible apply foldl_fst_steady
    | split
    | lift_lets -underBinder
    | simp -zeta only [Steady.mk]
    | with_reducible refine Steady.fst ?_ ‹_ = (_, _)›
    | with_reducible refine OptSteadyP.of ?_ ‹_ = some (_, _)›

theorem uncorrectable_steady {og : State} {g : GrainNo} {e : CopyError} {s : State} (hs : Steady og s) : Steady og (uncorrectable g e s) := by
  unfold uncorrectable
  repeat' first
    | with_reducible assumption
    | (intro z; refine (fun hz => ?_ : Steady og z → _) ?_; rotate_left; subst z; rotate_left; clear_value z)
    | (intro z; refine (fun hz => ?_ : Steady og z.1 → _) ?_; rotate_left; subst z; rotate_left; clear_value z)
    | (intro z; clear_value z)
    | intro _
    | with_reducible apply State.devPoke_steady
    | with_reducible apply emit_steady
    | with_reducible apply count_steady
    | with_reducible apply copyFails_steady
    | with_reducible apply reportCorrections_steady
    | with_reducible apply foldl_steady
    | with_reducible apply foldl_fst_steady
    | split
    | lift_lets -underBinder
    | simp -zeta only [Steady.mk]
    | with_reducible refine Steady.fst ?_ ‹_ = (_, _)›
    | with_reducible refine OptSteadyP.of ?_ ‹_ = some (_, _)›

theorem rebuild_steady {og : State} {s : State} {g : Nat} {x : Grain} {l : List Byte} {ns : Nat} (hs : Steady og s) : Steady og (rebuild s g x l ns) := by
  unfold rebuild
  repeat' first
    | with_reducible assumption
    | (intro z; refine (fun hz => ?_ : Steady og z → _) ?_; rotate_left; subst z; rotate_left; clear_value z)
    | (intro z; refine (fun hz => ?_ : Steady og z.1 → _) ?_; rotate_left; subst z; rotate_left; clear_value z)
    | (intro z; clear_value z)
    | with_reducible apply State.setGrain_steady
    | with_reducible apply emit_steady
    | with_reducible apply takeNear_steady
    | with_reducible apply giveFarAll_steady
    | with_reducible apply afterCopy_steady
    | split
    | lift_lets -underBinder
    | with_reducible refine Steady.dev ?_ (fun h => memWf_write _ _ (memWf_zero _ _ h))

theorem recopied_steady {og : State} {s : State} {g : Nat} {x : Grain} {r : RestoreResult} (hs : Steady og s) : Steady og (recopied s g x r) := by
  unfold recopied
  repeat' first
    | with_reducible assumption
    | (intro z; clear_value z)
    | intro _
    | with_reducible apply State.setGrain_steady
    | with_reducible apply emit_steady
    | with_reducible apply foldl_steady
    | with_reducible apply foldl_fst_steady
    | split
    | lift_lets -underBinder
    | simp -zeta only [Steady.mk]
    | with_reducible refine Steady.fst ?_ ‹_ = (_, _)›
    | with_reducible refine OptSteadyP.of ?_ ‹_ = some (_, _)›

theorem restoreCompleted_steady {og : State} {g : GrainNo} {r : RestoreResult} {s : State} (hs : Steady og s) : Steady og (restoreCompleted g r s) := by
  unfold restoreCompleted
  repeat' first
    | with_reducible assumption
    | (intro z; clear_value z)
    | intro _
    | with_reducible apply afterCopy_steady
    | with_reducible apply poisonGrain_steady
    | with_reducible apply rebuild_steady
    | with_reducible apply recopied_steady
    | with_reducible apply foldl_steady
    | with_reducible apply foldl_fst_steady
    | split
    | lift_lets -underBinder
    | simp -zeta only [Steady.mk]
    | with_reducible refine Steady.fst ?_ ‹_ = (_, _)›
    | with_reducible refine OptSteadyP.of ?_ ‹_ = some (_, _)›

theorem restoreTimedOut_steady {og : State} {g : GrainNo} {s : State} (hs : Steady og s) : Steady og (restoreTimedOut g s) := by
  unfold restoreTimedOut
  repeat' first
    | with_reducible assumption
    | (intro z; clear_value z)
    | with_reducible apply afterCopy_steady
    | with_reducible apply poisonGrain_steady
    | split
    | lift_lets -underBinder

theorem channelFails_steady {og : State} {stack : Fin 24} {channel : Fin 4} {g : BitVec 28} {write : Option (Fin 1024 × List Byte)} {failures : Fin 6} {s : State} (hs : Steady og s) : Steady og (channelFails stack channel g write failures s) := by
  unfold channelFails
  repeat' first
    | with_reducible assumption
    | (intro z; refine (fun hz => ?_ : Steady og z → _) ?_; rotate_left; subst z; rotate_left; clear_value z)
    | (intro z; refine (fun hz => ?_ : Steady og z.1 → _) ?_; rotate_left; subst z; rotate_left; clear_value z)
    | (intro z; clear_value z)
    | intro _
    | with_reducible apply emit_steady
    | with_reducible apply countN_steady
    | with_reducible apply count_steady
    | with_reducible apply holdHub_steady
    | with_reducible apply copyFails_steady
    | with_reducible apply foldl_steady
    | with_reducible apply foldl_fst_steady
    | split
    | lift_lets -underBinder
    | simp -zeta only [Steady.mk]
    | with_reducible refine Steady.fst ?_ ‹_ = (_, _)›
    | with_reducible refine OptSteadyP.of ?_ ‹_ = some (_, _)›

theorem stackFails_steady {og : State} {stack : Fin 24} {s : State} (hs : Steady og s) : Steady og (stackFails stack s) := by
  unfold stackFails
  repeat' first
    | with_reducible assumption
    | (intro z; refine (fun hz => ?_ : Steady og z → _) ?_; rotate_left; subst z; rotate_left; clear_value z)
    | (intro z; clear_value z)
    | intro _
    | with_reducible apply State.bump_steady
    | with_reducible apply emit_steady
    | with_reducible apply nearFails_steady
    | split
    | lift_lets -underBinder
    | with_reducible apply foldl_steady
    | simp -zeta only [Steady.mk]

theorem portLost_steady {og : State} {s : State} {p : Fin 2} {g : Nat} (hs : Steady og s) : Steady og (portLost s p g) := by
  unfold portLost
  repeat' first
    | with_reducible assumption
    | (intro z; refine (fun hz => ?_ : Steady og z → _) ?_; rotate_left; subst z; rotate_left; clear_value z)
    | (intro z; refine (fun hz => ?_ : Steady og z.1 → _) ?_; rotate_left; subst z; rotate_left; clear_value z)
    | (intro z; clear_value z)
    | intro _
    | with_reducible apply State.setGrain_steady
    | with_reducible apply giveFarAll_steady
    | with_reducible apply afterCopy_steady
    | with_reducible apply poisonGrain_steady
    | with_reducible apply startRebuild_steady
    | with_reducible apply dropTarget_steady
    | with_reducible apply foldl_steady
    | with_reducible apply foldl_fst_steady
    | split
    | lift_lets -underBinder
    | simp -zeta only [Steady.mk]
    | with_reducible refine Steady.fst ?_ ‹_ = (_, _)›
    | with_reducible refine OptSteadyP.of ?_ ‹_ = some (_, _)›

theorem portOut_steady {og : State} {s : State} {p : Fin 2} {cause : Nat} (hs : Steady og s) : Steady og (portOut s p cause) := by
  unfold portOut
  repeat' first
    | with_reducible assumption
    | (intro z; clear_value z)
    | intro _
    | with_reducible apply State.bump_steady
    | with_reducible apply emit_steady
    | with_reducible apply State.setCxl_steady
    | with_reducible apply portLost_steady
    | with_reducible apply foldl_steady
    | with_reducible apply foldl_fst_steady
    | split
    | lift_lets -underBinder
    | simp -zeta only [Steady.mk]
    | with_reducible refine Steady.fst ?_ ‹_ = (_, _)›
    | with_reducible refine OptSteadyP.of ?_ ‹_ = some (_, _)›

theorem cxlTimesOut_steady {og : State} {port : Fin 2} {g : BitVec 28} {s : State} (hs : Steady og s) : Steady og (cxlTimesOut port g s) := by
  unfold cxlTimesOut
  repeat' first
    | with_reducible assumption
    | (intro z; refine (fun hz => ?_ : Steady og z → _) ?_; rotate_left; subst z; rotate_left; clear_value z)
    | (intro z; clear_value z)
    | with_reducible apply emit_steady
    | with_reducible apply count_steady
    | with_reducible apply State.setCxl_steady
    | with_reducible apply copyFails_steady
    | with_reducible apply portOut_steady
    | split
    | lift_lets -underBinder

theorem execPrefetchHorizonReached_steady {og : State} {h : BitVec 17} {layer : BitVec 8} {page : Nat} {s : State} (hs : Steady og s) : OutSteady og (execPrefetchHorizonReached h layer page s) := by
  unfold execPrefetchHorizonReached
  repeat' first
    | with_reducible assumption
    | (intro z; refine (fun hz => ?_ : Steady og z → _) ?_; rotate_left; subst z; rotate_left; clear_value z)
    | (intro z; refine (fun hz => ?_ : Steady og z.1 → _) ?_; rotate_left; subst z; rotate_left; clear_value z)
    | (intro z; clear_value z)
    | intro _
    | with_reducible apply OutSteady.next
    | with_reducible apply requestPend_steady
    | with_reducible apply foldl_steady
    | with_reducible apply foldl_fst_steady
    | split
    | lift_lets -underBinder
    | simp -zeta only [Steady.mk]
    | with_reducible refine Steady.fst ?_ ‹_ = (_, _)›
    | with_reducible refine OptSteadyP.of ?_ ‹_ = some (_, _)›

/-! Machine/TileCtx. -/

theorem selectCtx_steady {og : State} {s : State} {t : Fin 192} (hs : Steady og s) : Steady og (selectCtx s t) := by
  unfold selectCtx
  repeat' first
    | with_reducible assumption
    | with_reducible apply State.modCtx_steady
    | with_reducible apply State.modTile_steady
    | split

theorem askFill_steady {og : State} {s : State} {t : Fin 192} {c : Fin 4} (hs : Steady og s) : Steady og (askFill s t c) := by
  unfold askFill
  repeat' first
    | with_reducible assumption
    | (intro z; clear_value z)
    | intro _
    | with_reducible apply State.forAll_steady
    | with_reducible apply requestPromotion_steady
    | with_reducible apply foldl_steady
    | with_reducible apply foldl_fst_steady
    | split
    | lift_lets -underBinder
    | simp -zeta only [Steady.mk]
    | with_reducible refine Steady.fst ?_ ‹_ = (_, _)›
    | with_reducible refine OptSteadyP.of ?_ ‹_ = some (_, _)›

theorem refreshMarks_steady {og : State} {s : State} {t : Fin 192} (hs : Steady og s) : Steady og (refreshMarks s t) := by
  unfold refreshMarks
  repeat' first
    | with_reducible assumption
    | (intro z; refine (fun hz => ?_ : Steady og z → _) ?_; rotate_left; subst z; rotate_left; clear_value z)
    | (intro z; refine (fun hz => ?_ : Steady og z.1 → _) ?_; rotate_left; subst z; rotate_left; clear_value z)
    | (intro z; clear_value z)
    | intro _
    | with_reducible apply State.setQueue_steady
    | with_reducible apply State.forAll_steady
    | with_reducible apply askFill_steady
    | with_reducible apply foldl_steady
    | with_reducible apply foldl_fst_steady
    | split
    | lift_lets -underBinder
    | simp -zeta only [Steady.mk]
    | with_reducible refine Steady.fst ?_ ‹_ = (_, _)›
    | with_reducible refine OptSteadyP.of ?_ ‹_ = some (_, _)›

theorem idleTile_steady {og : State} {s : State} {t : Fin 192} (hs : Steady og s) : Steady og (idleTile s t) := by
  unfold idleTile
  repeat' first
    | with_reducible assumption
    | with_reducible apply idleUnit_steady

theorem resched_steady {og : State} {s : State} {t : Fin 192} (hs : Steady og s) : Steady og (resched s t) := by
  unfold resched
  repeat' first
    | with_reducible assumption
    | (intro z; refine (fun hz => ?_ : Steady og z → _) ?_; rotate_left; subst z; rotate_left; clear_value z)
    | with_reducible apply State.modCtx_steady
    | with_reducible apply selectCtx_steady
    | with_reducible apply refreshMarks_steady
    | with_reducible apply idleTile_steady
    | split
    | lift_lets -underBinder
    | simp -zeta only [Steady.mk]

theorem leaveWalker_steady {og : State} {s : State} {k : Nat} (hs : Steady og s) : Steady og (leaveWalker s k) := by
  unfold leaveWalker
  repeat' first
    | with_reducible assumption
    | (intro z; clear_value z)
    | lift_lets -underBinder
    | simp -zeta only [Steady.mk]

theorem enterWalker_steady {og : State} {s : State} {k : Nat} (hs : Steady og s) : Steady og (enterWalker s k) := by
  unfold enterWalker
  repeat' first
    | with_reducible assumption
    | (intro z; clear_value z)
    | lift_lets -underBinder
    | simp -zeta only [Steady.mk]

theorem faultCtx_steady {og : State} {s : State} {t : Fin 192} {c : Fin 4} {pc : Word32} {cause : Nat} {status : Option Nat} (hs : Steady og s) : Steady og (faultCtx s t c pc cause status) := by
  unfold faultCtx
  repeat' first
    | with_reducible assumption
    | (intro z; refine (fun hz => ?_ : Steady og z → _) ?_; rotate_left; subst z; rotate_left; clear_value z)
    | (intro z; clear_value z)
    | with_reducible apply State.setCtx_steady
    | with_reducible apply State.bump_steady
    | with_reducible apply emit_steady
    | with_reducible apply resched_steady
    | with_reducible apply leaveWalker_steady
    | split
    | lift_lets -underBinder

theorem jumpTo_steady {og : State} {s : State} {t : Fin 192} {c : Fin 4} {pc : Nat} (hs : Steady og s) : Steady og (jumpTo s t c pc) := by
  unfold jumpTo
  repeat' first
    | with_reducible assumption
    | (intro z; refine (fun hz => ?_ : Steady og z → _) ?_; rotate_left; subst z; rotate_left; clear_value z)
    | (intro z; clear_value z)
    | with_reducible apply State.modCtx_steady
    | with_reducible apply resched_steady
    | with_reducible apply faultCtx_steady
    | split
    | lift_lets -underBinder

theorem advanceFrom_steady {og : State} {s : State} {t : Fin 192} {c : Fin 4} {w : Nat} (hs : Steady og s) : Steady og (advanceFrom s t c w) := by
  unfold advanceFrom
  repeat' first
    | with_reducible assumption
    | with_reducible apply State.setCtx_steady
    | with_reducible apply jumpTo_steady

theorem advance_steady {og : State} {s : State} {t : Fin 192} {c : Fin 4} (hs : Steady og s) : Steady og (advance s t c) := by
  unfold advance
  repeat' first
    | with_reducible assumption
    | with_reducible apply advanceFrom_steady

theorem startWait_steady {og : State} {s : State} {t : Fin 192} {c : Fin 4} {w : Wait} (hs : Steady og s) : Steady og (startWait s t c w) := by
  unfold startWait
  repeat' first
    | with_reducible assumption
    | with_reducible apply State.modCtx_steady

theorem endWait_steady {og : State} {s : State} {t : Fin 192} {c : Fin 4} (hs : Steady og s) : Steady og (endWait s t c) := by
  unfold endWait
  repeat' first
    | with_reducible assumption
    | with_reducible apply State.setCtx_steady
    | with_reducible apply advance_steady

theorem issue_steady {og : State} {s : State} {u : Issue} {f : Ctx → State} (hs : Steady og s) (hf : ∀ (a0 : Ctx), Steady og (f a0)) : Steady og (issue s u f) := by
  unfold issue
  repeat' first
    | with_reducible assumption
    | (intro z; clear_value z)
    | with_reducible apply advance_steady
    | with_reducible apply hf
    | split
    | lift_lets -underBinder

theorem issueReg_steady {og : State} {s : State} {u : Issue} {f : Ctx → Ctx} (hs : Steady og s) : Steady og (issueReg s u f) := by
  unfold issueReg
  repeat' first
    | with_reducible assumption
    | intro _
    | with_reducible apply State.setCtx_steady
    | with_reducible apply advance_steady
    | with_reducible apply issue_steady

theorem issueFault_steady {og : State} {s : State} {u : Issue} {x : Ctx} {cause : Nat} {status : Option Nat} (hs : Steady og s) : Steady og (issueFault s u x cause status) := by
  unfold issueFault
  repeat' first
    | with_reducible assumption
    | with_reducible apply faultCtx_steady

theorem settleCtx_steady {og : State} {s : State} {t : Fin 192} {c : Fin 4} (hs : Steady og s) : Steady og (settleCtx s t c) := by
  unfold settleCtx
  repeat' first
    | with_reducible assumption
    | (intro z; clear_value z)
    | with_reducible apply State.setCtx_steady
    | with_reducible apply resched_steady
    | with_reducible apply leaveWalker_steady
    | split
    | lift_lets -underBinder

/-! Machine/TileScalar. -/

theorem execNop_steady {og : State} {u : Issue} {s : State} (hs : Steady og s) : OutSteady og (execNop u s) := by
  unfold execNop
  repeat' first
    | with_reducible assumption
    | with_reducible apply OutSteady.next
    | with_reducible apply issueReg_steady

theorem execSli_steady {og : State} {u : Issue} {sd : Fin 32} {imm : BitVec 64} {s : State} (hs : Steady og s) : OutSteady og (execSli u sd imm s) := by
  unfold execSli
  repeat' first
    | with_reducible assumption
    | with_reducible apply OutSteady.next
    | with_reducible apply issueReg_steady

theorem execSalu_steady {og : State} {u : Issue} {func : BitVec 6} {sd : Fin 32} {sa : Fin 32} {b : ScalarSrc} {s : State} (hs : Steady og s) : OutSteady og (execSalu u func sd sa b s) := by
  unfold execSalu
  repeat' first
    | with_reducible assumption
    | intro _
    | with_reducible apply OutSteady.next
    | with_reducible apply State.setCtx_steady
    | with_reducible apply advance_steady
    | with_reducible apply issue_steady
    | with_reducible apply issueFault_steady
    | split

theorem execScmp_steady {og : State} {u : Issue} {pd : Fin 8} {cond : BitVec 4} {sa : Fin 32} {b : ScalarSrc} {s : State} (hs : Steady og s) : OutSteady og (execScmp u pd cond sa b s) := by
  unfold execScmp
  repeat' first
    | with_reducible assumption
    | intro _
    | with_reducible apply OutSteady.next
    | with_reducible apply State.setCtx_steady
    | with_reducible apply advance_steady
    | with_reducible apply issue_steady
    | with_reducible apply issueFault_steady
    | split

theorem execPlog_steady {og : State} {u : Issue} {pd : Fin 8} {pa : Fin 8} {pb : Fin 8} {op : Fin 4} {s : State} (hs : Steady og s) : OutSteady og (execPlog u pd pa pb op s) := by
  unfold execPlog
  repeat' first
    | with_reducible assumption
    | with_reducible apply OutSteady.next
    | with_reducible apply issueReg_steady

theorem execAadd_steady {og : State} {u : Issue} {ad : Fin 16} {zeroBase : Bool} {aa : Fin 16} {sb : Fin 32} {imm : BitVec 48} {s : State} (hs : Steady og s) : OutSteady og (execAadd u ad zeroBase aa sb imm s) := by
  unfold execAadd
  repeat' first
    | with_reducible assumption
    | with_reducible apply OutSteady.next
    | with_reducible apply issueReg_steady

theorem execLds_steady {og : State} {u : Issue} {a : ScalarMem} {sx : Bool} {s : State} (hs : Steady og s) : OutSteady og (execLds u a sx s) := by
  unfold execLds
  repeat' first
    | with_reducible assumption
    | intro _
    | with_reducible apply OutSteady.next
    | with_reducible apply State.setCtx_steady
    | with_reducible apply advance_steady
    | with_reducible apply issue_steady
    | with_reducible apply issueFault_steady
    | split

theorem execSts_steady {og : State} {u : Issue} {a : ScalarMem} {s : State} (hs : Steady og s) : OutSteady og (execSts u a s) := by
  unfold execSts
  repeat' first
    | with_reducible assumption
    | intro _
    | with_reducible apply OutSteady.next
    | with_reducible apply State.sramWrite_steady
    | with_reducible apply advance_steady
    | with_reducible apply issue_steady
    | with_reducible apply issueFault_steady
    | split

theorem execBr_steady {og : State} {u : Issue} {off : BitVec 32} {s : State} (hs : Steady og s) : OutSteady og (execBr u off s) := by
  unfold execBr
  repeat' first
    | with_reducible assumption
    | intro _
    | with_reducible apply OutSteady.next
    | with_reducible apply jumpTo_steady
    | with_reducible apply issue_steady

theorem execLoop_steady {og : State} {u : Issue} {level : Fin 8} {countInReg : Bool} {sc : Fin 32} {body : BitVec 16} {bound : BitVec 32} {imm : BitVec 32} {s : State} (hs : Steady og s) : OutSteady og (execLoop u level countInReg sc body bound imm s) := by
  unfold execLoop
  repeat' first
    | with_reducible assumption
    | (intro z; clear_value z)
    | intro _
    | with_reducible apply OutSteady.next
    | with_reducible apply State.setCtx_steady
    | with_reducible apply jumpTo_steady
    | with_reducible apply advanceFrom_steady
    | with_reducible apply issue_steady
    | with_reducible apply issueFault_steady
    | split
    | lift_lets -underBinder

theorem execBlkcnt_steady {og : State} {u : Issue} {operation : BitVec 8} {bnd : Fin 32} {s : State} (hs : Steady og s) : OutSteady og (execBlkcnt u operation bnd s) := by
  unfold execBlkcnt
  repeat' first
    | with_reducible assumption
    | intro _
    | with_reducible apply OutSteady.next
    | with_reducible apply advance_steady
    | with_reducible apply issue_steady
    | split
    | lift_lets -underBinder
    | simp -zeta only [Steady.mk]

theorem endCtx_steady {og : State} {s : State} {u : Issue} (hs : Steady og s) : Steady og (endCtx s u) := by
  unfold endCtx
  repeat' first
    | with_reducible assumption
    | with_reducible apply State.modCtx_steady
    | with_reducible apply settleCtx_steady

/-! Machine/TileUnits. -/

theorem bumpIssue_steady {og : State} {s : State} (hs : Steady og s) : Steady og (bumpIssue s) := by
  unfold bumpIssue
  repeat' first
    | with_reducible assumption
    | (intro z; clear_value z)
    | lift_lets -underBinder
    | simp -zeta only [Steady.mk]

theorem execMma_steady {og : State} {u : Issue} {f : MmaFields} {s : State} (hs : Steady og s) : OutSteady og (execMma u f s) := by
  unfold execMma
  repeat' first
    | with_reducible assumption
    | (intro z; clear_value z)
    | intro _
    | with_reducible apply OutSteady.next
    | with_reducible apply State.modTile_steady
    | with_reducible apply advance_steady
    | with_reducible apply issue_steady
    | with_reducible apply issueFault_steady
    | with_reducible apply bumpIssue_steady
    | split
    | lift_lets -underBinder

theorem issueVec_steady {og : State} {kind : VecKind} {u : Issue} {f : VecFields} {s : State} (hs : Steady og s) : Steady og (issueVec kind u f s) := by
  unfold issueVec
  repeat' first
    | with_reducible assumption
    | (intro z; clear_value z)
    | intro _
    | with_reducible apply State.modTile_steady
    | with_reducible apply advance_steady
    | with_reducible apply issue_steady
    | with_reducible apply issueFault_steady
    | with_reducible apply bumpIssue_steady
    | split
    | lift_lets -underBinder

theorem execVop_steady {og : State} {u : Issue} {f : VecFields} {s : State} (hs : Steady og s) : OutSteady og (execVop u f s) := by
  unfold execVop
  repeat' first
    | with_reducible assumption
    | with_reducible apply OutSteady.next
    | with_reducible apply issueVec_steady

theorem execSfn_steady {og : State} {u : Issue} {f : VecFields} {s : State} (hs : Steady og s) : OutSteady og (execSfn u f s) := by
  unfold execSfn
  repeat' first
    | with_reducible assumption
    | with_reducible apply OutSteady.next
    | with_reducible apply issueVec_steady

theorem execRowstat_steady {og : State} {u : Issue} {f : VecFields} {s : State} (hs : Steady og s) : OutSteady og (execRowstat u f s) := by
  unfold execRowstat
  repeat' first
    | with_reducible assumption
    | with_reducible apply OutSteady.next
    | with_reducible apply issueVec_steady

theorem sramPuts_steady {og : State} {s : State} {t : Fin 192} {l : List (Nat × List Byte)} (hs : Steady og s) : Steady og (sramPuts s t l) := by
  unfold sramPuts
  repeat' first
    | with_reducible assumption
    | intro _
    | with_reducible apply State.forAll_steady
    | with_reducible apply State.sramWrite_steady

theorem afterComplete_steady {og : State} {s : State} {t : Fin 192} {c : Fin 4} (hs : Steady og s) : Steady og (afterComplete s t c) := by
  unfold afterComplete
  repeat' first
    | with_reducible assumption
    | with_reducible apply idleTile_steady
    | with_reducible apply settleCtx_steady

theorem execUnitInstructionComplete_steady {og s : State} {t : Fin 192} {sfu : Bool} (hs : Steady og s) :
    OutSteady og (execUnitInstructionComplete t sfu s) := by
  unfold execUnitInstructionComplete
  lift_lets
  intro y
  generalize (if sfu = true then y.sfu else y.vxu) = l
  cases l with
  | nil => exact OutSteady.next hs
  | cons op rest =>
    simp only []
    split
    · exact OutSteady.next (afterComplete_steady (State.modTile_steady (sramPuts_steady hs)))
    · exact OutSteady.next hs

theorem popMxu_steady {og : State} {s : State} {t : Fin 192} {out : List (Nat × List Byte)} (hs : Steady og s) : Steady og (popMxu s t out) := by
  unfold popMxu
  repeat' first
    | with_reducible assumption
    | (intro z; clear_value z)
    | intro _
    | with_reducible apply State.modTile_steady
    | with_reducible apply foldl_steady
    | with_reducible apply foldl_fst_steady
    | split
    | lift_lets -underBinder
    | simp -zeta only [Steady.mk]
    | with_reducible refine Steady.fst ?_ ‹_ = (_, _)›
    | with_reducible refine OptSteadyP.of ?_ ‹_ = some (_, _)›

/-! Machine/Sync. -/

theorem replyCtx_steady {og : State} {s : State} {t : Fin 192} {c : Fin 4} {v : Word64} (hs : Steady og s) : Steady og (replyCtx s t c v) := by
  unfold replyCtx
  repeat' first
    | with_reducible assumption
    | with_reducible apply State.modCtx_steady

theorem enterAe_steady {og : State} {s : State} {e : Fin 32} {c : Fin 4} (hs : Steady og s) : Steady og (enterAe s e c) := by
  unfold enterAe
  repeat' first
    | with_reducible assumption
    | (intro z; clear_value z)
    | intro _
    | with_reducible apply State.setAeCtx_steady
    | with_reducible apply enterWalker_steady
    | with_reducible apply foldl_steady
    | with_reducible apply foldl_fst_steady
    | split
    | lift_lets -underBinder
    | simp -zeta only [Steady.mk]
    | with_reducible refine Steady.fst ?_ ‹_ = (_, _)›
    | with_reducible refine OptSteadyP.of ?_ ‹_ = some (_, _)›

theorem creditReply_steady {og : State} {s : State} {src : CreditSrc} {r : CreditSt} (hs : Steady og s) : Steady og (creditReply s src r) := by
  unfold creditReply
  repeat' first
    | with_reducible assumption
    | (intro z; refine (fun hz => ?_ : Steady og z → _) ?_; rotate_left; subst z; rotate_left; clear_value z)
    | (intro z; refine (fun hz => ?_ : Steady og z.1 → _) ?_; rotate_left; subst z; rotate_left; clear_value z)
    | (intro z; clear_value z)
    | intro _
    | with_reducible apply State.setQueue_steady
    | with_reducible apply State.setAeCtx_steady
    | with_reducible apply enterAe_steady
    | with_reducible apply foldl_steady
    | with_reducible apply foldl_fst_steady
    | split
    | lift_lets -underBinder
    | simp -zeta only [Steady.mk]
    | with_reducible refine Steady.fst ?_ ‹_ = (_, _)›
    | with_reducible refine OptSteadyP.of ?_ ‹_ = some (_, _)›

theorem fireNotifs_steady {og : State} {s : State} {a : Nat} {status : Nat} {p : Notif → Bool} (hs : Steady og s) : Steady og (fireNotifs s a status p) := by
  unfold fireNotifs
  repeat' first
    | with_reducible assumption
    | (intro z; clear_value z)
    | intro _
    | with_reducible apply State.forAll_steady
    | with_reducible apply emitTo_steady
    | lift_lets -underBinder
    | simp -zeta only [Steady.mk]

theorem releaseMet_steady {og : State} {s : State} {a : Nat} (hs : Steady og s) : Steady og (releaseMet s a) := by
  unfold releaseMet
  repeat' first
    | with_reducible assumption
    | intro _
    | with_reducible apply State.setObj_steady
    | with_reducible apply State.forAll_steady
    | with_reducible apply replyCtx_steady
    | with_reducible apply fireNotifs_steady
    | split

theorem grantTakers_steady {og : State} {a0} : ∀ {s a2}, Steady og s → Steady og (grantTakers a0 s a2) := by
  induction a0 with
  | zero => intro s a2 h; exact h
  | succ k ih =>
  intro s a2 h
  unfold grantTakers
  repeat' first
    | with_reducible assumption
    | (intro z; clear_value z)
    | with_reducible apply State.setObj_steady
    | with_reducible apply creditReply_steady
    | with_reducible apply releaseMet_steady
    | with_reducible apply ih
    | split
    | lift_lets -underBinder

theorem setCounterObj_steady {og : State} {s : State} {a : Nat} {v : Word32} (hs : Steady og s) : Steady og (setCounterObj s a v) := by
  unfold setCounterObj
  repeat' first
    | with_reducible assumption
    | with_reducible apply State.setObj_steady
    | with_reducible apply releaseMet_steady
    | with_reducible apply grantTakers_steady

theorem workWrite_steady {og : State} {s : State} {a : Nat} {before : Word32} {after : Word32} (hs : Steady og s) : Steady og (workWrite s a before after) := by
  unfold workWrite
  repeat' first
    | with_reducible assumption
    | (intro z; clear_value z)
    | with_reducible apply emit_steady
    | split
    | lift_lets -underBinder

theorem changeCounter_steady {og : State} {s : State} {a : Nat} {v : Word32} (hs : Steady og s) : Steady og (changeCounter s a v) := by
  unfold changeCounter
  repeat' first
    | with_reducible assumption
    | with_reducible apply setCounterObj_steady
    | with_reducible apply workWrite_steady

theorem serveWord_steady {og : State} {a0} : ∀ {s a2}, Steady og s → Steady og (serveWord a0 s a2) := by
  induction a0 with
  | zero => intro s a2 h; exact h
  | succ k ih =>
  intro s a2 h
  unfold serveWord
  repeat' first
    | with_reducible assumption
    | (intro z; clear_value z)
    | with_reducible apply State.setObj_steady
    | with_reducible apply replyCtx_steady
    | with_reducible apply ih
    | split
    | lift_lets -underBinder

theorem serve_steady {og : State} {s : State} {a : Nat} (hs : Steady og s) : Steady og (serve s a) := by
  unfold serve
  repeat' first
    | with_reducible assumption
    | with_reducible apply serveWord_steady

theorem mismatch_steady {og : State} {s : State} {a : Nat} {cls : Nat} {src : Nat} {ctx : Nat} {op : Nat} (hs : Steady og s) : Steady og (mismatch s a cls src ctx op) := by
  unfold mismatch
  repeat' first
    | with_reducible assumption
    | with_reducible apply emit_steady
    | with_reducible apply count_steady

theorem signalDropped_steady {og : State} {s : State} (hs : Steady og s) : Steady og (signalDropped s) := by
  unfold signalDropped
  repeat' first
    | with_reducible assumption
    | with_reducible apply count_steady

theorem plainWrite_steady {og : State} {s : State} {a : Nat} {n : Nat} {v : Nat} {cls : Nat} {src : Nat} {ctx : Nat} (hs : Steady og s) : Steady og (plainWrite s a n v cls src ctx).1 := by
  unfold plainWrite
  repeat' first
    | with_reducible assumption
    | (intro z; clear_value z)
    | with_reducible apply changeCounter_steady
    | with_reducible apply mismatch_steady
    | with_reducible apply signalDropped_steady
    | split
    | lift_lets -underBinder

theorem dstSignal_steady {og : State} {s : State} {a : Nat} {src : Nat} (hs : Steady og s) : Steady og (dstSignal s a src) := by
  unfold dstSignal
  repeat' first
    | with_reducible assumption
    | (intro z; clear_value z)
    | with_reducible apply changeCounter_steady
    | with_reducible apply mismatch_steady
    | with_reducible apply signalDropped_steady
    | split
    | lift_lets -underBinder

theorem releaseObj_steady {og : State} {s : State} {a : Nat} (hs : Steady og s) : Steady og (releaseObj s a) := by
  unfold releaseObj
  repeat' first
    | with_reducible assumption
    | (intro z; clear_value z)
    | with_reducible apply changeCounter_steady
    | with_reducible apply signalDropped_steady
    | split
    | lift_lets -underBinder

theorem poke_steady {og : State} {s : State} {op : Nat} {a : Nat} {v : Word64} (hs : Steady og s) : Steady og (poke s op a v) := by
  unfold poke
  repeat' first
    | with_reducible assumption
    | (intro z; clear_value z)
    | with_reducible apply State.setObj_steady
    | with_reducible apply emit_steady
    | with_reducible apply count_steady
    | with_reducible apply changeCounter_steady
    | with_reducible apply serve_steady
    | with_reducible apply mismatch_steady
    | with_reducible apply signalDropped_steady
    | split
    | lift_lets -underBinder

theorem sendReq_steady {og : State} {s : State} {r : SyncReq} (hs : Steady og s) : Steady og (sendReq s r) := by
  unfold sendReq
  repeat' first
    | with_reducible assumption
    | (intro z; clear_value z)
    | lift_lets -underBinder
    | simp -zeta only [Steady.mk]

theorem syncFault_steady {og : State} {s : State} {t : Fin 192} {c : Fin 4} {pc : Word32} {o : SyncObj} (hs : Steady og s) : Steady og (syncFault s t c pc o) := by
  unfold syncFault
  repeat' first
    | with_reducible assumption
    | with_reducible apply faultCtx_steady
    | split

theorem applyReq_steady {og : State} {s : State} {r : SyncReq} (hs : Steady og s) : Steady og (applyReq s r) := by
  unfold applyReq
  repeat' first
    | with_reducible assumption
    | (intro z; refine (fun hz => ?_ : Steady og z → _) ?_; rotate_left; subst z; rotate_left; clear_value z)
    | (intro z; clear_value z)
    | with_reducible apply State.modCtx_steady
    | with_reducible apply State.setObj_steady
    | with_reducible apply endWait_steady
    | with_reducible apply settleCtx_steady
    | with_reducible apply replyCtx_steady
    | with_reducible apply creditReply_steady
    | with_reducible apply grantTakers_steady
    | with_reducible apply setCounterObj_steady
    | with_reducible apply changeCounter_steady
    | with_reducible apply serve_steady
    | with_reducible apply releaseObj_steady
    | with_reducible apply syncFault_steady
    | split
    | lift_lets -underBinder

theorem fireChan_steady {og : State} {s : State} {k : Nat} (hs : Steady og s) : Steady og (fireChan s k) := by
  unfold fireChan
  repeat' first
    | with_reducible assumption
    | intro _
    | with_reducible apply State.setChan_steady
    | with_reducible apply State.forAll_steady
    | with_reducible apply endWait_steady
    | split

theorem checkFire_steady {og : State} {s : State} {k : Nat} (hs : Steady og s) : Steady og (checkFire s k) := by
  unfold checkFire
  repeat' first
    | with_reducible assumption
    | with_reducible apply fireChan_steady
    | split

theorem setLatch_steady {og : State} {s : State} {k : Nat} {t : Fin 192} {c : Fin 4} (hs : Steady og s) : Steady og (setLatch s k t c) := by
  unfold setLatch
  repeat' first
    | with_reducible assumption
    | with_reducible apply State.modCtx_steady
    | with_reducible apply State.setChan_steady
    | with_reducible apply checkFire_steady

theorem runHeld_steady {og : State} {a0} : ∀ {s a2}, Steady og s → Steady og (runHeld a0 s a2) := by
  induction a0 with
  | zero => intro s a2 h; exact h
  | succ k ih =>
  intro s a2 h
  unfold runHeld
  repeat' first
    | with_reducible assumption
    | (intro z; clear_value z)
    | with_reducible apply State.setChan_steady
    | with_reducible apply setLatch_steady
    | with_reducible apply ih
    | split
    | lift_lets -underBinder

theorem serveChan_steady {og : State} {s : State} {k : Nat} (hs : Steady og s) : Steady og (serveChan s k) := by
  unfold serveChan
  repeat' first
    | with_reducible assumption
    | with_reducible apply runHeld_steady

theorem reissueStr_steady {og : State} {s : State} {u : Issue} {channel : Fin 16} (hs : Steady og s) : Steady og (reissueStr s u channel) := by
  unfold reissueStr
  repeat' first
    | with_reducible assumption
    | (intro z; clear_value z)
    | with_reducible apply State.setCtx_steady
    | with_reducible apply resched_steady
    | with_reducible apply endWait_steady
    | with_reducible apply issueFault_steady
    | split
    | lift_lets -underBinder

theorem execStr_steady {og : State} {u : Issue} {channel : Fin 16} {arriveOnly : Bool} {s : State} (hs : Steady og s) : OutSteady og (execStr u channel arriveOnly s) := by
  unfold execStr
  repeat' first
    | with_reducible assumption
    | (intro z; refine (fun hz => ?_ : Steady og z → _) ?_; rotate_left; subst z; rotate_left; clear_value z)
    | (intro z; clear_value z)
    | intro _
    | with_reducible apply OutSteady.next
    | with_reducible apply State.setChan_steady
    | with_reducible apply resched_steady
    | with_reducible apply advance_steady
    | with_reducible apply startWait_steady
    | with_reducible apply issue_steady
    | with_reducible apply issueFault_steady
    | with_reducible apply setLatch_steady
    | with_reducible apply serveChan_steady
    | with_reducible apply reissueStr_steady
    | split
    | lift_lets -underBinder

theorem idleAe_steady {og : State} {s : State} {e : Fin 32} (hs : Steady og s) : Steady og (idleAe s e) := by
  unfold idleAe
  repeat' first
    | with_reducible assumption
    | with_reducible apply idleUnit_steady

theorem aeArrival_steady {og : State} {s : State} {e : Fin 32} {c : Fin 4} {x : AeCtx} (hs : Steady og s) : Steady og (aeArrival s e c x) := by
  unfold aeArrival
  repeat' first
    | with_reducible assumption
    | (intro z; clear_value z)
    | intro _
    | with_reducible apply State.setAeCtx_steady
    | with_reducible apply State.forAll_steady
    | with_reducible apply checkFire_steady
    | with_reducible apply serveChan_steady
    | with_reducible apply idleAe_steady
    | with_reducible apply foldl_steady
    | with_reducible apply foldl_fst_steady
    | split
    | lift_lets -underBinder
    | simp -zeta only [Steady.mk]
    | with_reducible refine Steady.fst ?_ ‹_ = (_, _)›
    | with_reducible refine OptSteadyP.of ?_ ‹_ = some (_, _)›

theorem abandonObj_steady {og : State} {s : State} {a : Nat} (hs : Steady og s) : Steady og (abandonObj s a) := by
  unfold abandonObj
  repeat' first
    | with_reducible assumption
    | intro _
    | with_reducible apply State.setObj_steady
    | with_reducible apply State.forAll_steady
    | with_reducible apply creditReply_steady
    | with_reducible apply fireNotifs_steady

theorem abandonLaunch_steady {og : State} {s : State} {n : Fin 16} {trigger waiters : Nat} (hs : Steady og s) : Steady og (abandonLaunch s n trigger waiters) := by
  unfold abandonLaunch
  repeat' first
    | with_reducible assumption
    | intro _
    | with_reducible apply State.setChan_steady
    | with_reducible apply State.forAll_steady
    | with_reducible apply emit_steady
    | with_reducible apply abandonObj_steady
    | lift_lets -underBinder
    | with_reducible apply foldl_fst_steady

theorem abandonChans_steady {og : State} {s : State} {trigger : Nat} {names : StrChan → Bool} (hs : Steady og s) : Steady og (abandonChans s trigger names) := by
  unfold abandonChans
  repeat' first
    | with_reducible assumption
    | (intro z; refine (fun hz => ?_ : Steady og z → _) ?_; rotate_left; subst z; rotate_left; clear_value z)
    | (intro z; clear_value z)
    | intro _
    | with_reducible apply State.setChan_steady
    | with_reducible apply State.forAll_steady
    | with_reducible apply emit_steady
    | with_reducible apply faultCtx_steady
    | split
    | lift_lets -underBinder

theorem issueWait_steady {og : State} {u : Issue} {vid : BitVec 16} {s : State} {kind : Ctx → WaitKind} {act : Ctx → SyncAct} {after : Nat} (hs : Steady og s) : Steady og (issueWait u vid s kind act after) := by
  unfold issueWait
  repeat' first
    | with_reducible assumption
    | intro _
    | with_reducible apply resched_steady
    | with_reducible apply startWait_steady
    | with_reducible apply issue_steady
    | with_reducible apply issueFault_steady
    | with_reducible apply sendReq_steady
    | split

theorem execWaitc_steady {og : State} {u : Issue} {vid : BitVec 16} {sThr : Fin 32} {imm : BitVec 32} {s : State} (hs : Steady og s) : OutSteady og (execWaitc u vid sThr imm s) := by
  unfold execWaitc
  repeat' first
    | with_reducible assumption
    | with_reducible apply OutSteady.next
    | with_reducible apply issueWait_steady

theorem execTake_steady {og : State} {u : Issue} {vid : BitVec 16} {sd : Fin 32} {s : State} (hs : Steady og s) : OutSteady og (execTake u vid sd s) := by
  unfold execTake
  repeat' first
    | with_reducible assumption
    | with_reducible apply OutSteady.next
    | with_reducible apply issueWait_steady

theorem execPut_steady {og : State} {u : Issue} {vid : BitVec 16} {ss : Fin 32} {s : State} (hs : Steady og s) : OutSteady og (execPut u vid ss s) := by
  unfold execPut
  repeat' first
    | with_reducible assumption
    | with_reducible apply OutSteady.next
    | with_reducible apply issueWait_steady

theorem execSigc_steady {og : State} {u : Issue} {vid : BitVec 16} {sVal : Fin 32} {imm : BitVec 32} {s : State} (hs : Steady og s) : OutSteady og (execSigc u vid sVal imm s) := by
  unfold execSigc
  repeat' first
    | with_reducible assumption
    | intro _
    | with_reducible apply OutSteady.next
    | with_reducible apply advance_steady
    | with_reducible apply issue_steady
    | with_reducible apply issueFault_steady
    | with_reducible apply sendReq_steady
    | split

theorem execFaa_steady {og : State} {u : Issue} {vid : BitVec 16} {sd : Fin 32} {sInc : Fin 32} {imm : BitVec 32} {s : State} (hs : Steady og s) : OutSteady og (execFaa u vid sd sInc imm s) := by
  unfold execFaa
  repeat' first
    | with_reducible assumption
    | intro _
    | with_reducible apply OutSteady.next
    | with_reducible apply State.modCtx_steady
    | with_reducible apply issue_steady
    | with_reducible apply issueFault_steady
    | with_reducible apply sendReq_steady
    | split

theorem execWaitMet_steady {og : State} {t : Fin 192} {c : Fin 4} {s : State} (hs : Steady og s) : OutSteady og (execWaitMet t c s) := by
  unfold execWaitMet
  repeat' first
    | with_reducible assumption
    | (intro z; clear_value z)
    | with_reducible apply OutSteady.next
    | with_reducible apply State.setCtx_steady
    | with_reducible apply endWait_steady
    | split
    | lift_lets -underBinder

theorem execSpinLimitReached_steady {og : State} {t : Fin 192} {c : Fin 4} {s : State} (hs : Steady og s) : OutSteady og (execSpinLimitReached t c s) := by
  unfold execSpinLimitReached
  repeat' first
    | with_reducible assumption
    | (intro z; clear_value z)
    | with_reducible apply OutSteady.next
    | with_reducible apply State.setCtx_steady
    | with_reducible apply resched_steady
    | split
    | lift_lets -underBinder

theorem execContextSwitchDone_steady {og : State} {t : Fin 192} {c : Fin 4} {s : State} (hs : Steady og s) : OutSteady og (execContextSwitchDone t c s) := by
  unfold execContextSwitchDone
  repeat' first
    | with_reducible assumption
    | (intro z; refine (fun hz => ?_ : Steady og z → _) ?_; rotate_left; subst z; rotate_left; clear_value z)
    | (intro z; clear_value z)
    | with_reducible apply OutSteady.next
    | with_reducible apply State.setCtx_steady
    | with_reducible apply State.modTile_steady
    | with_reducible apply resched_steady
    | split
    | lift_lets -underBinder

theorem mxuFail_steady {og : State} {s : State} {t : Fin 192} (hs : Steady og s) : Steady og (mxuFail s t) := by
  unfold mxuFail
  repeat' first
    | with_reducible assumption
    | (intro z; clear_value z)
    | intro _
    | with_reducible apply State.modCtx_steady
    | with_reducible apply State.modTile_steady
    | with_reducible apply State.forAll_steady
    | with_reducible apply emit_steady
    | with_reducible apply faultCtx_steady
    | with_reducible apply abandonChans_steady
    | with_reducible apply foldl_steady
    | with_reducible apply foldl_fst_steady
    | split
    | lift_lets -underBinder
    | simp -zeta only [Steady.mk]
    | with_reducible refine Steady.fst ?_ ‹_ = (_, _)›
    | with_reducible refine OptSteadyP.of ?_ ‹_ = some (_, _)›

end Sys2Proof.Machine
end

