-- ==== Sys2Proof/Laws/SteadyEngines.lean ====
section
/-! SUPPORT. What the operations of Machine/Fabric, Machine/Streams, Machine/Seq, Machine/Ae, Machine/NetBase, Machine/TileSys, Machine/Ring, Machine/Coll, Machine/Arrive, Machine/HostLink keep: the queue, the address pins, canonical memories. -/

namespace Sys2Proof.Machine

/-! Machine/Fabric. -/

theorem State.setPort_steady {og : State} {s : State} {p : Nat} {x : Port} (hs : Steady og s) : Steady og (State.setPort s p x) := by
  unfold State.setPort
  repeat' first
    | with_reducible assumption
    | (intro z; clear_value z)
    | lift_lets -underBinder
    | simp -zeta only [Steady.mk]

theorem State.setSess_steady {og : State} {s : State} {d : Nat} {x : Session} (hs : Steady og s) : Steady og (State.setSess s d x) := by
  unfold State.setSess
  repeat' first
    | with_reducible assumption
    | (intro z; clear_value z)
    | lift_lets -underBinder
    | simp -zeta only [Steady.mk]

theorem noteChunk_steady {og : State} {s : State} {k : Packet} (hs : Steady og s) : Steady og (noteChunk s k) := by
  unfold noteChunk
  repeat' first
    | with_reducible assumption
    | (intro z; clear_value z)
    | split
    | lift_lets -underBinder
    | simp -zeta only [Steady.mk]

theorem noteSent_steady {og : State} {s : State} {k : Packet} (hs : Steady og s) : Steady og (noteSent s k) := by
  unfold noteSent
  repeat' first
    | with_reducible assumption
    | (intro z; clear_value z)
    | with_reducible apply noteChunk_steady
    | split
    | lift_lets -underBinder
    | simp -zeta only [Steady.mk]

theorem launchOn_steady {og : State} {s : State} {k : Packet} {p : Nat} (hs : Steady og s) : Steady og (launchOn s k p) := by
  unfold launchOn
  repeat' first
    | with_reducible assumption
    | (intro z; clear_value z)
    | with_reducible apply State.setPort_steady
    | with_reducible apply State.setSess_steady
    | with_reducible apply noteSent_steady
    | split
    | lift_lets -underBinder
    | simp -zeta only [Steady.mk]

theorem queuePacket_steady {og : State} {s : State} {k : Packet} (hs : Steady og s) : Steady og (queuePacket s k) := by
  unfold queuePacket
  repeat' first
    | with_reducible assumption
    | (intro z; refine (fun hz => ?_ : Steady og z → _) ?_; rotate_left; subst z; rotate_left; clear_value z)
    | (intro z; clear_value z)
    | with_reducible apply launchOn_steady
    | split
    | lift_lets -underBinder
    | simp -zeta only [Steady.mk]

theorem openSession_steady {og : State} {s : State} {d : Nat} {timeOnly : Bool} (hs : Steady og s) : Steady og (openSession s d timeOnly) := by
  unfold openSession
  repeat' first
    | with_reducible assumption
    | (intro z; clear_value z)
    | intro _
    | with_reducible apply State.bump_steady
    | with_reducible apply State.setSess_steady
    | with_reducible apply queuePacket_steady
    | with_reducible apply foldl_steady
    | with_reducible apply foldl_fst_steady
    | split
    | lift_lets -underBinder
    | simp -zeta only [Steady.mk]
    | with_reducible refine Steady.fst ?_ ‹_ = (_, _)›
    | with_reducible refine OptSteadyP.of ?_ ‹_ = some (_, _)›

theorem sendPacket_steady {og : State} {s : State} {k : Packet} (hs : Steady og s) : Steady og (sendPacket s k) := by
  unfold sendPacket
  repeat' first
    | with_reducible assumption
    | with_reducible apply queuePacket_steady
    | with_reducible apply openSession_steady
    | split

theorem flushWaiting_steady {og : State} {a0} : ∀ {s}, Steady og s → Steady og (flushWaiting a0 s) := by
  induction a0 with
  | zero => intro s h; exact h
  | succ k ih =>
  intro s h
  unfold flushWaiting
  repeat' first
    | with_reducible assumption
    | (intro z; clear_value z)
    | with_reducible apply launchOn_steady
    | with_reducible apply ih
    | split
    | lift_lets -underBinder
    | simp -zeta only [Steady.mk]

theorem flush_steady {og : State} {s : State} (hs : Steady og s) : Steady og (flush s) := by
  unfold flush
  repeat' first
    | with_reducible assumption
    | (intro z; clear_value z)
    | intro _
    | with_reducible apply State.forAll_steady
    | with_reducible apply openSession_steady
    | with_reducible apply flushWaiting_steady
    | with_reducible apply foldl_steady
    | with_reducible apply foldl_fst_steady
    | split
    | lift_lets -underBinder
    | simp -zeta only [Steady.mk]
    | with_reducible refine Steady.fst ?_ ‹_ = (_, _)›
    | with_reducible refine OptSteadyP.of ?_ ‹_ = some (_, _)›

theorem sendControl_steady {og : State} {s : State} {kind : Nat} {d : Nat} {domain : Nat} {xfer : BitVec 16} {index : Nat} {address : Nat} {aux : Nat} {items : List (Nat × Nat)} (hs : Steady og s) : Steady og (sendControl s kind d domain xfer index address aux items) := by
  unfold sendControl
  repeat' first
    | with_reducible assumption
    | with_reducible apply sendPacket_steady

theorem takeXferNo_steady {og : State} {s : State} {d : Nat} (hs : Steady og s) : Steady og (takeXferNo s d).1 := by
  unfold takeXferNo
  repeat' first
    | with_reducible assumption
    | (intro z; clear_value z)
    | lift_lets -underBinder
    | simp -zeta only [Steady.mk]

theorem sendKept_steady {og : State} {s : State} {q : Fin 256} {k : Packet} (hs : Steady og s) : Steady og (sendKept s q k) := by
  unfold sendKept
  repeat' first
    | with_reducible assumption
    | (intro z; clear_value z)
    | with_reducible apply sendPacket_steady
    | lift_lets -underBinder
    | simp -zeta only [Steady.mk]

theorem relaunch_steady {og : State} {s : State} {k : Packet} (hs : Steady og s) : Steady og (relaunch s k) := by
  unfold relaunch
  repeat' first
    | with_reducible assumption
    | (intro z; clear_value z)
    | intro _
    | with_reducible apply sendPacket_steady
    | with_reducible apply foldl_steady
    | with_reducible apply foldl_fst_steady
    | split
    | lift_lets -underBinder
    | simp -zeta only [Steady.mk]
    | with_reducible refine Steady.fst ?_ ‹_ = (_, _)›
    | with_reducible refine OptSteadyP.of ?_ ‹_ = some (_, _)›

theorem resend_steady {og : State} {s : State} {e : Sent} (hs : Steady og s) : Steady og (resend s e) := by
  unfold resend
  repeat' first
    | with_reducible assumption
    | with_reducible apply relaunch_steady

theorem dropXfer_steady {og : State} {s : State} {d : Nat} {xfer : BitVec 16} (hs : Steady og s) : Steady og (dropXfer s d xfer) := by
  unfold dropXfer
  repeat' first
    | with_reducible assumption
    | (intro z; clear_value z)
    | intro _
    | lift_lets -underBinder
    | simp -zeta only [Steady.mk]

/-! Machine/Streams. -/

theorem devMeet_steady {og : State} {s : State} {a : Nat} {n : Nat} {d : Nat} {write : Bool} {die : Fin 5} (hs : Steady og s) : Steady og (devMeet s a n d write die).1 := by
  unfold devMeet
  repeat' first
    | with_reducible assumption
    | (intro z; refine (fun hz => ?_ : Steady og z.1 → _) ?_; rotate_left; subst z; rotate_left; clear_value z)
    | with_reducible apply meetGrain_steady
    | split
    | lift_lets -underBinder

theorem devWrite_steady {og : State} {s : State} {a : Nat} {l : List Byte} {cls : Nat} {src : Nat} {ctx : Nat} (hs : Steady og s) : Steady og (devWrite s a l cls src ctx).1 := by
  unfold devWrite
  repeat' first
    | with_reducible assumption
    | with_reducible apply plainWrite_steady
    | with_reducible apply devStore_steady
    | split

theorem nextIssue_steady {og : State} {s : State} (hs : Steady og s) : Steady og (nextIssue s).1 := by
  unfold nextIssue
  repeat' first
    | with_reducible assumption
    | with_reducible apply bumpIssue_steady

theorem takeCredit_steady {og : State} {s : State} {q : Fin 256} (hs : Steady og s) : Steady og (takeCredit s q) := by
  unfold takeCredit
  repeat' first
    | with_reducible assumption
    | (intro z; clear_value z)
    | with_reducible apply State.setQueue_steady
    | with_reducible apply sendReq_steady
    | with_reducible apply nextIssue_steady
    | split
    | lift_lets -underBinder

theorem activate_steady {og : State} {s : State} {q : Fin 256} {x : Xfer} (hs : Steady og s) : Steady og (activate s q x) := by
  unfold activate
  repeat' first
    | with_reducible assumption
    | (intro z; refine (fun hz => ?_ : Steady og z → _) ?_; rotate_left; subst z; rotate_left; clear_value z)
    | (intro z; clear_value z)
    | with_reducible apply State.setQueue_steady
    | with_reducible apply State.modQueue_steady
    | with_reducible apply takeCredit_steady
    | split
    | lift_lets -underBinder

theorem nextActive_steady {og : State} {s : State} {q : Fin 256} (hs : Steady og s) : Steady og (nextActive s q) := by
  unfold nextActive
  repeat' first
    | with_reducible assumption
    | (intro z; refine (fun hz => ?_ : Steady og z → _) ?_; rotate_left; subst z; rotate_left; clear_value z)
    | (intro z; clear_value z)
    | with_reducible apply State.setQueue_steady
    | with_reducible apply activate_steady
    | split
    | lift_lets -underBinder

theorem execSqis_steady {og : State} {u : Issue} {desc : BitVec 16} {queue : Fin 256} {aSrc : Option (Fin 16)} {aDst : Option (Fin 16)} {bnd : Fin 32} {s : State} (hs : Steady og s) : OutSteady og (execSqis u desc queue aSrc aDst bnd s) := by
  unfold execSqis
  repeat' first
    | with_reducible assumption
    | (intro z; refine (fun hz => ?_ : Steady og z → _) ?_; rotate_left; subst z; rotate_left; clear_value z)
    | (intro z; refine (fun hz => ?_ : Steady og z.1 → _) ?_; rotate_left; subst z; rotate_left; clear_value z)
    | (intro z; clear_value z)
    | intro _
    | with_reducible apply OutSteady.next
    | with_reducible apply State.setQueue_steady
    | with_reducible apply emit_steady
    | with_reducible apply count_steady
    | with_reducible apply advance_steady
    | with_reducible apply issue_steady
    | with_reducible apply issueFault_steady
    | with_reducible apply nextIssue_steady
    | with_reducible apply activate_steady
    | split
    | lift_lets -underBinder

theorem withdrawCredit_steady {og : State} {s : State} {q : Fin 256} {x : Xfer} (hs : Steady og s) : Steady og (withdrawCredit s q x) := by
  unfold withdrawCredit
  repeat' first
    | with_reducible assumption
    | with_reducible apply sendReq_steady
    | split

theorem signalRelease_steady {og : State} {s : State} {q : Fin 256} {x : Xfer} (hs : Steady og s) : Steady og (signalRelease s q x) := by
  unfold signalRelease
  repeat' first
    | with_reducible assumption
    | with_reducible apply sendReq_steady
    | split

theorem faultIssuer_steady {og : State} {s : State} {t : Fin 192} {c : Fin 4} {n : Fin 16} {pc : Word32} {cause : Nat} {status : Nat} (hs : Steady og s) : Steady og (faultIssuer s t c n pc cause status) := by
  unfold faultIssuer
  repeat' first
    | with_reducible assumption
    | with_reducible apply faultCtx_steady
    | split

theorem xferFault_steady {og : State} {s : State} {q : Fin 256} {x : Xfer} {addr : Nat} {status : Nat} (hs : Steady og s) : Steady og (xferFault s q x addr status) := by
  unfold xferFault
  repeat' first
    | with_reducible assumption
    | with_reducible apply emit_steady
    | with_reducible apply faultIssuer_steady

theorem dropRemote_steady {og : State} {s : State} {x : Xfer} (hs : Steady og s) : Steady og (dropRemote s x) := by
  unfold dropRemote
  repeat' first
    | with_reducible assumption
    | with_reducible apply dropXfer_steady
    | split

theorem failQueue_steady {og : State} {s : State} {q : Fin 256} {x : Xfer} (hs : Steady og s) : Steady og (failQueue s q x) := by
  unfold failQueue
  repeat' first
    | with_reducible assumption
    | (intro z; clear_value z)
    | intro _
    | with_reducible apply State.setQueue_steady
    | with_reducible apply withdrawCredit_steady
    | with_reducible apply dropRemote_steady
    | with_reducible apply foldl_steady
    | with_reducible apply foldl_fst_steady
    | split
    | lift_lets -underBinder
    | simp -zeta only [Steady.mk]
    | with_reducible refine Steady.fst ?_ ‹_ = (_, _)›
    | with_reducible refine OptSteadyP.of ?_ ‹_ = some (_, _)›

theorem endXfer_steady {og : State} {s : State} {q : Fin 256} {addr : Nat} {status : Nat} (hs : Steady og s) : Steady og (endXfer s q addr status) := by
  unfold endXfer
  repeat' first
    | with_reducible assumption
    | (intro z; clear_value z)
    | intro _
    | with_reducible apply xferFault_steady
    | with_reducible apply failQueue_steady
    | with_reducible apply foldl_steady
    | with_reducible apply foldl_fst_steady
    | split
    | lift_lets -underBinder
    | simp -zeta only [Steady.mk]
    | with_reducible refine Steady.fst ?_ ‹_ = (_, _)›
    | with_reducible refine OptSteadyP.of ?_ ‹_ = some (_, _)›

theorem retireRank_steady {og : State} {s : State} {x : Xfer} (hs : Steady og s) : Steady og (retireRank s x) := by
  unfold retireRank
  repeat' first
    | with_reducible assumption
    | (intro z; refine (fun hz => ?_ : Steady og z → _) ?_; rotate_left; subst z; rotate_left; clear_value z)
    | (intro z; clear_value z)
    | intro _
    | with_reducible apply requestPromotion_steady
    | split
    | lift_lets -underBinder
    | with_reducible apply foldl_steady
    | simp -zeta only [Steady.mk]

theorem completeXfer_steady {og : State} {s : State} {q : Fin 256} (hs : Steady og s) : Steady og (completeXfer s q) := by
  unfold completeXfer
  repeat' first
    | with_reducible assumption
    | with_reducible apply nextActive_steady
    | with_reducible apply signalRelease_steady
    | with_reducible apply retireRank_steady
    | split

theorem checkComplete_steady {og : State} {s : State} {q : Fin 256} (hs : Steady og s) : Steady og (checkComplete s q) := by
  unfold checkComplete
  repeat' first
    | with_reducible assumption
    | (intro z; clear_value z)
    | with_reducible apply completeXfer_steady
    | split
    | lift_lets -underBinder

theorem sendSignal_steady {og : State} {s : State} {q : Fin 256} {x : Xfer} {d : Nat} {n : BitVec 16} (hs : Steady og s) : Steady og (sendSignal s q x d n) := by
  unfold sendSignal
  repeat' first
    | with_reducible assumption
    | with_reducible apply sendKept_steady

theorem openRemote_steady {og : State} {s : State} {q : Fin 256} {m : Nat} (hs : Steady og s) : Steady og (openRemote s q m) := by
  unfold openRemote
  repeat' first
    | with_reducible assumption
    | with_reducible apply State.modQueue_steady
    | with_reducible apply takeXferNo_steady
    | split

theorem execTransferStart_steady {og : State} {q : Fin 256} {s : State} (hs : Steady og s) : OutSteady og (execTransferStart q s) := by
  unfold execTransferStart
  repeat' first
    | with_reducible assumption
    | (intro z; refine (fun hz => ?_ : Steady og z → _) ?_; rotate_left; subst z; rotate_left; clear_value z)
    | (intro z; clear_value z)
    | with_reducible apply OutSteady.next
    | with_reducible apply State.setQueue_steady
    | with_reducible apply endXfer_steady
    | with_reducible apply checkComplete_steady
    | with_reducible apply sendSignal_steady
    | with_reducible apply openRemote_steady
    | split
    | lift_lets -underBinder

theorem settleHalt_steady {og : State} {s : State} {q : Fin 256} (hs : Steady og s) : Steady og (settleHalt s q) := by
  unfold settleHalt
  repeat' first
    | with_reducible assumption
    | (intro z; clear_value z)
    | with_reducible apply State.setQueue_steady
    | split
    | lift_lets -underBinder

theorem haltXfer_steady {og : State} {s : State} {q : Fin 256} {addr : Nat} {write : Bool} (hs : Steady og s) : Steady og (haltXfer s q addr write) := by
  unfold haltXfer
  repeat' first
    | with_reducible assumption
    | (intro z; clear_value z)
    | intro _
    | with_reducible apply State.modQueue_steady
    | with_reducible apply count_steady
    | with_reducible apply settleHalt_steady
    | with_reducible apply foldl_steady
    | with_reducible apply foldl_fst_steady
    | split
    | lift_lets -underBinder
    | simp -zeta only [Steady.mk]
    | with_reducible refine Steady.fst ?_ ‹_ = (_, _)›
    | with_reducible refine OptSteadyP.of ?_ ‹_ = some (_, _)›

theorem backOut_steady {og : State} {s : State} {q : Fin 256} {p : StreamReq → Bool} (hs : Steady og s) : Steady og (backOut s q p) := by
  unfold backOut
  repeat' first
    | with_reducible assumption
    | (intro z; clear_value z)
    | intro _
    | with_reducible apply State.modQueue_steady
    | with_reducible apply foldl_steady
    | with_reducible apply foldl_fst_steady
    | split
    | lift_lets -underBinder
    | simp -zeta only [Steady.mk]
    | with_reducible refine Steady.fst ?_ ‹_ = (_, _)›
    | with_reducible refine OptSteadyP.of ?_ ‹_ = some (_, _)›

theorem execStreamResume_steady {og : State} {q : Fin 256} {s : State} (hs : Steady og s) : OutSteady og (execStreamResume q s) := by
  unfold execStreamResume
  repeat' first
    | with_reducible assumption
    | (intro z; clear_value z)
    | with_reducible apply OutSteady.next
    | with_reducible apply State.setQueue_steady
    | split
    | lift_lets -underBinder

theorem setTunSet_steady {og : State} {s : State} {die : Fin 4} {line : Nat} {l : List TunLine} (hs : Steady og s) : Steady og (setTunSet s die line l) := by
  unfold setTunSet
  repeat' first
    | with_reducible assumption
    | (intro z; clear_value z)
    | lift_lets -underBinder
    | simp -zeta only [Steady.mk]

theorem tunTouch_steady {og : State} {s : State} {die : Fin 4} {line : Nat} (hs : Steady og s) : Steady og (tunTouch s die line) := by
  unfold tunTouch
  repeat' first
    | with_reducible assumption
    | (intro z; clear_value z)
    | with_reducible apply count_steady
    | with_reducible apply setTunSet_steady
    | split
    | lift_lets -underBinder

theorem tunFill_steady {og : State} {s : State} {die : Fin 4} {line : Nat} {dom : Nat} {join : Bool} (hs : Steady og s) : Steady og (tunFill s die line dom join) := by
  unfold tunFill
  repeat' first
    | with_reducible assumption
    | (intro z; clear_value z)
    | intro _
    | with_reducible apply count_steady
    | with_reducible apply bumpIssue_steady
    | with_reducible apply foldl_steady
    | with_reducible apply foldl_fst_steady
    | split
    | lift_lets -underBinder
    | simp -zeta only [Steady.mk]
    | with_reducible refine Steady.fst ?_ ‹_ = (_, _)›
    | with_reducible refine OptSteadyP.of ?_ ‹_ = some (_, _)›

theorem devReadMeet_steady {og : State} {s : State} {die : Fin 4} {a : Nat} {n : Nat} {d : Nat} (hs : Steady og s) : Steady og (devReadMeet s die a n d).1 := by
  unfold devReadMeet
  repeat' first
    | with_reducible assumption
    | (intro z; refine (fun hz => ?_ : Steady og z.1 → _) ?_; rotate_left; subst z; rotate_left; clear_value z)
    | (intro z; refine (fun hz => ?_ : (∀ s, Steady og s → Steady og (z s).1) → _) ?_; rotate_left; subst z; rotate_left; clear_value z)
    | (intro z; clear_value z)
    | intro _
    | with_reducible apply devMeet_steady
    | with_reducible apply tunTouch_steady
    | with_reducible apply tunFill_steady
    | split
    | lift_lets -underBinder
    | with_reducible apply_assumption

theorem readPiece_steady {og : State} {die : Fin 4} {dom : Nat} {have' : List (BitVec 38)} {r : ReadAcc} {p : Nat × Nat} (hr : Steady og r.st) : Steady og (readPiece die dom have' r p).st := by
  unfold readPiece
  repeat' first
    | with_reducible assumption
    | (intro z; refine (fun hz => ?_ : Steady og z → _) ?_; rotate_left; subst z; rotate_left; clear_value z)
    | (intro z; refine (fun hz => ?_ : Steady og z.1 → _) ?_; rotate_left; subst z; rotate_left; clear_value z)
    | (intro z; clear_value z)
    | intro _
    | with_reducible apply devReadMeet_steady
    | with_reducible apply foldl_steady
    | with_reducible apply foldl_fst_steady
    | split
    | lift_lets -underBinder
    | simp -zeta only [Steady.mk]
    | with_reducible refine Steady.fst ?_ ‹_ = (_, _)›
    | with_reducible refine OptSteadyP.of ?_ ‹_ = some (_, _)›

theorem readPieces_steady {og : State} {s : State} {die : Fin 4} {dom : Nat} {h : List (BitVec 38)} {l : List (Nat × Nat)} (hs : Steady og s) : Steady og (readPieces s die dom h l).st := by
  unfold readPieces
  have key : ∀ (r : ReadAcc), Steady og r.st → Steady og (l.foldl (readPiece die dom h) r).st := by
    induction l with
    | nil => exact fun _ k => k
    | cons p t ih => exact fun r k => ih _ (readPiece_steady k)
  exact key _ hs

theorem meetRanges_steady {og : State} {dom : Nat} {write : Bool} {die : Fin 5} {l : List (Nat × Nat)} :
    ∀ {s : State}, Steady og s → Steady og (meetRanges dom write die l s).1 := by
  induction l with
  | nil => intro s h; exact h
  | cons p t ih =>
    intro s h
    unfold meetRanges
    dsimp only
    split
    · exact ih (devMeet_steady h)
    · exact devMeet_steady h

theorem dstMeet_steady {og : State} {s : State} {q : Fin 256} {d : Nat} {x : Xfer} {dom : Nat} {a : Nat} {n : Nat} (hs : Steady og s) : Steady og (dstMeet s q d x dom a n).1 := by
  unfold dstMeet
  repeat' first
    | with_reducible assumption
    | (intro z; clear_value z)
    | intro _
    | with_reducible apply meetRanges_steady
    | with_reducible apply foldl_steady
    | with_reducible apply foldl_fst_steady
    | split
    | lift_lets -underBinder
    | simp -zeta only [Steady.mk]
    | with_reducible refine Steady.fst ?_ ‹_ = (_, _)›
    | with_reducible refine OptSteadyP.of ?_ ‹_ = some (_, _)›

theorem pushRequest_steady {og : State} {s : State} {q : Fin 256} {d : Nat} {x : Xfer} {r : StreamReq} (hs : Steady og s) : Steady og (pushRequest s q d x r) := by
  unfold pushRequest
  repeat' first
    | with_reducible assumption
    | (intro z; refine (fun hz => ?_ : Steady og z → _) ?_; rotate_left; subst z; rotate_left; clear_value z)
    | (intro z; refine (fun hz => ?_ : Steady og z.1 → _) ?_; rotate_left; subst z; rotate_left; clear_value z)
    | (intro z; refine (fun hz => ?_ : (∀ s, Steady og s → Steady og (z s)) → _) ?_; rotate_left; subst z; rotate_left; clear_value z)
    | (intro z; refine (fun hz => ?_ : (∀ s a0, Steady og s → Steady og (z s a0)) → _) ?_; rotate_left; subst z; rotate_left; clear_value z)
    | (intro z; refine (fun hz => ?_ : (∀ s a0 a1, Steady og s → Steady og (z s a0 a1)) → _) ?_; rotate_left; subst z; rotate_left; clear_value z)
    | (intro z; refine (fun hz => ?_ : (∀ s a0 a1 a2, Steady og s → Steady og (z s a0 a1 a2)) → _) ?_; rotate_left; subst z; rotate_left; clear_value z)
    | (intro z; refine (fun hz => ?_ : (∀ s a0, Steady og s → Steady og (z s a0).1) → _) ?_; rotate_left; subst z; rotate_left; clear_value z)
    | (intro z; refine (fun hz => ?_ : (∀ s a0 a1, Steady og s → Steady og (z s a0 a1).1) → _) ?_; rotate_left; subst z; rotate_left; clear_value z)
    | (intro z; clear_value z)
    | intro _
    | with_reducible apply State.modQueue_steady
    | with_reducible apply sendKept_steady
    | with_reducible apply nextIssue_steady
    | with_reducible apply sendSignal_steady
    | with_reducible apply foldl_steady
    | with_reducible apply foldl_fst_steady
    | split
    | lift_lets -underBinder
    | simp -zeta only [Steady.mk]
    | with_reducible refine Steady.fst ?_ ‹_ = (_, _)›
    | with_reducible refine OptSteadyP.of ?_ ‹_ = some (_, _)›
    | with_reducible apply_assumption

theorem srcRead_steady {og : State} {s : State} {q : Fin 256} {d : Nat} {x : Xfer} {dom : Nat} {a : Nat} {n : Nat} (hs : Steady og s) : Steady og (srcRead s q d x dom a n).acc.st := by
  unfold srcRead
  dsimp only
  repeat' split
  all_goals first | exact hs | exact readPieces_steady hs

theorem issueRequest_steady {og : State} {s : State} {q : Fin 256} {d : Nat} {x : Xfer} (hs : Steady og s) : Steady og (issueRequest s q d x) := by
  unfold issueRequest
  repeat' first
    | with_reducible assumption
    | (intro z; refine (fun hz => ?_ : Steady og z → _) ?_; rotate_left; subst z; rotate_left; clear_value z)
    | (intro z; refine (fun hz => ?_ : Steady og z.1 → _) ?_; rotate_left; subst z; rotate_left; clear_value z)
    | (intro z; refine (fun hz => ?_ : Steady og z.st → _) ?_; rotate_left; subst z; rotate_left; clear_value z)
    | (intro z; refine (fun hz => ?_ : Steady og z.acc.st → _) ?_; rotate_left; subst z; rotate_left; clear_value z)
    | (intro z; clear_value z)
    | intro _
    | with_reducible apply endXfer_steady
    | with_reducible apply haltXfer_steady
    | with_reducible apply dstMeet_steady
    | with_reducible apply pushRequest_steady
    | with_reducible apply srcRead_steady
    | with_reducible apply foldl_steady
    | with_reducible apply foldl_fst_steady
    | split
    | lift_lets -underBinder
    | simp -zeta only [Steady.mk]
    | with_reducible refine Steady.fst ?_ ‹_ = (_, _)›
    | with_reducible refine OptSteadyP.of ?_ ‹_ = some (_, _)›

theorem takeTurn_steady {og : State} {s : State} {q : Fin 256} (hs : Steady og s) : Steady og (takeTurn s q) := by
  unfold takeTurn
  repeat' first
    | with_reducible assumption
    | (intro z; clear_value z)
    | intro _
    | with_reducible apply foldl_steady
    | with_reducible apply foldl_fst_steady
    | split
    | lift_lets -underBinder
    | simp -zeta only [Steady.mk]
    | with_reducible refine Steady.fst ?_ ‹_ = (_, _)›
    | with_reducible refine OptSteadyP.of ?_ ‹_ = some (_, _)›

theorem execStreamRequestIssue_steady {og : State} {q : Fin 256} {s : State} (hs : Steady og s) : OutSteady og (execStreamRequestIssue q s) := by
  unfold execStreamRequestIssue
  repeat' first
    | with_reducible assumption
    | (intro z; refine (fun hz => ?_ : Steady og z → _) ?_; rotate_left; subst z; rotate_left; clear_value z)
    | (intro z; refine (fun hz => ?_ : Steady og z.1 → _) ?_; rotate_left; subst z; rotate_left; clear_value z)
    | (intro z; clear_value z)
    | intro _
    | with_reducible apply OutSteady.next
    | with_reducible apply endXfer_steady
    | with_reducible apply openRemote_steady
    | with_reducible apply issueRequest_steady
    | with_reducible apply takeTurn_steady
    | with_reducible apply foldl_steady
    | with_reducible apply foldl_fst_steady
    | split
    | lift_lets -underBinder
    | simp -zeta only [Steady.mk]
    | with_reducible refine Steady.fst ?_ ‹_ = (_, _)›
    | with_reducible refine OptSteadyP.of ?_ ‹_ = some (_, _)›

theorem landRequest_steady {og : State} {s : State} {q : Fin 256} {d : Nat} {x : Xfer} {r : StreamReq} (hs : Steady og s) : Steady og (landRequest s q d x r).1 := by
  unfold landRequest
  repeat' first
    | with_reducible assumption
    | (intro z; refine (fun hz => ?_ : Steady og z → _) ?_; rotate_left; subst z; rotate_left; clear_value z)
    | (intro z; refine (fun hz => ?_ : Steady og z.1 → _) ?_; rotate_left; subst z; rotate_left; clear_value z)
    | (intro z; clear_value z)
    | intro _
    | with_reducible apply State.sramWrite_steady
    | with_reducible apply devStore_steady
    | with_reducible apply devWrite_steady
    | with_reducible apply meetRanges_steady
    | with_reducible apply foldl_steady
    | with_reducible apply foldl_fst_steady
    | split
    | lift_lets -underBinder
    | simp -zeta only [Steady.mk]
    | with_reducible refine Steady.fst ?_ ‹_ = (_, _)›
    | with_reducible refine OptSteadyP.of ?_ ‹_ = some (_, _)›

theorem requestDone_steady {og : State} {s : State} {q : Fin 256} {r : StreamReq} (hs : Steady og s) : Steady og (requestDone s q r) := by
  unfold requestDone
  repeat' first
    | with_reducible assumption
    | with_reducible apply State.modQueue_steady

theorem haltLanding_steady {og : State} {s : State} {q : Fin 256} {r : StreamReq} {addr : Nat} (hs : Steady og s) : Steady og (haltLanding s q r addr) := by
  unfold haltLanding
  repeat' first
    | with_reducible assumption
    | (intro z; refine (fun hz => ?_ : Steady og z → _) ?_; rotate_left; subst z; rotate_left; clear_value z)
    | (intro z; refine (fun hz => ?_ : Steady og z.1 → _) ?_; rotate_left; subst z; rotate_left; clear_value z)
    | (intro z; clear_value z)
    | intro _
    | with_reducible apply haltXfer_steady
    | with_reducible apply backOut_steady
    | with_reducible apply foldl_steady
    | with_reducible apply foldl_fst_steady
    | split
    | lift_lets -underBinder
    | simp -zeta only [Steady.mk]
    | with_reducible refine Steady.fst ?_ ‹_ = (_, _)›
    | with_reducible refine OptSteadyP.of ?_ ‹_ = some (_, _)›

theorem execStreamRequestComplete_steady {og : State} {q : Fin 256} {k : Nat} {s : State} (hs : Steady og s) : OutSteady og (execStreamRequestComplete q k s) := by
  unfold execStreamRequestComplete
  repeat' first
    | with_reducible assumption
    | (intro z; refine (fun hz => ?_ : Steady og z → _) ?_; rotate_left; subst z; rotate_left; clear_value z)
    | (intro z; refine (fun hz => ?_ : Steady og z.1 → _) ?_; rotate_left; subst z; rotate_left; clear_value z)
    | (intro z; clear_value z)
    | intro _
    | with_reducible apply OutSteady.next
    | with_reducible apply endXfer_steady
    | with_reducible apply checkComplete_steady
    | with_reducible apply settleHalt_steady
    | with_reducible apply landRequest_steady
    | with_reducible apply requestDone_steady
    | with_reducible apply haltLanding_steady
    | with_reducible apply foldl_steady
    | with_reducible apply foldl_fst_steady
    | split
    | lift_lets -underBinder
    | simp -zeta only [Steady.mk]
    | with_reducible refine Steady.fst ?_ ‹_ = (_, _)›
    | with_reducible refine OptSteadyP.of ?_ ‹_ = some (_, _)›

theorem execDrainReady_steady {og : State} {q : Fin 256} {s : State} (hs : Steady og s) : OutSteady og (execDrainReady q s) := by
  unfold execDrainReady
  repeat' first
    | with_reducible assumption
    | (intro z; clear_value z)
    | with_reducible apply OutSteady.next
    | with_reducible apply takeCredit_steady
    | split
    | lift_lets -underBinder

theorem execDeadlineExpiry_steady {og : State} {q : Fin 256} {s : State} (hs : Steady og s) : OutSteady og (execDeadlineExpiry q s) := by
  unfold execDeadlineExpiry
  repeat' first
    | with_reducible assumption
    | (intro z; refine (fun hz => ?_ : Steady og z → _) ?_; rotate_left; subst z; rotate_left; clear_value z)
    | (intro z; clear_value z)
    | intro _
    | with_reducible apply OutSteady.next
    | with_reducible apply State.setCtx_steady
    | with_reducible apply State.setQueue_steady
    | with_reducible apply State.forAll_steady
    | with_reducible apply emit_steady
    | with_reducible apply count_steady
    | with_reducible apply resched_steady
    | split
    | lift_lets -underBinder

theorem execCreditWatchExpiry_steady {og : State} {q : Fin 256} {s : State} (hs : Steady og s) : OutSteady og (execCreditWatchExpiry q s) := by
  unfold execCreditWatchExpiry
  repeat' first
    | with_reducible assumption
    | (intro z; clear_value z)
    | with_reducible apply OutSteady.next
    | with_reducible apply State.modQueue_steady
    | with_reducible apply emit_steady
    | with_reducible apply signalRelease_steady
    | with_reducible apply xferFault_steady
    | with_reducible apply endXfer_steady
    | split
    | lift_lets -underBinder

theorem abortQueue_steady {og : State} {s : State} {q : Fin 256} (hs : Steady og s) : Steady og (abortQueue s q) := by
  unfold abortQueue
  repeat' first
    | with_reducible assumption
    | with_reducible apply State.setQueue_steady
    | with_reducible apply withdrawCredit_steady
    | with_reducible apply dropRemote_steady
    | split

theorem execStqCtlAbort_steady {og : State} {q : Fin 256} {s : State} (hs : Steady og s) : OutSteady og (execStqCtlAbort q s) := by
  unfold execStqCtlAbort
  repeat' first
    | with_reducible assumption
    | with_reducible apply OutSteady.next
    | with_reducible apply State.modQueue_steady
    | with_reducible apply abortQueue_steady

theorem serveFill_steady {og : State} {s : State} {die : Fin 4} {line : BitVec 38} (hs : Steady og s) : Steady og (serveFill s die line) := by
  unfold serveFill
  repeat' first
    | with_reducible assumption
    | (intro z; refine (fun hz => ?_ : Steady og z → _) ?_; rotate_left; subst z; rotate_left; clear_value z)
    | (intro z; clear_value z)
    | intro _
    | with_reducible apply State.setQueue_steady
    | with_reducible apply State.forAll_steady
    | lift_lets -underBinder
    | simp -zeta only [Steady.mk]

theorem dropFill_steady {og : State} {s : State} {die : Fin 4} {line : BitVec 38} (hs : Steady og s) : Steady og (dropFill s die line) := by
  unfold dropFill
  repeat' first
    | with_reducible assumption
    | (intro z; clear_value z)
    | intro _
    | with_reducible apply foldl_steady
    | with_reducible apply foldl_fst_steady
    | split
    | lift_lets -underBinder
    | simp -zeta only [Steady.mk]
    | with_reducible refine Steady.fst ?_ ‹_ = (_, _)›
    | with_reducible refine OptSteadyP.of ?_ ‹_ = some (_, _)›

theorem failFill_steady {og : State} {s : State} {die : Fin 4} {line : BitVec 38} (hs : Steady og s) : Steady og (failFill s die line) := by
  unfold failFill
  repeat' first
    | with_reducible assumption
    | (intro z; clear_value z)
    | intro _
    | with_reducible apply State.forAll_steady
    | with_reducible apply endXfer_steady
    | with_reducible apply dropFill_steady
    | with_reducible apply foldl_steady
    | with_reducible apply foldl_fst_steady
    | split
    | lift_lets -underBinder
    | simp -zeta only [Steady.mk]
    | with_reducible refine Steady.fst ?_ ‹_ = (_, _)›
    | with_reducible refine OptSteadyP.of ?_ ‹_ = some (_, _)›

theorem haltFill_steady {og : State} {s : State} {die : Fin 4} {line : BitVec 38} (hs : Steady og s) : Steady og (haltFill s die line) := by
  unfold haltFill
  repeat' first
    | with_reducible assumption
    | (intro z; refine (fun hz => ?_ : Steady og z → _) ?_; rotate_left; subst z; rotate_left; clear_value z)
    | (intro z; refine (fun hz => ?_ : Steady og z.1 → _) ?_; rotate_left; subst z; rotate_left; clear_value z)
    | (intro z; clear_value z)
    | intro _
    | with_reducible apply State.forAll_steady
    | with_reducible apply haltXfer_steady
    | with_reducible apply backOut_steady
    | with_reducible apply dropFill_steady
    | with_reducible apply foldl_steady
    | with_reducible apply foldl_fst_steady
    | split
    | lift_lets -underBinder
    | simp -zeta only [Steady.mk]
    | with_reducible refine Steady.fst ?_ ‹_ = (_, _)›
    | with_reducible refine OptSteadyP.of ?_ ‹_ = some (_, _)›

theorem execTunFillComplete_steady {og : State} {die : Fin 4} {line : BitVec 38} {s : State} (hs : Steady og s) : OutSteady og (execTunFillComplete die line s) := by
  unfold execTunFillComplete
  repeat' first
    | with_reducible assumption
    | (intro z; refine (fun hz => ?_ : Steady og z → _) ?_; rotate_left; subst z; rotate_left; clear_value z)
    | (intro z; refine (fun hz => ?_ : Steady og z.1 → _) ?_; rotate_left; subst z; rotate_left; clear_value z)
    | (intro z; clear_value z)
    | intro _
    | with_reducible apply OutSteady.next
    | with_reducible apply startBacking_steady
    | with_reducible apply setTunSet_steady
    | with_reducible apply serveFill_steady
    | with_reducible apply failFill_steady
    | with_reducible apply haltFill_steady
    | with_reducible apply foldl_steady
    | with_reducible apply foldl_fst_steady
    | split
    | lift_lets -underBinder
    | simp -zeta only [Steady.mk]
    | with_reducible refine Steady.fst ?_ ‹_ = (_, _)›
    | with_reducible refine OptSteadyP.of ?_ ‹_ = some (_, _)›

theorem execSmt_steady {og : State} {u : Issue} {f : SmtFields} {s : State} (hs : Steady og s) : OutSteady og (execSmt u f s) := by
  unfold execSmt
  repeat' first
    | with_reducible assumption
    | (intro z; refine (fun hz => ?_ : Steady og z → _) ?_; rotate_left; subst z; rotate_left; clear_value z)
    | (intro z; refine (fun hz => ?_ : Steady og z.1 → _) ?_; rotate_left; subst z; rotate_left; clear_value z)
    | (intro z; clear_value z)
    | intro _
    | with_reducible apply OutSteady.next
    | with_reducible apply advance_steady
    | with_reducible apply issue_steady
    | with_reducible apply issueFault_steady
    | with_reducible apply nextIssue_steady
    | split
    | lift_lets -underBinder
    | simp -zeta only [Steady.mk]

theorem smtDone_steady {og : State} {s : State} {m : Smt} (hs : Steady og s) : Steady og (smtDone s m) := by
  unfold smtDone
  repeat' first
    | with_reducible assumption
    | (intro z; clear_value z)
    | intro _
    | with_reducible apply State.setChan_steady
    | with_reducible apply State.forAll_steady
    | with_reducible apply settleCtx_steady
    | with_reducible apply serveChan_steady
    | split
    | lift_lets -underBinder
    | simp -zeta only [Steady.mk]

theorem smtFault_steady {og : State} {s : State} {m : Smt} {r : Access} (hs : Steady og s) : Steady og (smtFault s m r) := by
  unfold smtFault
  repeat' first
    | with_reducible assumption
    | with_reducible apply faultIssuer_steady
    | with_reducible apply smtDone_steady

theorem acceptRecord_steady {og : State} {s : State} {m : Smt} {pass : Bool} (hs : Steady og s) : Steady og (acceptRecord s m pass) := by
  unfold acceptRecord
  repeat' first
    | with_reducible assumption
    | (intro z; clear_value z)
    | with_reducible apply smtDone_steady
    | lift_lets -underBinder
    | simp -zeta only [Steady.mk]

theorem smtStore_steady {og : State} {s : State} {m : Smt} {p : Nat × Nat × Nat} (hs : Steady og s) : Steady og (smtStore s m p).1 := by
  unfold smtStore
  repeat' first
    | with_reducible assumption
    | (intro z; refine (fun hz => ?_ : Steady og z.1 → _) ?_; rotate_left; subst z; rotate_left; clear_value z)
    | with_reducible apply devMeet_steady
    | with_reducible apply devWrite_steady
    | split
    | lift_lets -underBinder

theorem smtLoad_steady {og : State} {s : State} {m : Smt} (hs : Steady og s) : Steady og (smtLoad s m).st := by
  unfold smtLoad
  repeat' first
    | with_reducible assumption
    | (intro z; refine (fun hz => ?_ : Steady og z.st → _) ?_; rotate_left; subst z; rotate_left; clear_value z)
    | (intro z; refine (fun hz => ?_ : Steady og z.acc.st → _) ?_; rotate_left; subst z; rotate_left; clear_value z)
    | (intro z; clear_value z)
    | intro _
    | with_reducible apply readPieces_steady
    | with_reducible apply foldl_steady
    | with_reducible apply foldl_fst_steady
    | split
    | lift_lets -underBinder
    | simp -zeta only [Steady.mk]
    | with_reducible refine Steady.fst ?_ ‹_ = (_, _)›
    | with_reducible refine OptSteadyP.of ?_ ‹_ = some (_, _)›

theorem smtWaits_steady {og : State} {s : State} {m : Smt} {r : ReadAcc} (hs : Steady og s) (hr : Steady og r.st) : Steady og (smtWaits s m r) := by
  unfold smtWaits
  repeat' first
    | with_reducible assumption
    | (intro z; clear_value z)
    | intro _
    | with_reducible apply foldl_steady
    | with_reducible apply foldl_fst_steady
    | split
    | lift_lets -underBinder
    | simp -zeta only [Steady.mk]
    | with_reducible refine Steady.fst ?_ ‹_ = (_, _)›
    | with_reducible refine OptSteadyP.of ?_ ‹_ = some (_, _)›

theorem smtStores_steady {og : State} {s : State} {m : Smt} (hs : Steady og s) : Steady og (smtStores s m) := by
  unfold smtStores
  repeat' first
    | with_reducible assumption
    | (intro z; refine (fun hz => ?_ : Steady og z → _) ?_; rotate_left; subst z; rotate_left; clear_value z)
    | (intro z; refine (fun hz => ?_ : Steady og z.1 → _) ?_; rotate_left; subst z; rotate_left; clear_value z)
    | (intro z; clear_value z)
    | intro _
    | with_reducible apply meetRanges_steady
    | with_reducible apply smtDone_steady
    | with_reducible apply smtFault_steady
    | with_reducible apply smtStore_steady
    | with_reducible apply foldl_steady
    | with_reducible apply foldl_fst_steady
    | split
    | lift_lets -underBinder
    | simp -zeta only [Steady.mk]
    | with_reducible refine Steady.fst ?_ ‹_ = (_, _)›
    | with_reducible refine OptSteadyP.of ?_ ‹_ = some (_, _)›

theorem smtLoads_steady {og : State} {s : State} {m : Smt} (hs : Steady og s) : Steady og (smtLoads s m) := by
  unfold smtLoads
  repeat' first
    | with_reducible assumption
    | (intro z; refine (fun hz => ?_ : Steady og z.st → _) ?_; rotate_left; subst z; rotate_left; clear_value z)
    | (intro z; refine (fun hz => ?_ : Steady og z.acc.st → _) ?_; rotate_left; subst z; rotate_left; clear_value z)
    | (intro z; clear_value z)
    | intro _
    | with_reducible apply State.sramWrite_steady
    | with_reducible apply smtDone_steady
    | with_reducible apply smtFault_steady
    | with_reducible apply smtLoad_steady
    | with_reducible apply smtWaits_steady
    | with_reducible apply foldl_steady
    | with_reducible apply foldl_fst_steady
    | split
    | lift_lets -underBinder
    | simp -zeta only [Steady.mk]
    | with_reducible refine Steady.fst ?_ ‹_ = (_, _)›
    | with_reducible refine OptSteadyP.of ?_ ‹_ = some (_, _)›

theorem execSmtComplete_steady {og : State} {t : Fin 192} {c : Fin 4} {s : State} (hs : Steady og s) : OutSteady og (execSmtComplete t c s) := by
  unfold execSmtComplete
  repeat' first
    | with_reducible assumption
    | (intro z; clear_value z)
    | intro _
    | with_reducible apply OutSteady.next
    | with_reducible apply acceptRecord_steady
    | with_reducible apply smtStores_steady
    | with_reducible apply smtLoads_steady
    | with_reducible apply foldl_steady
    | with_reducible apply foldl_fst_steady
    | split
    | lift_lets -underBinder
    | simp -zeta only [Steady.mk]
    | with_reducible refine Steady.fst ?_ ‹_ = (_, _)›
    | with_reducible refine OptSteadyP.of ?_ ‹_ = some (_, _)›

/-! Machine/Seq. -/

theorem State.setSeq_steady {og : State} {s : State} {h : Nat} {x : SeqEntry} (hs : Steady og s) : Steady og (State.setSeq s h x) := by
  unfold State.setSeq
  repeat' first
    | with_reducible assumption
    | (intro z; clear_value z)
    | lift_lets -underBinder
    | simp -zeta only [Steady.mk]

theorem takeSlot_steady {og : State} {s : State} (hs : Steady og s) : Steady og (takeSlot s).1 := by
  unfold takeSlot
  repeat' first
    | with_reducible assumption
    | (intro z; clear_value z)
    | split
    | lift_lets -underBinder
    | simp -zeta only [Steady.mk]

theorem takePage_steady {og : State} {s : State} {e : SeqEntry} (hs : Steady og s) : Steady og (takePage s e).1 := by
  unfold takePage
  repeat' first
    | with_reducible assumption
    | with_reducible apply State.setPage_steady
    | with_reducible apply takeSlot_steady

theorem dropRef_steady {og : State} {s : State} {p : Nat} (hs : Steady og s) : Steady og (dropRef s p) := by
  unfold dropRef
  repeat' first
    | with_reducible assumption
    | (intro z; clear_value z)
    | with_reducible apply State.setPage_steady
    | split
    | lift_lets -underBinder

theorem addRef_steady {og : State} {s : State} {p : Nat} (hs : Steady og s) : Steady og (addRef s p) := by
  unfold addRef
  repeat' first
    | with_reducible assumption
    | with_reducible apply State.setPage_steady

theorem dropHub_steady {og : State} {s : State} {g : Nat} (hs : Steady og s) : Steady og (dropHub s g) := by
  unfold dropHub
  repeat' first
    | with_reducible assumption
    | (intro z; clear_value z)
    | intro _
    | with_reducible apply foldl_steady
    | with_reducible apply foldl_fst_steady
    | split
    | lift_lets -underBinder
    | simp -zeta only [Steady.mk]
    | with_reducible refine Steady.fst ?_ ‹_ = (_, _)›
    | with_reducible refine OptSteadyP.of ?_ ‹_ = some (_, _)›

theorem setItem_steady {og : State} {s : State} {g : Nat} {i : ListItem} (hs : Steady og s) : Steady og (setItem s g i) := by
  unfold setItem
  repeat' first
    | with_reducible assumption
    | (intro z; clear_value z)
    | lift_lets -underBinder
    | simp -zeta only [Steady.mk]

theorem allocItem_steady {og s : State} {h n : Nat} (hs : Steady og s) : OptSteadyP og (allocItem s h n) :=
  OptSteadyP.mapv fun _ => setItem_steady hs

theorem allocItems_steady {og s : State} {h n k : Nat} (hs : Steady og s) : OptSteadyP og (allocItems s h n k) := by
  induction k with
  | zero => exact OptSteadyP.some' hs
  | succ k ih =>
    unfold allocItems
    split
    · exact OptSteadyP.none'
    · exact OptSteadyP.map (allocItem_steady (ih.of ‹_›)) fun _ h => h

theorem retireItem_steady {og : State} {s : State} {a : Nat} {last : Bool} (hs : Steady og s) : Steady og (retireItem s a last) := by
  unfold retireItem
  repeat' first
    | with_reducible assumption
    | with_reducible apply setItem_steady

theorem writeEntries_steady {og : State} {s : State} {list : Nat} {n : Nat} {es : List (Nat × Nat)} (hs : Steady og s) : Steady og (writeEntries s list n es) := by
  unfold writeEntries
  repeat' first
    | with_reducible assumption
    | intro _
    | with_reducible apply State.forAll_steady
    | with_reducible apply hubStore_steady
    | with_reducible apply setItem_steady

theorem writeVersion_steady {og : State} {s : State} {a : Nat} {h : Nat} {version : Word32} {base : Nat} {length : Nat} {lists : List Nat} (hs : Steady og s) : Steady og (writeVersion s a h version base length lists) := by
  unfold writeVersion
  repeat' first
    | with_reducible assumption
    | with_reducible apply hubStore_steady

theorem publish_steady {og : State} {s : State} {h : Nat} {a : Nat} {base : Nat} {length : Nat} {lists : List Nat} (hs : Steady og s) : Steady og (publish s h a base length lists) := by
  unfold publish
  repeat' first
    | with_reducible assumption
    | (intro z; refine (fun hz => ?_ : Steady og z → _) ?_; rotate_left; subst z; rotate_left; clear_value z)
    | (intro z; clear_value z)
    | with_reducible apply State.setSeq_steady
    | with_reducible apply retireItem_steady
    | with_reducible apply writeVersion_steady
    | split
    | lift_lets -underBinder
    | simp -zeta only [Steady.mk]

theorem releasePage_steady {og : State} {s : State} {p : Nat} (hs : Steady og s) : Steady og (releasePage s p) := by
  unfold releasePage
  repeat' first
    | with_reducible assumption
    | (intro z; refine (fun hz => ?_ : Steady og z → _) ?_; rotate_left; subst z; rotate_left; clear_value z)
    | (intro z; refine (fun hz => ?_ : Steady og z.1 → _) ?_; rotate_left; subst z; rotate_left; clear_value z)
    | (intro z; clear_value z)
    | intro _
    | with_reducible apply State.forAll_steady
    | with_reducible apply State.setPage_steady
    | with_reducible apply releaseGrain_steady
    | with_reducible apply dropHub_steady
    | with_reducible apply foldl_steady
    | with_reducible apply foldl_fst_steady
    | split
    | lift_lets -underBinder
    | simp -zeta only [Steady.mk]
    | with_reducible refine Steady.fst ?_ ‹_ = (_, _)›
    | with_reducible refine OptSteadyP.of ?_ ‹_ = some (_, _)›

theorem releaseItem_steady {og : State} {s : State} {g : Nat} (hs : Steady og s) : Steady og (releaseItem s g) := by
  unfold releaseItem
  repeat' first
    | with_reducible assumption
    | (intro z; refine (fun hz => ?_ : Steady og z → _) ?_; rotate_left; subst z; rotate_left; clear_value z)
    | (intro z; refine (fun hz => ?_ : Steady og z.1 → _) ?_; rotate_left; subst z; rotate_left; clear_value z)
    | (intro z; clear_value z)
    | intro _
    | with_reducible apply State.forAll_steady
    | with_reducible apply releaseGrain_steady
    | with_reducible apply State.setSeq_steady
    | with_reducible apply dropHub_steady
    | with_reducible apply setItem_steady
    | with_reducible apply foldl_steady
    | with_reducible apply foldl_fst_steady
    | split
    | lift_lets -underBinder
    | simp -zeta only [Steady.mk]
    | with_reducible refine Steady.fst ?_ ‹_ = (_, _)›
    | with_reducible refine OptSteadyP.of ?_ ‹_ = some (_, _)›

theorem reclaim_steady {og : State} {s : State} (hs : Steady og s) : Steady og (reclaim s) := by
  unfold reclaim
  repeat' first
    | with_reducible assumption
    | intro _
    | with_reducible apply State.forAll_steady
    | with_reducible apply releasePage_steady
    | with_reducible apply releaseItem_steady

theorem withReclaim_steady {og : State} {α : Type} {s : State} {f : State → Option α} (hs : Steady og s) :
    Steady og (withReclaim s f).1 := by
  unfold withReclaim
  split
  · exact hs
  · exact reclaim_steady hs

theorem withReclaim_snd_steady {og s : State} {f : State → Option State} (hs : Steady og s)
    (hf : ∀ s, Steady og s → OptSteady og (f s)) : OptSteady og (withReclaim s f).2 := by
  unfold withReclaim
  split
  · exact OptSteady.some' ((hf _ hs).keep _ ‹_›)
  · exact hf _ (reclaim_steady hs)

theorem withReclaim_snd_steadyP {og s : State} {α : Type} {f : State → Option (State × α)} (hs : Steady og s)
    (hf : ∀ s, Steady og s → OptSteadyP og (f s)) : OptSteadyP og (withReclaim s f).2 := by
  unfold withReclaim
  split
  · exact OptSteadyP.some' ((hf _ hs).keep _ ‹_›)
  · exact hf _ (reclaim_steady hs)

theorem createSeq_steady {og : State} {s : State} {h : Nat} {e : SeqEntry} (hs : Steady og s) : OptSteady og (createSeq s h e) := by
  unfold createSeq
  repeat' first
    | with_reducible assumption
    | (intro z; refine (fun hz => ?_ : Steady og z → _) ?_; rotate_left; subst z; rotate_left; clear_value z)
    | intro _
    | with_reducible exact OptSteady.none'
    | with_reducible apply OptSteady.map
    | with_reducible apply State.setSeq_steady
    | with_reducible apply allocItem_steady
    | with_reducible apply allocItems_steady
    | with_reducible apply publish_steady
    | split
    | lift_lets -underBinder
    | with_reducible refine OptSteadyP.of ?_ ‹_ = some (_, _)›

theorem freeSeq_steady {og : State} {s : State} {h : Nat} (hs : Steady og s) : Steady og (freeSeq s h) := by
  unfold freeSeq
  repeat' first
    | with_reducible assumption
    | intro _
    | with_reducible apply State.forAll_steady
    | with_reducible apply State.setSeq_steady
    | with_reducible apply dropRef_steady
    | with_reducible apply retireItem_steady

theorem truncSeq_steady {og : State} {s : State} {h : Nat} {l : Nat} (hs : Steady og s) : OptSteady og (truncSeq s h l) := by
  unfold truncSeq
  repeat' first
    | with_reducible assumption
    | (intro z; clear_value z)
    | intro _
    | with_reducible exact OptSteady.none'
    | with_reducible apply OptSteady.map
    | with_reducible apply State.forAll_steady
    | with_reducible apply dropRef_steady
    | with_reducible apply allocItem_steady
    | with_reducible apply allocItems_steady
    | with_reducible apply retireItem_steady
    | with_reducible apply writeEntries_steady
    | with_reducible apply publish_steady
    | split
    | lift_lets -underBinder
    | with_reducible refine OptSteadyP.of ?_ ‹_ = some (_, _)›

theorem startFork_steady {og : State} {s : State} {m : Fin 8} {src : Nat} {h : Nat} {pEnd : Nat} {capacity : Nat} (hs : Steady og s) : OptSteady og (startFork s m src h pEnd capacity) := by
  unfold startFork
  repeat' first
    | with_reducible assumption
    | (intro z; refine (fun hz => ?_ : Steady og z → _) ?_; rotate_left; subst z; rotate_left; clear_value z)
    | (intro z; clear_value z)
    | intro _
    | with_reducible exact OptSteady.none'
    | with_reducible apply OptSteady.map
    | with_reducible apply State.forAll_steady
    | with_reducible apply State.setSeq_steady
    | with_reducible apply addRef_steady
    | with_reducible apply allocItem_steady
    | with_reducible apply allocItems_steady
    | with_reducible apply writeEntries_steady
    | with_reducible apply writeVersion_steady
    | split
    | lift_lets -underBinder
    | with_reducible refine OptSteadyP.of ?_ ‹_ = some (_, _)›
    | simp -zeta only [Steady.mk]

theorem endFork_steady {og : State} {s : State} {f : SeqFork} (hs : Steady og s) : Steady og (endFork s f) := by
  unfold endFork
  repeat' first
    | with_reducible assumption
    | (intro z; refine (fun hz => ?_ : Steady og z → _) ?_; rotate_left; subst z; rotate_left; clear_value z)
    | (intro z; clear_value z)
    | with_reducible apply hubStore_steady
    | with_reducible apply State.setSeq_steady
    | lift_lets -underBinder
    | simp -zeta only [Steady.mk]

theorem addObj_steady {og : State} {s : State} {a : Nat} {k : Word32} (hs : Steady og s) : Steady og (addObj s a k) := by
  unfold addObj
  repeat' first
    | with_reducible assumption
    | (intro z; clear_value z)
    | with_reducible apply changeCounter_steady
    | with_reducible apply signalDropped_steady
    | split
    | lift_lets -underBinder

theorem wordStore_steady {og : State} {s : State} {w : HubWrite} (hs : Steady og s) : Steady og (wordStore s w) := by
  unfold wordStore
  repeat' first
    | with_reducible assumption
    | (intro z; clear_value z)
    | intro _
    | with_reducible apply devWrite_steady
    | with_reducible apply foldl_steady
    | with_reducible apply foldl_fst_steady
    | split
    | lift_lets -underBinder
    | simp -zeta only [Steady.mk]
    | with_reducible refine Steady.fst ?_ ‹_ = (_, _)›
    | with_reducible refine OptSteadyP.of ?_ ‹_ = some (_, _)›

theorem hubTry_steady {og : State} {s : State} {w : HubWrite} (hs : Steady og s) : Steady og (hubTry s w).1 := by
  unfold hubTry
  repeat' first
    | with_reducible assumption
    | (intro z; refine (fun hz => ?_ : Steady og z → _) ?_; rotate_left; subst z; rotate_left; clear_value z)
    | (intro z; refine (fun hz => ?_ : Steady og z.1 → _) ?_; rotate_left; subst z; rotate_left; clear_value z)
    | (intro z; clear_value z)
    | intro _
    | with_reducible apply startBacking_steady
    | with_reducible apply devStore_steady
    | with_reducible apply devMeet_steady
    | with_reducible apply wordStore_steady
    | with_reducible apply foldl_steady
    | with_reducible apply foldl_fst_steady
    | split
    | lift_lets -underBinder
    | simp -zeta only [Steady.mk]
    | with_reducible refine Steady.fst ?_ ‹_ = (_, _)›
    | with_reducible refine OptSteadyP.of ?_ ‹_ = some (_, _)›

theorem hubAdds_steady {og : State} {s : State} {w : HubWrite} (hs : Steady og s) : Steady og (hubAdds s w) := by
  unfold hubAdds
  repeat' first
    | with_reducible assumption
    | (intro z; clear_value z)
    | intro _
    | with_reducible apply State.forAll_steady
    | with_reducible apply addObj_steady
    | with_reducible apply foldl_steady
    | with_reducible apply foldl_fst_steady
    | split
    | lift_lets -underBinder
    | simp -zeta only [Steady.mk]
    | with_reducible refine Steady.fst ?_ ‹_ = (_, _)›
    | with_reducible refine OptSteadyP.of ?_ ‹_ = some (_, _)›

theorem hubWord_steady {og : State} {s : State} {w : HubWrite} (hs : Steady og s) : Steady og (hubWord s w) := by
  unfold hubWord
  repeat' first
    | with_reducible assumption
    | (intro z; refine (fun hz => ?_ : Steady og z → _) ?_; rotate_left; subst z; rotate_left; clear_value z)
    | (intro z; refine (fun hz => ?_ : Steady og z.1 → _) ?_; rotate_left; subst z; rotate_left; clear_value z)
    | (intro z; clear_value z)
    | intro _
    | with_reducible apply holdHub_steady
    | with_reducible apply hubTry_steady
    | with_reducible apply hubAdds_steady
    | with_reducible apply foldl_steady
    | with_reducible apply foldl_fst_steady
    | split
    | lift_lets -underBinder
    | simp -zeta only [Steady.mk]
    | with_reducible refine Steady.fst ?_ ‹_ = (_, _)›
    | with_reducible refine OptSteadyP.of ?_ ‹_ = some (_, _)›

theorem serveHub_steady {og : State} {s : State} (hs : Steady og s) : Steady og (serveHub s) := by
  unfold serveHub
  repeat' first
    | with_reducible assumption
    | (intro z; refine (fun hz => ?_ : Steady og z → _) ?_; rotate_left; subst z; rotate_left; clear_value z)
    | (intro z; refine (fun hz => ?_ : Steady og z.1 → _) ?_; rotate_left; subst z; rotate_left; clear_value z)
    | (intro z; clear_value z)
    | intro _
    | with_reducible apply hubTry_steady
    | with_reducible apply hubAdds_steady
    | with_reducible apply foldl_steady
    | with_reducible apply foldl_fst_steady
    | split
    | lift_lets -underBinder
    | simp -zeta only [Steady.mk]
    | with_reducible refine Steady.fst ?_ ‹_ = (_, _)›
    | with_reducible refine OptSteadyP.of ?_ ‹_ = some (_, _)›

theorem finishRec_steady {og : State} {s : State} {r : WindowRec} {status : Nat} {value : Nat} (hs : Steady og s) : Steady og (finishRec s r status value) := by
  unfold finishRec
  repeat' first
    | with_reducible assumption
    | (intro z; clear_value z)
    | intro _
    | with_reducible apply hubAdds_steady
    | with_reducible apply hubWord_steady
    | with_reducible apply foldl_steady
    | with_reducible apply foldl_fst_steady
    | split
    | lift_lets -underBinder
    | simp -zeta only [Steady.mk]
    | with_reducible refine Steady.fst ?_ ‹_ = (_, _)›
    | with_reducible refine OptSteadyP.of ?_ ‹_ = some (_, _)›

theorem runRec_steady {og : State} {t : Fin 192} {c : Fin 4} {op : Nat} {s : State} {f : WindowRec → State} (hs : Steady og s) (hf : ∀ (a0 : WindowRec), Steady og (f a0)) : Steady og (runRec t c op s f) := by
  unfold runRec
  repeat' first
    | with_reducible assumption
    | (intro z; clear_value z)
    | with_reducible apply finishRec_steady
    | with_reducible apply hf
    | split
    | lift_lets -underBinder

theorem publishOr_steady {og s : State} {f : State → Option State} {r : WindowRec} {v : Nat} (hs : Steady og s)
    (hf : ∀ s, Steady og s → OptSteady og (f s)) : Steady og (publishOr s f r v) := by
  unfold publishOr
  have h1 := withReclaim_steady (f := f) hs
  have h2 := withReclaim_snd_steady hs hf
  generalize withReclaim s f = w at h1 h2 ⊢
  show Steady og (match w.2 with | some s => _ | none => _)
  split
  · exact finishRec_steady (h2.keep _ ‹_›)
  · exact finishRec_steady h1

theorem takePages_steady {og : State} {α : Type} {s : State} {e : SeqEntry} {l : List α} (hs : Steady og s) : Steady og (takePages s e l).1 := by
  unfold takePages
  repeat' first
    | with_reducible assumption
    | intro _
    | with_reducible apply takePage_steady
    | with_reducible apply foldl_fst_steady

theorem takeItems_steady {og : State} {s : State} {h : Nat} {n : Nat} (hs : Steady og s) : OptSteadyP og (takeItems s h n) := by
  unfold takeItems
  repeat' first
    | with_reducible assumption
    | (intro z; clear_value z)
    | intro _
    | with_reducible apply OptSteadyP.none'
    | with_reducible apply OptSteadyP.some'
    | with_reducible apply OptSteadyP.map
    | with_reducible apply allocItem_steady
    | with_reducible apply allocItems_steady
    | with_reducible apply foldl_steady
    | with_reducible apply foldl_fst_steady
    | split
    | lift_lets -underBinder
    | simp -zeta only [Steady.mk]
    | with_reducible refine Steady.fst ?_ ‹_ = (_, _)›
    | with_reducible refine OptSteadyP.of ?_ ‹_ = some (_, _)›

theorem publishExtend_steady {og : State} {s : State} {h : Nat} {copies : List (Nat × Nat × Nat)} {fresh : List (Nat × Nat × Nat)} {length : Nat} {taken : List Nat} {ver : Nat} (hs : Steady og s) : Steady og (publishExtend s h copies fresh length taken ver) := by
  unfold publishExtend
  repeat' first
    | with_reducible assumption
    | (intro z; clear_value z)
    | intro _
    | with_reducible apply State.forAll_steady
    | with_reducible apply count_steady
    | with_reducible apply dropRef_steady
    | with_reducible apply retireItem_steady
    | with_reducible apply writeEntries_steady
    | with_reducible apply publish_steady
    | with_reducible apply foldl_steady
    | with_reducible apply foldl_fst_steady
    | split
    | lift_lets -underBinder
    | simp -zeta only [Steady.mk]
    | with_reducible refine Steady.fst ?_ ‹_ = (_, _)›
    | with_reducible refine OptSteadyP.of ?_ ‹_ = some (_, _)›

theorem takeNeeds_steady {og : State} {s : State} {e : SeqEntry} {need : List (Nat × Nat) × List (Nat × Nat)} (hs : Steady og s) : Steady og (takeNeeds s e need).1 := by
  unfold takeNeeds
  repeat' first
    | with_reducible assumption
    | with_reducible apply takePages_steady

theorem execExtend_steady {og : State} {t : Fin 192} {c : Fin 4} {s : State} (hs : Steady og s) : OutSteady og (execExtend t c s) := by
  unfold execExtend
  repeat' first
    | with_reducible assumption
    | (intro z; refine (fun hz hw => ?_ : Steady og z.1 → OptSteadyP og z.2 → _) ?_ ?_; rotate_left; subst z; rotate_left; subst z; rotate_left; clear_value z)
    | (intro z; refine (fun hz hw => ?_ : Steady og z.1 → OptSteady og z.2 → _) ?_ ?_; rotate_left; subst z; rotate_left; subst z; rotate_left; clear_value z)
    | (intro z; refine (fun hz => ?_ : Steady og z → _) ?_; rotate_left; subst z; rotate_left; clear_value z)
    | (intro z; refine (fun hz => ?_ : Steady og z.1 → _) ?_; rotate_left; subst z; rotate_left; clear_value z)
    | with_reducible apply withReclaim_snd_steady
    | with_reducible apply withReclaim_snd_steadyP
    | (intro z; clear_value z)
    | intro _
    | with_reducible apply OutSteady.next
    | with_reducible apply reclaim_steady
    | with_reducible apply withReclaim_steady
    | with_reducible apply finishRec_steady
    | with_reducible apply runRec_steady
    | with_reducible apply takeItems_steady
    | with_reducible apply publishExtend_steady
    | with_reducible apply takeNeeds_steady
    | with_reducible apply foldl_steady
    | with_reducible apply foldl_fst_steady
    | split
    | lift_lets -underBinder
    | simp -zeta only [Steady.mk]
    | with_reducible refine Steady.fst ?_ ‹_ = (_, _)›
    | with_reducible refine OptSteadyP.of ?_ ‹_ = some (_, _)›

theorem copyPage_steady {og : State} {s : State} {e : SeqEntry} {old : Nat} {new : Nat} {n : Nat} (hs : Steady og s) : Steady og (copyPage s e old new n) := by
  unfold copyPage
  repeat' first
    | with_reducible assumption
    | (intro z; clear_value z)
    | intro _
    | with_reducible apply State.forAll_steady
    | with_reducible apply hubStore_steady
    | with_reducible apply foldl_steady
    | with_reducible apply foldl_fst_steady
    | split
    | lift_lets -underBinder
    | simp -zeta only [Steady.mk]
    | with_reducible refine Steady.fst ?_ ‹_ = (_, _)›
    | with_reducible refine OptSteadyP.of ?_ ‹_ = some (_, _)›

theorem untakePages_steady {og : State} {s : State} {l : List Nat} (hs : Steady og s) : Steady og (untakePages s l) := by
  unfold untakePages
  repeat' first
    | with_reducible assumption
    | (intro z; refine (fun hz => ?_ : Steady og z → _) ?_; rotate_left; subst z; rotate_left; clear_value z)
    | (intro z; refine (fun hz => ?_ : Steady og z.1 → _) ?_; rotate_left; subst z; rotate_left; clear_value z)
    | (intro z; clear_value z)
    | intro _
    | with_reducible apply State.forAll_steady
    | with_reducible apply State.setPage_steady
    | with_reducible apply foldl_steady
    | with_reducible apply foldl_fst_steady
    | split
    | lift_lets -underBinder
    | simp -zeta only [Steady.mk]
    | with_reducible refine Steady.fst ?_ ‹_ = (_, _)›
    | with_reducible refine OptSteadyP.of ?_ ‹_ = some (_, _)›

theorem untakeItems_steady {og : State} {s : State} {l : List Nat} (hs : Steady og s) : Steady og (untakeItems s l) := by
  unfold untakeItems
  repeat' first
    | with_reducible assumption
    | (intro z; clear_value z)
    | intro _
    | with_reducible apply State.forAll_steady
    | with_reducible apply setItem_steady
    | with_reducible apply foldl_steady
    | with_reducible apply foldl_fst_steady
    | split
    | lift_lets -underBinder
    | simp -zeta only [Steady.mk]
    | with_reducible refine Steady.fst ?_ ‹_ = (_, _)›
    | with_reducible refine OptSteadyP.of ?_ ‹_ = some (_, _)›

theorem dropCopy_steady {og : State} {s : State} {c : SeqCopy} (hs : Steady og s) : Steady og (dropCopy s c) := by
  unfold dropCopy
  repeat' first
    | with_reducible assumption
    | (intro z; clear_value z)
    | lift_lets -underBinder
    | simp -zeta only [Steady.mk]

theorem undoCopy_steady {og : State} {s : State} {c : SeqCopy} {st : Nat} (hs : Steady og s) : Steady og (undoCopy s c st) := by
  unfold undoCopy
  repeat' first
    | with_reducible assumption
    | (intro z; clear_value z)
    | intro _
    | with_reducible apply finishRec_steady
    | with_reducible apply untakePages_steady
    | with_reducible apply untakeItems_steady
    | with_reducible apply dropCopy_steady
    | with_reducible apply foldl_steady
    | with_reducible apply foldl_fst_steady
    | split
    | lift_lets -underBinder
    | simp -zeta only [Steady.mk]
    | with_reducible refine Steady.fst ?_ ‹_ = (_, _)›
    | with_reducible refine OptSteadyP.of ?_ ‹_ = some (_, _)›

theorem endCopy_steady {og : State} {s : State} {c : SeqCopy} {e : SeqEntry} (hs : Steady og s) : Steady og (endCopy s c e) := by
  unfold endCopy
  repeat' first
    | with_reducible assumption
    | (intro z; clear_value z)
    | intro _
    | with_reducible apply State.forAll_steady
    | with_reducible apply finishRec_steady
    | with_reducible apply publishExtend_steady
    | with_reducible apply copyPage_steady
    | with_reducible apply untakePages_steady
    | with_reducible apply untakeItems_steady
    | with_reducible apply dropCopy_steady
    | with_reducible apply foldl_steady
    | with_reducible apply foldl_fst_steady
    | split
    | lift_lets -underBinder
    | simp -zeta only [Steady.mk]
    | with_reducible refine Steady.fst ?_ ‹_ = (_, _)›
    | with_reducible refine OptSteadyP.of ?_ ‹_ = some (_, _)›

theorem execPageCopyDone_steady {og : State} {h : BitVec 17} {s : State} (hs : Steady og s) : OutSteady og (execPageCopyDone h s) := by
  unfold execPageCopyDone
  repeat' first
    | with_reducible assumption
    | (intro z; refine (fun hz => ?_ : Steady og z.1 → _) ?_; rotate_left; subst z; rotate_left; clear_value z)
    | (intro z; clear_value z)
    | intro _
    | with_reducible apply OutSteady.next
    | with_reducible apply meetGrain_steady
    | with_reducible apply undoCopy_steady
    | with_reducible apply endCopy_steady
    | split
    | lift_lets -underBinder
    | with_reducible apply foldl_fst_steady

theorem execTruncate_steady {og : State} {t : Fin 192} {c : Fin 4} {s : State} (hs : Steady og s) : OutSteady og (execTruncate t c s) := by
  unfold execTruncate
  repeat' first
    | with_reducible assumption
    | intro _
    | with_reducible apply OutSteady.next
    | with_reducible apply truncSeq_steady
    | with_reducible apply runRec_steady
    | with_reducible apply publishOr_steady

theorem execEnter_steady {og : State} {t : Fin 192} {c : Fin 4} {s : State} (hs : Steady og s) : OutSteady og (execEnter t c s) := by
  unfold execEnter
  repeat' first
    | with_reducible assumption
    | intro _
    | with_reducible apply OutSteady.next
    | with_reducible apply finishRec_steady
    | with_reducible apply runRec_steady
    | with_reducible apply enterWalker_steady
    | split

theorem execLeave_steady {og : State} {t : Fin 192} {c : Fin 4} {s : State} (hs : Steady og s) : OutSteady og (execLeave t c s) := by
  unfold execLeave
  repeat' first
    | with_reducible assumption
    | intro _
    | with_reducible apply OutSteady.next
    | with_reducible apply leaveWalker_steady
    | with_reducible apply finishRec_steady
    | with_reducible apply runRec_steady

theorem reportStalls_steady {og : State} {s : State} (hs : Steady og s) : Steady og (reportStalls s) := by
  unfold reportStalls
  repeat' first
    | with_reducible assumption
    | (intro z; clear_value z)
    | intro _
    | with_reducible apply State.forAll_steady
    | with_reducible apply emit_steady
    | split
    | lift_lets -underBinder
    | simp -zeta only [Steady.mk]

theorem execEpochTick_steady {og : State} {s : State} (hs : Steady og s) : OutSteady og (execEpochTick s) := by
  unfold execEpochTick
  repeat' first
    | with_reducible assumption
    | (intro z; clear_value z)
    | with_reducible apply OutSteady.next
    | with_reducible apply reportStalls_steady
    | split
    | lift_lets -underBinder
    | simp -zeta only [Steady.mk]

theorem execReclamationPass_steady {og : State} {s : State} (hs : Steady og s) : OutSteady og (execReclamationPass s) := by
  unfold execReclamationPass
  repeat' first
    | with_reducible assumption
    | with_reducible apply OutSteady.next
    | with_reducible apply reclaim_steady

/-! Machine/Ae. -/

theorem execAeq_steady {og : State} {u : Issue} {desc : BitVec 16} {ae : Fin 32} {aeCtx : Fin 4} {bnd : Fin 32} {s : State} (hs : Steady og s) : OutSteady og (execAeq u desc ae aeCtx bnd s) := by
  unfold execAeq
  repeat' first
    | with_reducible assumption
    | (intro z; refine (fun hz => ?_ : Steady og z.1 → _) ?_; rotate_left; subst z; rotate_left; clear_value z)
    | (intro z; clear_value z)
    | intro _
    | with_reducible apply OutSteady.next
    | with_reducible apply State.setAeCtx_steady
    | with_reducible apply emit_steady
    | with_reducible apply advance_steady
    | with_reducible apply issue_steady
    | with_reducible apply issueFault_steady
    | with_reducible apply idleAe_steady
    | with_reducible apply nextIssue_steady
    | split
    | lift_lets -underBinder

theorem aeWithdraw_steady {og : State} {s : State} {e : Fin 32} {c : Fin 4} {ends : Bool} (hs : Steady og s) : Steady og (aeWithdraw s e c ends) := by
  unfold aeWithdraw
  repeat' first
    | with_reducible assumption
    | (intro z; clear_value z)
    | intro _
    | with_reducible apply sendReq_steady
    | with_reducible apply foldl_steady
    | with_reducible apply foldl_fst_steady
    | split
    | lift_lets -underBinder
    | simp -zeta only [Steady.mk]
    | with_reducible refine Steady.fst ?_ ‹_ = (_, _)›
    | with_reducible refine OptSteadyP.of ?_ ‹_ = some (_, _)›

theorem dropAe_steady {og : State} {s : State} {e : Fin 32} {c : Fin 4} (hs : Steady og s) : Steady og (dropAe s e c) := by
  unfold dropAe
  repeat' first
    | with_reducible assumption
    | (intro z; clear_value z)
    | intro _
    | with_reducible apply State.setAe_steady
    | with_reducible apply leaveWalker_steady
    | with_reducible apply aeArrival_steady
    | with_reducible apply aeWithdraw_steady
    | with_reducible apply foldl_steady
    | with_reducible apply foldl_fst_steady
    | split
    | lift_lets -underBinder
    | simp -zeta only [Steady.mk]
    | with_reducible refine Steady.fst ?_ ‹_ = (_, _)›
    | with_reducible refine OptSteadyP.of ?_ ‹_ = some (_, _)›

theorem aeFault_steady {og : State} {s : State} {e : Fin 32} {c : Fin 4} {seg : Nat} {addr : Nat} {status : Nat} (hs : Steady og s) : Steady og (aeFault s e c seg addr status) := by
  unfold aeFault
  repeat' first
    | with_reducible assumption
    | with_reducible apply emit_steady
    | with_reducible apply faultIssuer_steady
    | with_reducible apply dropAe_steady
    | split

theorem aeMeet_steady {og : State} {s : State} {e : Fin 32} {a : Nat} {n : Nat} {d : Nat} {write : Bool} {kv : Bool} (hs : Steady og s) : Steady og (aeMeet s e a n d write kv).1 := by
  unfold aeMeet
  repeat' first
    | with_reducible assumption
    | intro _
    | with_reducible apply meetGrain_steady
    | split
    | with_reducible apply foldl_fst_steady

theorem aeMeetAt_steady {og : State} {s : State} {e : Fin 32} {sram : Bool} {a : Nat} {n : Nat} {d : Nat} {write : Bool} (hs : Steady og s) : Steady og (aeMeetAt s e sram a n d write).1 := by
  unfold aeMeetAt
  repeat' first
    | with_reducible assumption
    | with_reducible apply aeMeet_steady
    | split

theorem aeStore_steady {og : State} {s : State} {sram : Bool} {a : Nat} {l : List Byte} (hs : Steady og s) : Steady og (aeStore s sram a l) := by
  unfold aeStore
  repeat' first
    | with_reducible assumption
    | (intro z; clear_value z)
    | intro _
    | with_reducible apply State.sramWrite_steady
    | with_reducible apply storeAcross_steady
    | with_reducible apply foldl_steady
    | with_reducible apply foldl_fst_steady
    | split
    | lift_lets -underBinder
    | simp -zeta only [Steady.mk]
    | with_reducible refine Steady.fst ?_ ‹_ = (_, _)›
    | with_reducible refine OptSteadyP.of ?_ ‹_ = some (_, _)›

theorem aeRead_steady {og : State} {s : State} {e : Fin 32} {sram : Bool} {a : Nat} {n : Nat} {d : Nat} {seg : Nat} (hs : Steady og s) : Steady og (aeRead s e sram a n d seg).1 := by
  unfold aeRead
  repeat' first
    | with_reducible assumption
    | (intro z; refine (fun hz => ?_ : Steady og z.1 → _) ?_; rotate_left; subst z; rotate_left; clear_value z)
    | with_reducible apply aeMeetAt_steady
    | split
    | lift_lets -underBinder

theorem aeThen_steady {og : State} {α β : Type} {p : State × AeMeets α} {f : State → α → State × AeMeets β} (hp : Steady og p.1) (hf : ∀ (a0 : State) (a1 : α), Steady og a0 → Steady og (f a0 a1).1) : Steady og (aeThen p f).1 := by
  unfold aeThen
  repeat' first
    | with_reducible assumption
    | with_reducible apply hf
    | split

theorem aeEach_steady {og : State} {α β : Type} {s : State} {l : List α} {f : State → α → State × AeMeets β} (hs : Steady og s) (hf : ∀ (a0 : State) (a1 : α), Steady og a0 → Steady og (f a0 a1).1) : Steady og (aeEach s l f).1 := by
  unfold aeEach
  repeat' first
    | with_reducible assumption
    | intro _
    | with_reducible apply aeThen_steady
    | with_reducible apply hf
    | with_reducible apply foldl_fst_steady

theorem attendEntry_steady {og : State} {s : State} {e : Fin 32} {i : AeIssue} {entered : Tab SeqEntry} {d : Nat} (hs : Steady og s) : Steady og (attendEntry s e i entered d).1 := by
  unfold attendEntry
  repeat' first
    | with_reducible assumption
    | (intro z; clear_value z)
    | intro _
    | with_reducible apply aeRead_steady
    | with_reducible apply aeThen_steady
    | with_reducible apply aeEach_steady
    | with_reducible apply foldl_steady
    | with_reducible apply foldl_fst_steady
    | split
    | lift_lets -underBinder
    | simp -zeta only [Steady.mk]
    | with_reducible refine Steady.fst ?_ ‹_ = (_, _)›
    | with_reducible refine OptSteadyP.of ?_ ‹_ = some (_, _)›

theorem holdAe_steady {og : State} {s : State} {e : Fin 32} {c : Fin 4} {a : Option Nat} (hs : Steady og s) : Steady og (holdAe s e c a) := by
  unfold holdAe
  repeat' first
    | with_reducible assumption
    | (intro z; clear_value z)
    | intro _
    | with_reducible apply State.setAeCtx_steady
    | with_reducible apply foldl_steady
    | with_reducible apply foldl_fst_steady
    | split
    | lift_lets -underBinder
    | simp -zeta only [Steady.mk]
    | with_reducible refine Steady.fst ?_ ‹_ = (_, _)›
    | with_reducible refine OptSteadyP.of ?_ ‹_ = some (_, _)›

theorem startAe_steady {og : State} {s : State} {e : Fin 32} {c : Fin 4} {i : AeIssue} {d : Nat} (hs : Steady og s) : Steady og (startAe s e c i d) := by
  unfold startAe
  repeat' first
    | with_reducible assumption
    | (intro z; refine (fun hz => ?_ : Steady og z → _) ?_; rotate_left; subst z; rotate_left; clear_value z)
    | (intro z; refine (fun hz => ?_ : Steady og z.1 → _) ?_; rotate_left; subst z; rotate_left; clear_value z)
    | (intro z; refine (fun hz => ?_ : (∀ s, Steady og s → Steady og (z s)) → _) ?_; rotate_left; subst z; rotate_left; clear_value z)
    | (intro z; refine (fun hz => ?_ : (∀ s a0, Steady og s → Steady og (z s a0)) → _) ?_; rotate_left; subst z; rotate_left; clear_value z)
    | (intro z; refine (fun hz => ?_ : (∀ s a0 a1, Steady og s → Steady og (z s a0 a1)) → _) ?_; rotate_left; subst z; rotate_left; clear_value z)
    | (intro z; refine (fun hz => ?_ : (∀ s a0 a1 a2, Steady og s → Steady og (z s a0 a1 a2)) → _) ?_; rotate_left; subst z; rotate_left; clear_value z)
    | (intro z; refine (fun hz => ?_ : (∀ s a0, Steady og s → Steady og (z s a0).1) → _) ?_; rotate_left; subst z; rotate_left; clear_value z)
    | (intro z; refine (fun hz => ?_ : (∀ s a0 a1, Steady og s → Steady og (z s a0 a1).1) → _) ?_; rotate_left; subst z; rotate_left; clear_value z)
    | (intro z; clear_value z)
    | intro _
    | with_reducible apply State.setAeCtx_steady
    | with_reducible apply enterAe_steady
    | with_reducible apply aeFault_steady
    | with_reducible apply attendEntry_steady
    | with_reducible apply holdAe_steady
    | with_reducible apply foldl_steady
    | with_reducible apply foldl_fst_steady
    | split
    | lift_lets -underBinder
    | simp -zeta only [Steady.mk]
    | with_reducible refine Steady.fst ?_ ‹_ = (_, _)›
    | with_reducible refine OptSteadyP.of ?_ ‹_ = some (_, _)›
    | with_reducible apply_assumption

theorem execAeDescriptorStart_steady {og : State} {ae : Fin 32} {c : Fin 4} {s : State} (hs : Steady og s) : OutSteady og (execAeDescriptorStart ae c s) := by
  unfold execAeDescriptorStart
  repeat' first
    | with_reducible assumption
    | (intro z; clear_value z)
    | intro _
    | with_reducible apply OutSteady.next
    | with_reducible apply State.setAeCtx_steady
    | with_reducible apply sendReq_steady
    | with_reducible apply aeFault_steady
    | with_reducible apply startAe_steady
    | with_reducible apply foldl_steady
    | with_reducible apply foldl_fst_steady
    | split
    | lift_lets -underBinder
    | simp -zeta only [Steady.mk]
    | with_reducible refine Steady.fst ?_ ‹_ = (_, _)›
    | with_reducible refine OptSteadyP.of ?_ ‹_ = some (_, _)›

theorem partMeet_steady {og : State} {s : State} {e : Fin 32} {part : Nat} {fmt : Nat} {lo : Nat} {hi : Nat} {d : Nat} {seg : Nat} (hs : Steady og s) : Steady og (partMeet s e part fmt lo hi d seg).1 := by
  unfold partMeet
  repeat' first
    | with_reducible assumption
    | (intro z; refine (fun hz => ?_ : Steady og z.1 → _) ?_; rotate_left; subst z; rotate_left; clear_value z)
    | intro _
    | with_reducible apply aeMeet_steady
    | with_reducible apply aeThen_steady
    | with_reducible apply aeEach_steady
    | split
    | lift_lets -underBinder

theorem groupPage_steady {og : State} {s : State} {e : Fin 32} {d : Nat} {run : AeRun} {g : AeGroup} (hs : Steady og s) : Steady og (groupPage s e d run g).1 := by
  unfold groupPage
  repeat' first
    | with_reducible assumption
    | (intro z; refine (fun hz => ?_ : Steady og z → _) ?_; rotate_left; subst z; rotate_left; clear_value z)
    | (intro z; refine (fun hz => ?_ : Steady og z.1 → _) ?_; rotate_left; subst z; rotate_left; clear_value z)
    | (intro z; clear_value z)
    | with_reducible apply aeMeet_steady
    | split
    | lift_lets -underBinder
    | simp -zeta only [Steady.mk]

theorem leavePage_steady {og : State} {s : State} {d : Nat} {run : AeRun} {g : AeGroup} {rest : List AeGroup} (hs : Steady og s) : Steady og (leavePage s d run g rest) := by
  unfold leavePage
  repeat' first
    | with_reducible assumption
    | (intro z; clear_value z)
    | intro _
    | with_reducible apply foldl_steady
    | with_reducible apply foldl_fst_steady
    | split
    | lift_lets -underBinder
    | simp -zeta only [Steady.mk]
    | with_reducible refine Steady.fst ?_ ‹_ = (_, _)›
    | with_reducible refine OptSteadyP.of ?_ ‹_ = some (_, _)›

theorem tryGroup_steady {og : State} {s : State} {e : Fin 32} {c : Fin 4} (hs : Steady og s) : Steady og (tryGroup s e c).1 := by
  unfold tryGroup
  repeat' first
    | with_reducible assumption
    | (intro z; clear_value z)
    | intro _
    | with_reducible apply State.setAeCtx_steady
    | with_reducible apply State.setAe_steady
    | with_reducible apply aeThen_steady
    | with_reducible apply partMeet_steady
    | with_reducible apply groupPage_steady
    | split
    | lift_lets -underBinder

theorem execAeGroupBoundary_steady {og : State} {ae : Fin 32} {s : State} (hs : Steady og s) : OutSteady og (execAeGroupBoundary ae s) := by
  unfold execAeGroupBoundary
  repeat' first
    | with_reducible assumption
    | (intro z; refine (fun hz => ?_ : Steady og z → _) ?_; rotate_left; subst z; rotate_left; clear_value z)
    | (intro z; refine (fun hz => ?_ : Steady og z.1 → _) ?_; rotate_left; subst z; rotate_left; clear_value z)
    | (intro z; clear_value z)
    | intro _
    | with_reducible apply OutSteady.next
    | with_reducible apply aeFault_steady
    | with_reducible apply holdAe_steady
    | with_reducible apply tryGroup_steady
    | with_reducible apply foldl_steady
    | with_reducible apply foldl_fst_steady
    | split
    | lift_lets -underBinder
    | simp -zeta only [Steady.mk]
    | with_reducible refine Steady.fst ?_ ‹_ = (_, _)›
    | with_reducible refine OptSteadyP.of ?_ ‹_ = some (_, _)›

theorem commitGroup_steady {og : State} {s : State} {e : Fin 32} {c : Fin 4} (hs : Steady og s) : Steady og (commitGroup s e c) := by
  unfold commitGroup
  repeat' first
    | with_reducible assumption
    | (intro z; clear_value z)
    | intro _
    | with_reducible apply State.setAeCtx_steady
    | with_reducible apply State.setAe_steady
    | with_reducible apply emit_steady
    | with_reducible apply countN_steady
    | with_reducible apply leavePage_steady
    | with_reducible apply foldl_steady
    | with_reducible apply foldl_fst_steady
    | split
    | lift_lets -underBinder
    | simp -zeta only [Steady.mk]
    | with_reducible refine Steady.fst ?_ ‹_ = (_, _)›
    | with_reducible refine OptSteadyP.of ?_ ‹_ = some (_, _)›

theorem failAe_steady {og : State} {s : State} {e : Fin 32} (hs : Steady og s) : Steady og (failAe s e) := by
  unfold failAe
  repeat' first
    | with_reducible assumption
    | intro _
    | with_reducible apply State.setAe_steady
    | with_reducible apply State.forAll_steady
    | with_reducible apply emit_steady
    | with_reducible apply abandonChans_steady
    | with_reducible apply aeFault_steady
    | with_reducible apply State.bump_steady

theorem aeGroupCheck_steady {og : State} {ae : Fin 32} {scores : Bool} {values : Bool} {adders : Bool} {s : State} (hs : Steady og s) : Steady og (aeGroupCheck ae scores values adders s) := by
  unfold aeGroupCheck
  repeat' first
    | with_reducible assumption
    | (intro z; refine (fun hz => ?_ : Steady og z → _) ?_; rotate_left; subst z; rotate_left; clear_value z)
    | (intro z; refine (fun hz => ?_ : Steady og z.1 → _) ?_; rotate_left; subst z; rotate_left; clear_value z)
    | (intro z; clear_value z)
    | intro _
    | with_reducible apply State.setAe_steady
    | with_reducible apply count_steady
    | with_reducible apply commitGroup_steady
    | with_reducible apply failAe_steady
    | with_reducible apply foldl_steady
    | with_reducible apply foldl_fst_steady
    | split
    | lift_lets -underBinder
    | simp -zeta only [Steady.mk]
    | with_reducible refine Steady.fst ?_ ‹_ = (_, _)›
    | with_reducible refine OptSteadyP.of ?_ ‹_ = some (_, _)›

theorem finishAe_steady {og : State} {s : State} {e : Fin 32} {c : Fin 4} {i : AeIssue} {d : Nat} (hs : Steady og s) : Steady og (finishAe s e c i d) := by
  unfold finishAe
  repeat' first
    | with_reducible assumption
    | with_reducible apply State.setAeCtx_steady
    | with_reducible apply leaveWalker_steady
    | with_reducible apply sendReq_steady
    | with_reducible apply aeArrival_steady
    | split

theorem writeAe_steady {og : State} {s : State} {e : Fin 32} {c : Fin 4} {i : AeIssue} {d : Nat} {l : List Byte} (hs : Steady og s) : Steady og (writeAe s e c i d l) := by
  unfold writeAe
  repeat' first
    | with_reducible assumption
    | (intro z; refine (fun hz => ?_ : Steady og z → _) ?_; rotate_left; subst z; rotate_left; clear_value z)
    | (intro z; refine (fun hz => ?_ : Steady og z.1 → _) ?_; rotate_left; subst z; rotate_left; clear_value z)
    | (intro z; clear_value z)
    | intro _
    | with_reducible apply aeFault_steady
    | with_reducible apply aeMeetAt_steady
    | with_reducible apply aeStore_steady
    | with_reducible apply holdAe_steady
    | with_reducible apply finishAe_steady
    | with_reducible apply foldl_steady
    | with_reducible apply foldl_fst_steady
    | split
    | lift_lets -underBinder
    | simp -zeta only [Steady.mk]
    | with_reducible refine Steady.fst ?_ ‹_ = (_, _)›
    | with_reducible refine OptSteadyP.of ?_ ‹_ = some (_, _)›

theorem mergeResult_steady {og : State} {s : State} {e : Fin 32} {i : AeIssue} {d : Nat} (hs : Steady og s) : Steady og (mergeResult s e i d).1 := by
  unfold mergeResult
  repeat' first
    | with_reducible assumption
    | (intro z; clear_value z)
    | intro _
    | with_reducible apply aeRead_steady
    | with_reducible apply aeThen_steady
    | with_reducible apply aeEach_steady
    | split
    | lift_lets -underBinder

theorem ropeResult_steady {og : State} {s : State} {e : Fin 32} {i : AeIssue} {d : Nat} (hs : Steady og s) : Steady og (ropeResult s e i d).1 := by
  unfold ropeResult
  repeat' first
    | with_reducible assumption
    | (intro z; clear_value z)
    | intro _
    | with_reducible apply aeRead_steady
    | with_reducible apply aeThen_steady
    | split
    | lift_lets -underBinder

theorem execAeDescriptorEnd_steady {og : State} {ae : Fin 32} {c : Fin 4} {s : State} (hs : Steady og s) : OutSteady og (execAeDescriptorEnd ae c s) := by
  unfold execAeDescriptorEnd
  repeat' first
    | with_reducible assumption
    | (intro z; refine (fun hz => ?_ : Steady og z → _) ?_; rotate_left; subst z; rotate_left; clear_value z)
    | (intro z; refine (fun hz => ?_ : Steady og z.1 → _) ?_; rotate_left; subst z; rotate_left; clear_value z)
    | (intro z; clear_value z)
    | intro _
    | with_reducible apply OutSteady.next
    | with_reducible apply aeFault_steady
    | with_reducible apply holdAe_steady
    | with_reducible apply finishAe_steady
    | with_reducible apply writeAe_steady
    | with_reducible apply mergeResult_steady
    | with_reducible apply ropeResult_steady
    | with_reducible apply foldl_steady
    | with_reducible apply foldl_fst_steady
    | split
    | lift_lets -underBinder
    | simp -zeta only [Steady.mk]
    | with_reducible refine Steady.fst ?_ ‹_ = (_, _)›
    | with_reducible refine OptSteadyP.of ?_ ‹_ = some (_, _)›

theorem aeContextSave_steady {og : State} {ae : Fin 32} {c : Fin 4} {s : State} (hs : Steady og s) : Steady og (aeContextSave ae c s) := by
  unfold aeContextSave
  repeat' first
    | with_reducible assumption
    | (intro z; refine (fun hz => ?_ : Steady og z → _) ?_; rotate_left; subst z; rotate_left; clear_value z)
    | (intro z; refine (fun hz => ?_ : Steady og z.1 → _) ?_; rotate_left; subst z; rotate_left; clear_value z)
    | (intro z; clear_value z)
    | intro _
    | with_reducible apply State.setAeCtx_steady
    | with_reducible apply aeWithdraw_steady
    | with_reducible apply foldl_steady
    | with_reducible apply foldl_fst_steady
    | split
    | lift_lets -underBinder
    | simp -zeta only [Steady.mk]
    | with_reducible refine Steady.fst ?_ ‹_ = (_, _)›
    | with_reducible refine OptSteadyP.of ?_ ‹_ = some (_, _)›

theorem aeRestore_steady {og : State} {s : State} {e : Fin 32} {c : Fin 4} (hs : Steady og s) : Steady og (aeRestore s e c) := by
  unfold aeRestore
  repeat' first
    | with_reducible assumption
    | (intro z; clear_value z)
    | intro _
    | with_reducible apply State.setAeCtx_steady
    | with_reducible apply foldl_steady
    | with_reducible apply foldl_fst_steady
    | split
    | lift_lets -underBinder
    | simp -zeta only [Steady.mk]
    | with_reducible refine Steady.fst ?_ ‹_ = (_, _)›
    | with_reducible refine OptSteadyP.of ?_ ‹_ = some (_, _)›

/-! Machine/NetBase. -/

theorem sendDeny_steady {og : State} {s : State} {p : PktHdr} {status : Nat} (hs : Steady og s) : Steady og (sendDeny s p status) := by
  unfold sendDeny
  repeat' first
    | with_reducible assumption
    | with_reducible apply sendControl_steady
    | split

theorem sliceRefused_steady {og : State} {s : State} {p : PktHdr} {kind : Nat} (hs : Steady og s) : Steady og (sliceRefused s p kind) := by
  unfold sliceRefused
  repeat' first
    | with_reducible assumption
    | (intro z; refine (fun hz => ?_ : Steady og z → _) ?_; rotate_left; subst z; rotate_left; clear_value z)
    | (intro z; clear_value z)
    | with_reducible apply emit_steady
    | with_reducible apply count_steady
    | with_reducible apply State.setPort_steady
    | with_reducible apply sendDeny_steady
    | split
    | lift_lets -underBinder

theorem sealFail_steady {og : State} {s : State} {peer : Nat} (hs : Steady og s) : Steady og (sealFail s peer) := by
  unfold sealFail
  repeat' first
    | with_reducible assumption
    | with_reducible apply State.bump_steady
    | with_reducible apply emit_steady

theorem endSession_steady {og : State} {s : State} {d : Nat} (hs : Steady og s) : Steady og (endSession s d) := by
  unfold endSession
  repeat' first
    | with_reducible assumption
    | with_reducible apply State.setSess_steady

theorem tagFailure_steady {og : State} {s : State} {d : Nat} (hs : Steady og s) : Steady og (tagFailure s d) := by
  unfold tagFailure
  repeat' first
    | with_reducible assumption
    | (intro z; refine (fun hz => ?_ : Steady og z → _) ?_; rotate_left; subst z; rotate_left; clear_value z)
    | (intro z; clear_value z)
    | with_reducible apply count_steady
    | with_reducible apply State.setSess_steady
    | with_reducible apply openSession_steady
    | with_reducible apply sealFail_steady
    | with_reducible apply endSession_steady
    | split
    | lift_lets -underBinder

theorem openSealed_steady {og : State} {s : State} {p : PktHdr} (hs : Steady og s) : Steady og (openSealed s p).1 := by
  unfold openSealed
  repeat' first
    | with_reducible assumption
    | (intro z; clear_value z)
    | with_reducible apply count_steady
    | with_reducible apply State.setSess_steady
    | with_reducible apply tagFailure_steady
    | split
    | lift_lets -underBinder

theorem heardFrom_steady {og : State} {s : State} {d : BitVec 12} (hs : Steady og s) : Steady og (heardFrom s d) := by
  unfold heardFrom
  repeat' first
    | with_reducible assumption
    | (intro z; clear_value z)
    | with_reducible apply emit_steady
    | split
    | lift_lets -underBinder
    | simp -zeta only [Steady.mk]

theorem returnCredit_steady {og : State} {s : State} {p : PktHdr} {n : Nat} (hs : Steady og s) : Steady og (returnCredit s p n) := by
  unfold returnCredit
  repeat' first
    | with_reducible assumption
    | (intro z; clear_value z)
    | intro _
    | with_reducible apply foldl_steady
    | with_reducible apply foldl_fst_steady
    | split
    | lift_lets -underBinder
    | simp -zeta only [Steady.mk]
    | with_reducible refine Steady.fst ?_ ‹_ = (_, _)›
    | with_reducible refine OptSteadyP.of ?_ ‹_ = some (_, _)›

theorem holdIn_steady {og : State} {s : State} {h : HeldIn} (hs : Steady og s) : Steady og (holdIn s h) := by
  unfold holdIn
  repeat' first
    | with_reducible assumption
    | (intro z; clear_value z)
    | intro _
    | with_reducible apply returnCredit_steady
    | with_reducible apply foldl_steady
    | with_reducible apply foldl_fst_steady
    | split
    | lift_lets -underBinder
    | simp -zeta only [Steady.mk]
    | with_reducible refine Steady.fst ?_ ‹_ = (_, _)›
    | with_reducible refine OptSteadyP.of ?_ ‹_ = some (_, _)›

theorem admitPacket_steady {og : State} {s : State} {p : PktHdr} {kind : Nat} (hs : Steady og s) : Steady og (admitPacket s p kind).1 := by
  unfold admitPacket
  repeat' first
    | with_reducible assumption
    | (intro z; refine (fun hz => ?_ : Steady og z → _) ?_; rotate_left; subst z; rotate_left; clear_value z)
    | (intro z; refine (fun hz => ?_ : Steady og z.1 → _) ?_; rotate_left; subst z; rotate_left; clear_value z)
    | (intro z; clear_value z)
    | intro _
    | with_reducible apply wakeDie_steady
    | with_reducible apply sliceRefused_steady
    | with_reducible apply tagFailure_steady
    | with_reducible apply openSealed_steady
    | with_reducible apply heardFrom_steady
    | with_reducible apply foldl_steady
    | with_reducible apply foldl_fst_steady
    | split
    | lift_lets -underBinder
    | simp -zeta only [Steady.mk]
    | with_reducible refine Steady.fst ?_ ‹_ = (_, _)›
    | with_reducible refine OptSteadyP.of ?_ ‹_ = some (_, _)›

theorem ingress_steady {og : State} {s : State} {p : PktHdr} {kind : Nat} (hs : Steady og s) : Steady og (ingress s p kind).1 := by
  unfold ingress
  repeat' first
    | with_reducible assumption
    | (intro z; clear_value z)
    | intro _
    | with_reducible apply returnCredit_steady
    | with_reducible apply admitPacket_steady
    | with_reducible apply foldl_steady
    | with_reducible apply foldl_fst_steady
    | split
    | lift_lets -underBinder
    | simp -zeta only [Steady.mk]
    | with_reducible refine Steady.fst ?_ ‹_ = (_, _)›
    | with_reducible refine OptSteadyP.of ?_ ‹_ = some (_, _)›

/-! Machine/TileSys. -/

theorem execSget_steady {og : State} {u : Issue} {sd : Fin 32} {src : BitVec 6} {s : State} (hs : Steady og s) : OutSteady og (execSget u sd src s) := by
  unfold execSget
  repeat' first
    | with_reducible assumption
    | intro _
    | with_reducible apply OutSteady.next
    | with_reducible apply State.setCtx_steady
    | with_reducible apply advance_steady
    | with_reducible apply issue_steady
    | with_reducible apply issueFault_steady
    | split

theorem execEnd_steady {og : State} {u : Issue} {s : State} (hs : Steady og s) : OutSteady og (execEnd u s) := by
  unfold execEnd
  repeat' first
    | with_reducible assumption
    | intro _
    | with_reducible apply OutSteady.next
    | with_reducible apply issue_steady
    | with_reducible apply endCtx_steady

/-! Machine/Ring. -/

theorem State.setRing_steady {og : State} {s : State} {i : Nat} {x : RingEntry} (hs : Steady og s) : Steady og (State.setRing s i x) := by
  unfold State.setRing
  repeat' first
    | with_reducible assumption
    | (intro z; clear_value z)
    | lift_lets -underBinder
    | simp -zeta only [Steady.mk]

theorem State.setBind_steady {og : State} {s : State} {b : Nat} {x : Binding} (hs : Steady og s) : Steady og (State.setBind s b x) := by
  unfold State.setBind
  repeat' first
    | with_reducible assumption
    | (intro z; clear_value z)
    | lift_lets -underBinder
    | simp -zeta only [Steady.mk]

theorem sendRing_steady {og : State} {s : State} {dst : Nat} {domain : Nat} {items : List (Nat × Nat)} (hs : Steady og s) : Steady og (sendRing s dst domain items) := by
  unfold sendRing
  repeat' first
    | with_reducible assumption
    | with_reducible apply sendControl_steady
    | split

theorem sendPass_steady {og : State} {s : State} {r : RingEntry} {x : Binding} {p : Pass} {kind : Nat} {dst : Nat} {extra : List (Nat × Nat)} (hs : Steady og s) : Steady og (sendPass s r x p kind dst extra) := by
  unfold sendPass
  repeat' first
    | with_reducible assumption
    | with_reducible apply sendRing_steady

theorem endPass_steady {og : State} {s : State} {b : Nat} {status : Nat} (hs : Steady og s) : Steady og (endPass s b status) := by
  unfold endPass
  repeat' first
    | with_reducible assumption
    | (intro z; clear_value z)
    | intro _
    | with_reducible apply leaveWalker_steady
    | with_reducible apply hubWord_steady
    | with_reducible apply State.setBind_steady
    | with_reducible apply foldl_steady
    | with_reducible apply foldl_fst_steady
    | split
    | lift_lets -underBinder
    | simp -zeta only [Steady.mk]
    | with_reducible refine Steady.fst ?_ ‹_ = (_, _)›
    | with_reducible refine OptSteadyP.of ?_ ‹_ = some (_, _)›

theorem ringFault_steady {og : State} {s : State} {status : Nat} {src : Nat} (hs : Steady og s) : Steady og (ringFault s status src) := by
  unfold ringFault
  repeat' first
    | with_reducible assumption
    | with_reducible apply emit_steady

theorem abandonPass_steady {og : State} {s : State} {b : Nat} {status : Nat} (hs : Steady og s) : Steady og (abandonPass s b status) := by
  unfold abandonPass
  repeat' first
    | with_reducible assumption
    | (intro z; clear_value z)
    | intro _
    | with_reducible apply State.forAll_steady
    | with_reducible apply sendPass_steady
    | with_reducible apply endPass_steady
    | split
    | lift_lets -underBinder

theorem moverRead_steady {og : State} {s : State} {p : Pass} {die : Fin 5} {d : RingData} {a : Nat} {n : Nat} {dom : Nat} (hs : Steady og s) : Steady og (moverRead s p die d a n dom).1 := by
  unfold moverRead
  repeat' first
    | with_reducible assumption
    | (intro z; clear_value z)
    | intro _
    | with_reducible apply meetGrain_steady
    | with_reducible apply devMeet_steady
    | with_reducible apply foldl_steady
    | with_reducible apply foldl_fst_steady
    | split
    | lift_lets -underBinder
    | simp -zeta only [Steady.mk]
    | with_reducible refine Steady.fst ?_ ‹_ = (_, _)›
    | with_reducible refine OptSteadyP.of ?_ ‹_ = some (_, _)›

theorem holdPass_steady {og : State} {s : State} {b : Nat} {a : Option Nat} (hs : Steady og s) : Steady og (holdPass s b a) := by
  unfold holdPass
  repeat' first
    | with_reducible assumption
    | (intro z; clear_value z)
    | intro _
    | with_reducible apply State.setBind_steady
    | with_reducible apply foldl_steady
    | with_reducible apply foldl_fst_steady
    | split
    | lift_lets -underBinder
    | simp -zeta only [Steady.mk]
    | with_reducible refine Steady.fst ?_ ‹_ = (_, _)›
    | with_reducible refine OptSteadyP.of ?_ ‹_ = some (_, _)›

theorem sendChunk_steady {og : State} {s : State} {r : RingEntry} {b : Nat} {c : BitVec 12 × RingData} (hs : Steady og s) : Steady og (sendChunk s r b c) := by
  unfold sendChunk
  repeat' first
    | with_reducible assumption
    | (intro z; refine (fun hz => ?_ : Steady og z → _) ?_; rotate_left; subst z; rotate_left; clear_value z)
    | (intro z; refine (fun hz => ?_ : Steady og z.1 → _) ?_; rotate_left; subst z; rotate_left; clear_value z)
    | (intro z; clear_value z)
    | intro _
    | with_reducible apply State.forAll_steady
    | with_reducible apply sendPacket_steady
    | with_reducible apply State.setBind_steady
    | with_reducible apply abandonPass_steady
    | with_reducible apply moverRead_steady
    | with_reducible apply holdPass_steady
    | with_reducible apply foldl_steady
    | with_reducible apply foldl_fst_steady
    | split
    | lift_lets -underBinder
    | simp -zeta only [Steady.mk]
    | with_reducible refine Steady.fst ?_ ‹_ = (_, _)›
    | with_reducible refine OptSteadyP.of ?_ ‹_ = some (_, _)›

theorem pump_steady {og : State} {s : State} {b : Nat} (hs : Steady og s) : Steady og (pump s b) := by
  unfold pump
  repeat' first
    | with_reducible assumption
    | (intro z; clear_value z)
    | intro _
    | with_reducible apply State.forAll_steady
    | with_reducible apply sendChunk_steady
    | split
    | lift_lets -underBinder

theorem moverWrite_steady {og : State} {s : State} {p : Pass} {die : Fin 5} {d : RingData} {a : Nat} {dom : Nat} {l : List Byte} (hs : Steady og s) : Steady og (moverWrite s p die d a dom l).1 := by
  unfold moverWrite
  split
  · exact hs
  · lift_lets
    intro r
    have hr : Steady og r.1 := by
      subst r
      cases d <;> first | exact meetGrain_steady hs | exact devMeet_steady hs
    split
    · exact hr
    · exact devWrite_steady hr

theorem localParts_steady {og : State} {s : State} {r : RingEntry} {b : Nat} (hs : Steady og s) : Steady og (localParts s r b) := by
  unfold localParts
  repeat' first
    | with_reducible assumption
    | (intro z; refine (fun hz => ?_ : Steady og z → _) ?_; rotate_left; subst z; rotate_left; clear_value z)
    | (intro z; refine (fun hz => ?_ : Steady og z.1 → _) ?_; rotate_left; subst z; rotate_left; clear_value z)
    | (intro z; clear_value z)
    | intro _
    | with_reducible apply State.forAll_steady
    | with_reducible apply State.setBind_steady
    | with_reducible apply abandonPass_steady
    | with_reducible apply moverRead_steady
    | with_reducible apply holdPass_steady
    | with_reducible apply moverWrite_steady
    | with_reducible apply foldl_steady
    | with_reducible apply foldl_fst_steady
    | split
    | lift_lets -underBinder
    | simp -zeta only [Steady.mk]
    | with_reducible refine Steady.fst ?_ ‹_ = (_, _)›
    | with_reducible refine OptSteadyP.of ?_ ‹_ = some (_, _)›

theorem publishVisitor_steady {og : State} {s : State} {x : Binding} {k : Nat} {bl : Nat × Nat} (hs : Steady og s) : OptSteady og (publishVisitor s x k bl) := by
  unfold publishVisitor
  repeat' first
    | with_reducible assumption
    | intro _
    | with_reducible apply OptSteady.map
    | with_reducible apply allocItem_steady
    | with_reducible apply publish_steady
    | with_reducible apply withReclaim_snd_steadyP

theorem rotateArrival_steady {og : State} {s : State} {x : Binding} {p : Pass} (hs : Steady og s) : OptSteady og (rotateArrival s x p) := by
  unfold rotateArrival
  repeat' first
    | with_reducible assumption
    | (intro z; clear_value z)
    | with_reducible exact OptSteady.none'
    | with_reducible apply OptSteady.some'
    | with_reducible apply publishVisitor_steady
    | split
    | lift_lets -underBinder

theorem passEvent_steady {og : State} {s : State} {b : Nat} (hs : Steady og s) : OptSteady og (passEvent s b) := by
  unfold passEvent
  repeat' first
    | with_reducible assumption
    | (intro z; clear_value z)
    | with_reducible exact OptSteady.none'
    | with_reducible apply OptSteady.some'
    | with_reducible apply State.setBind_steady
    | with_reducible apply addObj_steady
    | with_reducible apply sendPass_steady
    | with_reducible apply endPass_steady
    | with_reducible apply rotateArrival_steady
    | split
    | lift_lets -underBinder
    | with_reducible refine OptSteady.keep ?_ _ ‹_ = some _›

theorem settlePassN_steady {og : State} {a0} : ∀ {s a2}, Steady og s → Steady og (settlePassN a0 s a2) := by
  induction a0 with
  | zero => intro s a2 h; exact h
  | succ k ih =>
  intro s a2 h
  unfold settlePassN
  repeat' first
    | with_reducible assumption
    | (intro z; refine (fun hz => ?_ : Steady og z → _) ?_; rotate_left; subst z; rotate_left; clear_value z)
    | with_reducible apply pump_steady
    | with_reducible apply localParts_steady
    | with_reducible apply passEvent_steady
    | with_reducible apply ih
    | split
    | lift_lets -underBinder
    | with_reducible refine OptSteady.keep ?_ _ ‹_ = some _›

theorem settlePass_steady {og : State} {s : State} {b : Nat} (hs : Steady og s) : Steady og (settlePass s b) := by
  unfold settlePass
  repeat' first
    | with_reducible assumption
    | with_reducible apply settlePassN_steady

theorem settleRings_steady {og : State} {s : State} (hs : Steady og s) : Steady og (settleRings s) := by
  unfold settleRings
  repeat' first
    | with_reducible assumption
    | intro _
    | with_reducible apply State.forAll_steady
    | with_reducible apply settlePass_steady

theorem moverWord_steady {og : State} {s : State} {w : WindowRec} {a : Nat} {l : List Byte} (hs : Steady og s) : Steady og (moverWord s w a l) := by
  unfold moverWord
  repeat' first
    | with_reducible assumption
    | (intro z; clear_value z)
    | intro _
    | with_reducible apply hubWord_steady
    | with_reducible apply foldl_steady
    | with_reducible apply foldl_fst_steady
    | split
    | lift_lets -underBinder
    | simp -zeta only [Steady.mk]
    | with_reducible refine Steady.fst ?_ ‹_ = (_, _)›
    | with_reducible refine OptSteadyP.of ?_ ‹_ = some (_, _)›

theorem acceptPass_steady {og : State} {s : State} {w : WindowRec} {b : Nat} {r : RingEntry} (hs : Steady og s) : Steady og (acceptPass s w b r) := by
  unfold acceptPass
  repeat' first
    | with_reducible assumption
    | (intro z; refine (fun hz => ?_ : Steady og z → _) ?_; rotate_left; subst z; rotate_left; clear_value z)
    | (intro z; refine (fun hz => ?_ : Steady og z.1 → _) ?_; rotate_left; subst z; rotate_left; clear_value z)
    | (intro z; clear_value z)
    | intro _
    | with_reducible apply State.forAll_steady
    | with_reducible apply enterWalker_steady
    | with_reducible apply State.setRing_steady
    | with_reducible apply State.setBind_steady
    | with_reducible apply sendPass_steady
    | with_reducible apply moverWord_steady
    | with_reducible apply foldl_steady
    | with_reducible apply foldl_fst_steady
    | split
    | lift_lets -underBinder
    | simp -zeta only [Steady.mk]
    | with_reducible refine Steady.fst ?_ ‹_ = (_, _)›
    | with_reducible refine OptSteadyP.of ?_ ‹_ = some (_, _)›

theorem refusePass_steady {og : State} {s : State} {w : WindowRec} {status : Nat} (hs : Steady og s) : Steady og (refusePass s w status) := by
  unfold refusePass
  repeat' first
    | with_reducible assumption
    | (intro z; refine (fun hz => ?_ : Steady og z → _) ?_; rotate_left; subst z; rotate_left; clear_value z)
    | (intro z; refine (fun hz => ?_ : Steady og z.1 → _) ?_; rotate_left; subst z; rotate_left; clear_value z)
    | (intro z; clear_value z)
    | intro _
    | with_reducible apply State.bump_steady
    | with_reducible apply addObj_steady
    | with_reducible apply hubWord_steady
    | with_reducible apply foldl_steady
    | with_reducible apply foldl_fst_steady
    | split
    | lift_lets -underBinder
    | simp -zeta only [Steady.mk]
    | with_reducible refine Steady.fst ?_ ‹_ = (_, _)›
    | with_reducible refine OptSteadyP.of ?_ ‹_ = some (_, _)›

theorem runPass_steady {og : State} {t : Fin 192} {c : Fin 4} {op : Nat} {s : State} (hs : Steady og s) : Steady og (runPass t c op s) := by
  unfold runPass
  repeat' first
    | with_reducible assumption
    | (intro z; refine (fun hz => ?_ : Steady og z → _) ?_; rotate_left; subst z; rotate_left; clear_value z)
    | (intro z; clear_value z)
    | with_reducible apply settlePass_steady
    | with_reducible apply acceptPass_steady
    | with_reducible apply refusePass_steady
    | split
    | lift_lets -underBinder
    | simp -zeta only [Steady.mk]

theorem execRotate_steady {og : State} {t : Fin 192} {c : Fin 4} {s : State} (hs : Steady og s) : OutSteady og (execRotate t c s) := by
  unfold execRotate
  repeat' first
    | with_reducible assumption
    | with_reducible apply OutSteady.next
    | with_reducible apply runPass_steady

theorem execCirculate_steady {og : State} {t : Fin 192} {c : Fin 4} {s : State} (hs : Steady og s) : OutSteady og (execCirculate t c s) := by
  unfold execCirculate
  repeat' first
    | with_reducible assumption
    | with_reducible apply OutSteady.next
    | with_reducible apply runPass_steady

theorem execPassBegin_steady {og : State} {b : Fin 16384} {s : State} (hs : Steady og s) : OutSteady og (execPassBegin b s) := by
  unfold execPassBegin
  repeat' first
    | with_reducible assumption
    | (intro z; clear_value z)
    | with_reducible apply OutSteady.next
    | with_reducible apply State.setBind_steady
    | with_reducible apply settlePass_steady
    | split
    | lift_lets -underBinder

theorem ringMsg_steady {og : State} {i : State × Bool} {p : PktHdr} {h : RingHdr} (hi : Steady og i.1) : Steady og (ringMsg i p h).1 := by
  unfold ringMsg
  repeat' first
    | with_reducible assumption
    | (intro z; clear_value z)
    | intro _
    | with_reducible apply count_steady
    | with_reducible apply ringFault_steady
    | with_reducible apply foldl_steady
    | with_reducible apply foldl_fst_steady
    | split
    | lift_lets -underBinder
    | simp -zeta only [Steady.mk]
    | with_reducible refine Steady.fst ?_ ‹_ = (_, _)›
    | with_reducible refine OptSteadyP.of ?_ ‹_ = some (_, _)›

theorem takeRingChunk_steady {og : State} {s : State} {r : RingEntry} {p : PktHdr} {h : RingHdr} {d : RingData} {first : Option RingFirst} {bytes : List Byte} (hs : Steady og s) : Steady og (takeRingChunk s r p h d first bytes).1 := by
  unfold takeRingChunk
  repeat' first
    | with_reducible assumption
    | (intro z; refine (fun hz => ?_ : Steady og z → _) ?_; rotate_left; subst z; rotate_left; clear_value z)
    | (intro z; refine (fun hz => ?_ : Steady og z.1 → _) ?_; rotate_left; subst z; rotate_left; clear_value z)
    | (intro z; clear_value z)
    | intro _
    | with_reducible apply count_steady
    | with_reducible apply State.setBind_steady
    | with_reducible apply sendPass_steady
    | with_reducible apply ringFault_steady
    | with_reducible apply abandonPass_steady
    | with_reducible apply moverWrite_steady
    | with_reducible apply settlePass_steady
    | with_reducible apply foldl_steady
    | with_reducible apply foldl_fst_steady
    | split
    | lift_lets -underBinder
    | simp -zeta only [Steady.mk]
    | with_reducible refine Steady.fst ?_ ‹_ = (_, _)›
    | with_reducible refine OptSteadyP.of ?_ ‹_ = some (_, _)›

theorem ringChunk_steady {og : State} {m : State × Option RingEntry} {p : PktHdr} {h : RingHdr} {d : RingData} {first : Option RingFirst} {bytes : List Byte} (hm : Steady og m.1) : Steady og (ringChunk m p h d first bytes).1 := by
  unfold ringChunk
  repeat' first
    | with_reducible assumption
    | (intro z; clear_value z)
    | intro _
    | with_reducible apply takeRingChunk_steady
    | with_reducible apply foldl_steady
    | with_reducible apply foldl_fst_steady
    | split
    | lift_lets -underBinder
    | simp -zeta only [Steady.mk]
    | with_reducible refine Steady.fst ?_ ‹_ = (_, _)›
    | with_reducible refine OptSteadyP.of ?_ ‹_ = some (_, _)›

theorem execRingChunkArrival_steady {og : State} {p : PktHdr} {h : RingHdr} {d : RingData} {first : Option RingFirst} {bytes : List Byte} {s : State} (hs : Steady og s) : OutSteady og (execRingChunkArrival p h d first bytes s) := by
  unfold execRingChunkArrival
  repeat' first
    | with_reducible assumption
    | (intro z; clear_value z)
    | intro _
    | with_reducible apply OutSteady.next
    | with_reducible apply returnCredit_steady
    | with_reducible apply holdIn_steady
    | with_reducible apply admitPacket_steady
    | with_reducible apply ringMsg_steady
    | with_reducible apply ringChunk_steady
    | with_reducible apply foldl_steady
    | with_reducible apply foldl_fst_steady
    | split
    | lift_lets -underBinder
    | simp -zeta only [Steady.mk]
    | with_reducible refine Steady.fst ?_ ‹_ = (_, _)›
    | with_reducible refine OptSteadyP.of ?_ ‹_ = some (_, _)›

theorem execSlotFree_steady {og : State} {p : PktHdr} {h : RingHdr} {visitor : Fin 3} {s : State} (hs : Steady og s) : OutSteady og (execSlotFree p h visitor s) := by
  unfold execSlotFree
  repeat' first
    | with_reducible assumption
    | (intro z; refine (fun hz => ?_ : Steady og z → _) ?_; rotate_left; subst z; rotate_left; clear_value z)
    | (intro z; refine (fun hz => ?_ : Steady og z.1 → _) ?_; rotate_left; subst z; rotate_left; clear_value z)
    | (intro z; clear_value z)
    | intro _
    | with_reducible apply OutSteady.next
    | with_reducible apply ingress_steady
    | with_reducible apply State.setBind_steady
    | with_reducible apply settlePass_steady
    | with_reducible apply ringMsg_steady
    | with_reducible apply foldl_steady
    | with_reducible apply foldl_fst_steady
    | split
    | lift_lets -underBinder
    | simp -zeta only [Steady.mk]
    | with_reducible refine Steady.fst ?_ ‹_ = (_, _)›
    | with_reducible refine OptSteadyP.of ?_ ‹_ = some (_, _)›

theorem execRingAck_steady {og : State} {p : PktHdr} {h : RingHdr} {d : RingData} {s : State} (hs : Steady og s) : OutSteady og (execRingAck p h d s) := by
  unfold execRingAck
  repeat' first
    | with_reducible assumption
    | (intro z; refine (fun hz => ?_ : Steady og z → _) ?_; rotate_left; subst z; rotate_left; clear_value z)
    | (intro z; refine (fun hz => ?_ : Steady og z.1 → _) ?_; rotate_left; subst z; rotate_left; clear_value z)
    | (intro z; clear_value z)
    | intro _
    | with_reducible apply OutSteady.next
    | with_reducible apply ingress_steady
    | with_reducible apply State.setBind_steady
    | with_reducible apply settlePass_steady
    | with_reducible apply ringMsg_steady
    | with_reducible apply foldl_steady
    | with_reducible apply foldl_fst_steady
    | split
    | lift_lets -underBinder
    | simp -zeta only [Steady.mk]
    | with_reducible refine Steady.fst ?_ ‹_ = (_, _)›
    | with_reducible refine OptSteadyP.of ?_ ‹_ = some (_, _)›

theorem holdChange_steady {og : State} {p : PktHdr} {h : RingHdr} {s : State} {on : Bool} (hs : Steady og s) : Steady og (holdChange p h s on) := by
  unfold holdChange
  repeat' first
    | with_reducible assumption
    | (intro z; refine (fun hz => ?_ : Steady og z → _) ?_; rotate_left; subst z; rotate_left; clear_value z)
    | (intro z; refine (fun hz => ?_ : Steady og z.1 → _) ?_; rotate_left; subst z; rotate_left; clear_value z)
    | (intro z; clear_value z)
    | intro _
    | with_reducible apply ingress_steady
    | with_reducible apply State.setBind_steady
    | with_reducible apply ringMsg_steady
    | with_reducible apply foldl_steady
    | with_reducible apply foldl_fst_steady
    | split
    | lift_lets -underBinder
    | simp -zeta only [Steady.mk]
    | with_reducible refine Steady.fst ?_ ‹_ = (_, _)›
    | with_reducible refine OptSteadyP.of ?_ ‹_ = some (_, _)›

theorem execHold_steady {og : State} {p : PktHdr} {h : RingHdr} {s : State} (hs : Steady og s) : OutSteady og (execHold p h s) := by
  unfold execHold
  repeat' first
    | with_reducible assumption
    | (intro z; clear_value z)
    | intro _
    | with_reducible apply OutSteady.next
    | with_reducible apply holdChange_steady
    | with_reducible apply foldl_steady
    | with_reducible apply foldl_fst_steady
    | split
    | lift_lets -underBinder
    | simp -zeta only [Steady.mk]
    | with_reducible refine Steady.fst ?_ ‹_ = (_, _)›
    | with_reducible refine OptSteadyP.of ?_ ‹_ = some (_, _)›

theorem execResume_steady {og : State} {p : PktHdr} {h : RingHdr} {s : State} (hs : Steady og s) : OutSteady og (execResume p h s) := by
  unfold execResume
  repeat' first
    | with_reducible assumption
    | (intro z; clear_value z)
    | intro _
    | with_reducible apply OutSteady.next
    | with_reducible apply holdChange_steady
    | with_reducible apply foldl_steady
    | with_reducible apply foldl_fst_steady
    | split
    | lift_lets -underBinder
    | simp -zeta only [Steady.mk]
    | with_reducible refine Steady.fst ?_ ‹_ = (_, _)›
    | with_reducible refine OptSteadyP.of ?_ ‹_ = some (_, _)›

theorem execRingAbandon_steady {og : State} {p : PktHdr} {h : RingHdr} {s : State} (hs : Steady og s) : OutSteady og (execRingAbandon p h s) := by
  unfold execRingAbandon
  repeat' first
    | with_reducible assumption
    | (intro z; refine (fun hz => ?_ : Steady og z → _) ?_; rotate_left; subst z; rotate_left; clear_value z)
    | (intro z; refine (fun hz => ?_ : Steady og z.1 → _) ?_; rotate_left; subst z; rotate_left; clear_value z)
    | (intro z; clear_value z)
    | intro _
    | with_reducible apply OutSteady.next
    | with_reducible apply ingress_steady
    | with_reducible apply endPass_steady
    | with_reducible apply ringMsg_steady
    | with_reducible apply foldl_steady
    | with_reducible apply foldl_fst_steady
    | split
    | lift_lets -underBinder
    | simp -zeta only [Steady.mk]
    | with_reducible refine Steady.fst ?_ ‹_ = (_, _)›
    | with_reducible refine OptSteadyP.of ?_ ‹_ = some (_, _)›

theorem setBroken_steady {og : State} {s : State} {id : BitVec 12} (hs : Steady og s) : Steady og (setBroken s id) := by
  unfold setBroken
  repeat' first
    | with_reducible assumption
    | intro _
    | with_reducible apply State.forAll_steady
    | with_reducible apply State.setRing_steady
    | with_reducible apply endPass_steady
    | split

theorem breakRing_steady {og : State} {s : State} {r : RingEntry} {suspect : Nat} (hs : Steady og s) : Steady og (breakRing s r suspect) := by
  unfold breakRing
  repeat' first
    | with_reducible assumption
    | intro _
    | with_reducible apply State.forAll_steady
    | with_reducible apply emit_steady
    | with_reducible apply sendRing_steady
    | with_reducible apply setBroken_steady

theorem execBrokenMessage_steady {og : State} {p : PktHdr} {h : RingHdr} {s : State} (hs : Steady og s) : OutSteady og (execBrokenMessage p h s) := by
  unfold execBrokenMessage
  repeat' first
    | with_reducible assumption
    | (intro z; refine (fun hz => ?_ : Steady og z → _) ?_; rotate_left; subst z; rotate_left; clear_value z)
    | (intro z; refine (fun hz => ?_ : Steady og z.1 → _) ?_; rotate_left; subst z; rotate_left; clear_value z)
    | (intro z; clear_value z)
    | intro _
    | with_reducible apply OutSteady.next
    | with_reducible apply ingress_steady
    | with_reducible apply ringMsg_steady
    | with_reducible apply setBroken_steady
    | with_reducible apply foldl_steady
    | with_reducible apply foldl_fst_steady
    | split
    | lift_lets -underBinder
    | simp -zeta only [Steady.mk]
    | with_reducible refine Steady.fst ?_ ‹_ = (_, _)›
    | with_reducible refine OptSteadyP.of ?_ ‹_ = some (_, _)›

theorem execRingBreakTimer_steady {og : State} {b : Fin 16384} {s : State} (hs : Steady og s) : OutSteady og (execRingBreakTimer b s) := by
  unfold execRingBreakTimer
  repeat' first
    | with_reducible assumption
    | (intro z; clear_value z)
    | with_reducible apply OutSteady.next
    | with_reducible apply breakRing_steady
    | split
    | lift_lets -underBinder

theorem ringUnreachable_steady {og : State} {s : State} {d : Nat} (hs : Steady og s) : Steady og (ringUnreachable s d) := by
  unfold ringUnreachable
  repeat' first
    | with_reducible assumption
    | intro _
    | with_reducible apply State.forAll_steady
    | with_reducible apply breakRing_steady

theorem execRingDueTime_steady {og : State} {b : Fin 16384} {s : State} (hs : Steady og s) : OutSteady og (execRingDueTime b s) := by
  unfold execRingDueTime
  repeat' first
    | with_reducible assumption
    | (intro z; refine (fun hz => ?_ : Steady og z → _) ?_; rotate_left; subst z; rotate_left; clear_value z)
    | (intro z; clear_value z)
    | with_reducible apply OutSteady.next
    | with_reducible apply emit_steady
    | with_reducible apply count_steady
    | with_reducible apply State.setBind_steady
    | split
    | lift_lets -underBinder

theorem State.modPasses_steady {og : State} {s : State} {q : Pass → Bool} {f : Pass → Pass} (hs : Steady og s) : Steady og (State.modPasses s q f) := by
  unfold State.modPasses
  repeat' first
    | with_reducible assumption
    | intro _
    | with_reducible apply State.forAll_steady
    | with_reducible apply State.setBind_steady

theorem holdLaunch_steady {og : State} {s : State} {n : Fin 16} {on : Bool} (hs : Steady og s) : Steady og (holdLaunch s n on) := by
  unfold holdLaunch
  repeat' first
    | with_reducible assumption
    | (intro z; clear_value z)
    | intro _
    | with_reducible apply State.forAll_steady
    | with_reducible apply State.setBind_steady
    | with_reducible apply sendPass_steady
    | split
    | lift_lets -underBinder

theorem resendRing_steady {og : State} {s : State} {b : Nat} {u : RingSent} (hs : Steady og s) : Steady og (resendRing s b u) := by
  unfold resendRing
  repeat' first
    | with_reducible assumption
    | (intro z; clear_value z)
    | intro _
    | with_reducible apply State.forAll_steady
    | with_reducible apply relaunch_steady
    | with_reducible apply foldl_steady
    | with_reducible apply foldl_fst_steady
    | split
    | lift_lets -underBinder
    | simp -zeta only [Steady.mk]
    | with_reducible refine Steady.fst ?_ ‹_ = (_, _)›
    | with_reducible refine OptSteadyP.of ?_ ‹_ = some (_, _)›

theorem ringPlaneLost_steady {og : State} {s : State} {plane : Nat} {dst : BitVec 12 → Bool} (hs : Steady og s) : Steady og (ringPlaneLost s plane dst) := by
  unfold ringPlaneLost
  repeat' first
    | with_reducible assumption
    | (intro z; clear_value z)
    | intro _
    | with_reducible apply State.forAll_steady
    | with_reducible apply State.setBind_steady
    | with_reducible apply resendRing_steady
    | split
    | lift_lets -underBinder

theorem unbind_steady {og : State} {s : State} {b : Nat} (hs : Steady og s) : Steady og (unbind s b) := by
  unfold unbind
  repeat' first
    | with_reducible assumption
    | intro _
    | with_reducible apply State.forAll_steady
    | with_reducible apply State.setSeq_steady
    | with_reducible apply freeSeq_steady
    | with_reducible apply State.setBind_steady

theorem freeSequence_steady {og : State} {s : State} {h : Nat} (hs : Steady og s) : Steady og (freeSequence s h) := by
  unfold freeSequence
  repeat' first
    | with_reducible assumption
    | with_reducible apply freeSeq_steady
    | with_reducible apply endPass_steady
    | with_reducible apply unbind_steady
    | split

theorem makeVisitor_steady {og : State} {s : State} {e : SeqEntry} {n : Nat} (hs : Steady og s) : OptSteadyP og (makeVisitor s e n) := by
  unfold makeVisitor
  repeat' first
    | with_reducible assumption
    | intro _
    | with_reducible exact OptSteadyP.none'
    | with_reducible apply OptSteadyP.mapS
    | with_reducible apply State.forAll_steady
    | with_reducible apply writeEntries_steady
    | with_reducible apply createSeq_steady
    | with_reducible apply takePages_steady
    | split

theorem makeBinding_steady {og : State} {s : State} {id : BitVec 12} {tag : BitVec 16} {h : Nat} {b : Nat} {n : Nat} (hs : Steady og s) : OptSteady og (makeBinding s id tag h b n) := by
  unfold makeBinding
  repeat' first
    | with_reducible assumption
    | (intro z; refine (fun hz => ?_ : Steady og z → _) ?_; rotate_left; subst z; rotate_left; clear_value z)
    | (intro z; clear_value z)
    | intro _
    | with_reducible exact OptSteady.none'
    | with_reducible apply OptSteady.map
    | with_reducible apply State.setSeq_steady
    | with_reducible apply State.setBind_steady
    | with_reducible apply makeVisitor_steady
    | split
    | lift_lets -underBinder
    | with_reducible refine OptSteadyP.of ?_ ‹_ = some (_, _)›

/-! Machine/Coll. -/

/-- The state that a step of an instance answers. -/
def CollStep.out : CollStep → State
  | .go s => s
  | .wait s => s
  | .fail s _ => s

/-- A step of an instance that keeps them. -/
structure StepSteady (o : State) (c : CollStep) : Prop where
  keep : Steady o c.out
structure OptStepSteady (o : State) (r : Option CollStep) : Prop where
  keep : ∀ c, r = some c → StepSteady o c

theorem StepSteady.go {o s : State} (h : Steady o s) : StepSteady o (.go s) := ⟨h⟩
theorem StepSteady.wait {o s : State} (h : Steady o s) : StepSteady o (.wait s) := ⟨h⟩
theorem StepSteady.fail {o s : State} {st : Nat} (h : Steady o s) : StepSteady o (.fail s st) := ⟨h⟩
theorem OptStepSteady.none' {o : State} : OptStepSteady o none := ⟨fun _ e => by cases e⟩
theorem OptStepSteady.some' {o : State} {c : CollStep} (h : StepSteady o c) : OptStepSteady o (some c) :=
  ⟨fun _ e => by cases e; exact h⟩
theorem OptStepSteady.orElse {o : State} {r : Option CollStep} {f : Unit → Option CollStep} (h : OptStepSteady o r)
    (hf : OptStepSteady o (f ())) : OptStepSteady o (r.orElse f) := by
  cases r with
  | none => exact hf
  | some c => exact h
theorem OptStepSteady.map {o : State} {α : Type} {r : Option α} {f : α → CollStep} (hf : ∀ a, StepSteady o (f a)) :
    OptStepSteady o (r.map f) :=
  ⟨fun t e => by cases r with
    | none => cases e
    | some p => cases e; exact hf p⟩
theorem StepSteady.ofGo {o s : State} {c : CollStep} (h : StepSteady o c) (e : c = .go s) : Steady o s := by subst e; exact h.keep
theorem StepSteady.ofWait {o s : State} {c : CollStep} (h : StepSteady o c) (e : c = .wait s) : Steady o s := by subst e; exact h.keep
theorem StepSteady.ofFail {o s : State} {c : CollStep} {st : Nat} (h : StepSteady o c) (e : c = .fail s st) : Steady o s := by
  subst e; exact h.keep

theorem State.setGroup_steady {og : State} {s : State} {g : Nat} {x : GroupEntry} (hs : Steady og s) : Steady og (State.setGroup s g x) := by
  unfold State.setGroup
  repeat' first
    | with_reducible assumption
    | (intro z; clear_value z)
    | lift_lets -underBinder
    | simp -zeta only [Steady.mk]

theorem setColl_steady {og : State} {s : State} {i : Coll} (hs : Steady og s) : Steady og (setColl s i) := by
  unfold setColl
  repeat' first
    | with_reducible assumption
    | (intro z; clear_value z)
    | lift_lets -underBinder
    | simp -zeta only [Steady.mk]

theorem sendColl_steady {og : State} {s : State} {dst : Nat} {group : Nat} {seq : Word32} {check : BitVec 64} {domain : Nat} {kind : Nat} {items : List (Nat × Nat)} (hs : Steady og s) : Steady og (sendColl s dst group seq check domain kind items) := by
  unfold sendColl
  repeat' first
    | with_reducible assumption
    | with_reducible apply sendControl_steady
    | split

theorem sendCollTo_steady {og : State} {s : State} {i : Coll} {peer : Nat} {kind : Nat} {items : List (Nat × Nat)} (hs : Steady og s) : Steady og (sendCollTo s i peer kind items) := by
  unfold sendCollTo
  repeat' first
    | with_reducible assumption
    | with_reducible apply sendColl_steady

theorem collFault_steady {og : State} {s : State} {status : Nat} {group : Nat} {seq : Word32} {src : Nat} (hs : Steady og s) : Steady og (collFault s status group seq src) := by
  unfold collFault
  repeat' first
    | with_reducible assumption
    | with_reducible apply emit_steady

theorem setOutcome_steady {og : State} {s : State} {group : Nat} {seq : Word32} {bad : Bool} (hs : Steady og s) : Steady og (setOutcome s group seq bad) := by
  unfold setOutcome
  repeat' first
    | with_reducible assumption
    | with_reducible apply State.setGroup_steady

theorem collWithdraw_steady {og : State} {s : State} {i : Coll} (hs : Steady og s) : Steady og (collWithdraw s i) := by
  unfold collWithdraw
  repeat' first
    | with_reducible assumption
    | with_reducible apply sendReq_steady
    | split

theorem endCollTo_steady {og : State} {s : State} {i : Coll} {status : Nat} {tell : List Nat} (hs : Steady og s) : Steady og (endCollTo s i status tell) := by
  unfold endCollTo
  repeat' first
    | with_reducible assumption
    | (intro z; clear_value z)
    | intro _
    | with_reducible apply State.forAll_steady
    | with_reducible apply hubWord_steady
    | with_reducible apply sendCollTo_steady
    | with_reducible apply setOutcome_steady
    | with_reducible apply collWithdraw_steady
    | with_reducible apply foldl_steady
    | with_reducible apply foldl_fst_steady
    | split
    | lift_lets -underBinder
    | simp -zeta only [Steady.mk]
    | with_reducible refine Steady.fst ?_ ‹_ = (_, _)›
    | with_reducible refine OptSteadyP.of ?_ ‹_ = some (_, _)›

theorem endColl_steady {og : State} {s : State} {i : Coll} {status : Nat} (hs : Steady og s) : Steady og (endColl s i status) := by
  unfold endColl
  repeat' first
    | with_reducible assumption
    | with_reducible apply endCollTo_steady

theorem collMeet_steady {og : State} {s : State} {die : Fin 5} {a : Nat} {n : Nat} {d : Nat} {write : Bool} (hs : Steady og s) : Steady og (collMeet s die a n d write).1 := by
  unfold collMeet
  repeat' first
    | with_reducible assumption
    | (intro z; clear_value z)
    | intro _
    | with_reducible apply meetGrain_steady
    | with_reducible apply foldl_steady
    | with_reducible apply foldl_fst_steady
    | split
    | lift_lets -underBinder
    | simp -zeta only [Steady.mk]
    | with_reducible refine Steady.fst ?_ ‹_ = (_, _)›
    | with_reducible refine OptSteadyP.of ?_ ‹_ = some (_, _)›

theorem collStore_steady {og : State} {s : State} {die : Fin 5} {a : Nat} {l : List Byte} (hs : Steady og s) : Steady og (collStore s die a l).1 := by
  unfold collStore
  repeat' first
    | with_reducible assumption
    | (intro z; clear_value z)
    | intro _
    | with_reducible apply storeAcross_steady
    | with_reducible apply plainWrite_steady
    | with_reducible apply foldl_steady
    | with_reducible apply foldl_fst_steady
    | split
    | lift_lets -underBinder
    | simp -zeta only [Steady.mk]
    | with_reducible refine Steady.fst ?_ ‹_ = (_, _)›
    | with_reducible refine OptSteadyP.of ?_ ‹_ = some (_, _)›

theorem holdColl_steady {og : State} {s : State} {i : Coll} {a : Option Nat} (hs : Steady og s) : Steady og (holdColl s i a) := by
  unfold holdColl
  repeat' first
    | with_reducible assumption
    | (intro z; clear_value z)
    | intro _
    | with_reducible apply setColl_steady
    | with_reducible apply foldl_steady
    | with_reducible apply foldl_fst_steady
    | split
    | lift_lets -underBinder
    | simp -zeta only [Steady.mk]
    | with_reducible refine Steady.fst ?_ ‹_ = (_, _)›
    | with_reducible refine OptSteadyP.of ?_ ‹_ = some (_, _)›

theorem collMet_steady {og : State} {m : State × Access} {i : Coll} {a : Nat} {n : Nat} {f : State → CollStep} (hm : Steady og m.1) (hf : ∀ (a0 : State), Steady og a0 → StepSteady og (f a0)) : StepSteady og (collMet m i a n f) := by
  unfold collMet
  repeat' first
    | with_reducible assumption
    | (intro z; clear_value z)
    | intro _
    | with_reducible apply StepSteady.go
    | with_reducible apply StepSteady.wait
    | with_reducible apply StepSteady.fail
    | with_reducible apply hf
    | with_reducible apply holdColl_steady
    | with_reducible apply foldl_steady
    | with_reducible apply foldl_fst_steady
    | split
    | lift_lets -underBinder
    | simp -zeta only [Steady.mk]
    | with_reducible refine Steady.fst ?_ ‹_ = (_, _)›
    | with_reducible refine OptSteadyP.of ?_ ‹_ = some (_, _)›

theorem collAccess_steady {og : State} {s : State} {i : Coll} {die : Fin 5} {a : Nat} {n : Nat} {write : Bool} {f : State → CollStep} (hs : Steady og s) (hf : ∀ (a0 : State), Steady og a0 → StepSteady og (f a0)) : StepSteady og (collAccess s i die a n write f) := by
  unfold collAccess
  repeat' first
    | with_reducible assumption
    | (intro z; clear_value z)
    | intro _
    | with_reducible apply StepSteady.go
    | with_reducible apply StepSteady.wait
    | with_reducible apply StepSteady.fail
    | with_reducible apply hf
    | with_reducible apply collMeet_steady
    | with_reducible apply collMet_steady
    | with_reducible apply foldl_steady
    | with_reducible apply foldl_fst_steady
    | split
    | lift_lets -underBinder
    | simp -zeta only [Steady.mk]
    | with_reducible refine Steady.fst ?_ ‹_ = (_, _)›
    | with_reducible refine OptSteadyP.of ?_ ‹_ = some (_, _)›
    | with_reducible refine StepSteady.ofGo ?_ ‹_ = CollStep.go _›
    | with_reducible refine StepSteady.ofWait ?_ ‹_ = CollStep.wait _›
    | with_reducible refine StepSteady.ofFail ?_ ‹_ = CollStep.fail _ _›

theorem collPut_steady {og : State} {s : State} {i : Coll} {die : Fin 5} {a : Nat} {l : List Byte} {f : State → State} (hs : Steady og s) (hf : ∀ (a0 : State), Steady og a0 → Steady og (f a0)) : StepSteady og (collPut s i die a l f) := by
  unfold collPut
  repeat' first
    | with_reducible assumption
    | (intro z; refine (fun hz => ?_ : Steady og z → _) ?_; rotate_left; subst z; rotate_left; clear_value z)
    | (intro z; refine (fun hz => ?_ : Steady og z.1 → _) ?_; rotate_left; subst z; rotate_left; clear_value z)
    | (intro z; clear_value z)
    | intro _
    | with_reducible apply StepSteady.go
    | with_reducible apply StepSteady.wait
    | with_reducible apply StepSteady.fail
    | with_reducible apply hf
    | with_reducible apply collStore_steady
    | with_reducible apply collAccess_steady
    | with_reducible apply foldl_steady
    | with_reducible apply foldl_fst_steady
    | split
    | lift_lets -underBinder
    | simp -zeta only [Steady.mk]
    | with_reducible refine Steady.fst ?_ ‹_ = (_, _)›
    | with_reducible refine OptSteadyP.of ?_ ‹_ = some (_, _)›
    | with_reducible refine StepSteady.ofGo ?_ ‹_ = CollStep.go _›
    | with_reducible refine StepSteady.ofWait ?_ ‹_ = CollStep.wait _›
    | with_reducible refine StepSteady.ofFail ?_ ‹_ = CollStep.fail _ _›

theorem localMeet_steady {og : State} {s : State} {i : Coll} {p : Nat} {c : Nat} (hs : Steady og s) : Steady og (localMeet s i p c).1 := by
  unfold localMeet
  repeat' first
    | with_reducible assumption
    | (intro z; clear_value z)
    | intro _
    | with_reducible apply collMeet_steady
    | with_reducible apply foldl_steady
    | with_reducible apply foldl_fst_steady
    | split
    | lift_lets -underBinder
    | simp -zeta only [Steady.mk]
    | with_reducible refine Steady.fst ?_ ‹_ = (_, _)›
    | with_reducible refine OptSteadyP.of ?_ ‹_ = some (_, _)›

theorem putTerm_steady {og : State} {s : State} {i : Coll} {l : Nat} {p : Nat} {c : Nat} {m : Nat} {k : Nat} {b : List Byte} (hs : Steady og s) : StepSteady og (putTerm s i l p c m k b) := by
  unfold putTerm
  repeat' first
    | with_reducible assumption
    | with_reducible apply setColl_steady
    | with_reducible apply StepSteady.go

theorem foldNext_steady {og : State} {s : State} {g : GroupEntry} {i : Coll} {l : Nat} {p : Nat} {c : Nat} (hs : Steady og s) : OptStepSteady og (foldNext s g i l p c) := by
  unfold foldNext
  repeat' first
    | with_reducible assumption
    | (intro z; refine (fun hz => ?_ : Steady og z → _) ?_; rotate_left; subst z; rotate_left; clear_value z)
    | (intro z; refine (fun hz => ?_ : Steady og z.1 → _) ?_; rotate_left; subst z; rotate_left; clear_value z)
    | (intro z; clear_value z)
    | intro _
    | with_reducible apply OptStepSteady.none'
    | with_reducible apply OptStepSteady.some'
    | with_reducible apply OptStepSteady.map
    | with_reducible apply OptStepSteady.orElse
    | with_reducible apply StepSteady.go
    | with_reducible apply StepSteady.wait
    | with_reducible apply StepSteady.fail
    | with_reducible apply holdColl_steady
    | with_reducible apply localMeet_steady
    | with_reducible apply putTerm_steady
    | with_reducible apply foldl_steady
    | with_reducible apply foldl_fst_steady
    | split
    | lift_lets -underBinder
    | simp -zeta only [Steady.mk]
    | with_reducible refine Steady.fst ?_ ‹_ = (_, _)›
    | with_reducible refine OptSteadyP.of ?_ ‹_ = some (_, _)›
    | with_reducible refine StepSteady.ofGo ?_ ‹_ = CollStep.go _›
    | with_reducible refine StepSteady.ofWait ?_ ‹_ = CollStep.wait _›
    | with_reducible refine StepSteady.ofFail ?_ ‹_ = CollStep.fail _ _›

theorem firstStep_steady {og : State} {α : Type} {l : List α} {f : α → Option CollStep} (hf : ∀ a, OptStepSteady og (f a)) :
    OptStepSteady og (firstStep l f) := by
  unfold firstStep
  induction l with
  | nil => exact OptStepSteady.none'
  | cons a l ih =>
    unfold List.findSome?
    split
    · rename_i b e
      exact e ▸ hf a
    · exact ih

theorem collBegin_steady {og : State} {s : State} {g : GroupEntry} {i : Coll} (hs : Steady og s) : OptStepSteady og (collBegin s g i) := by
  unfold collBegin
  repeat' first
    | with_reducible assumption
    | (intro z; clear_value z)
    | intro _
    | with_reducible apply OptStepSteady.none'
    | with_reducible apply OptStepSteady.some'
    | with_reducible apply OptStepSteady.map
    | with_reducible apply OptStepSteady.orElse
    | with_reducible apply StepSteady.go
    | with_reducible apply StepSteady.wait
    | with_reducible apply StepSteady.fail
    | with_reducible apply setColl_steady
    | with_reducible apply collPut_steady
    | with_reducible apply foldl_steady
    | with_reducible apply foldl_fst_steady
    | split
    | lift_lets -underBinder
    | simp -zeta only [Steady.mk]
    | with_reducible refine Steady.fst ?_ ‹_ = (_, _)›
    | with_reducible refine OptSteadyP.of ?_ ‹_ = some (_, _)›
    | with_reducible refine StepSteady.ofGo ?_ ‹_ = CollStep.go _›
    | with_reducible refine StepSteady.ofWait ?_ ‹_ = CollStep.wait _›
    | with_reducible refine StepSteady.ofFail ?_ ‹_ = CollStep.fail _ _›

theorem collCopy_steady {og : State} {s : State} {g : GroupEntry} {i : Coll} (hs : Steady og s) : OptStepSteady og (collCopy s g i) := by
  unfold collCopy
  repeat' first
    | with_reducible assumption
    | (intro z; refine (fun hz => ?_ : Steady og z → _) ?_; rotate_left; subst z; rotate_left; clear_value z)
    | (intro z; refine (fun hz => ?_ : Steady og z.1 → _) ?_; rotate_left; subst z; rotate_left; clear_value z)
    | (intro z; refine (fun hz => ?_ : (∀ s, Steady og s → Steady og (z s)) → _) ?_; rotate_left; subst z; rotate_left; clear_value z)
    | (intro z; refine (fun hz => ?_ : (∀ s a0, Steady og s → Steady og (z s a0)) → _) ?_; rotate_left; subst z; rotate_left; clear_value z)
    | (intro z; refine (fun hz => ?_ : (∀ s a0 a1, Steady og s → Steady og (z s a0 a1)) → _) ?_; rotate_left; subst z; rotate_left; clear_value z)
    | (intro z; refine (fun hz => ?_ : (∀ s a0 a1 a2, Steady og s → Steady og (z s a0 a1 a2)) → _) ?_; rotate_left; subst z; rotate_left; clear_value z)
    | (intro z; refine (fun hz => ?_ : (∀ s a0, Steady og s → Steady og (z s a0).1) → _) ?_; rotate_left; subst z; rotate_left; clear_value z)
    | (intro z; refine (fun hz => ?_ : (∀ s a0 a1, Steady og s → Steady og (z s a0 a1).1) → _) ?_; rotate_left; subst z; rotate_left; clear_value z)
    | (intro z; clear_value z)
    | intro _
    | with_reducible apply OptStepSteady.none'
    | with_reducible apply OptStepSteady.some'
    | with_reducible apply OptStepSteady.map
    | with_reducible apply OptStepSteady.orElse
    | with_reducible apply StepSteady.go
    | with_reducible apply StepSteady.wait
    | with_reducible apply StepSteady.fail
    | with_reducible apply setColl_steady
    | with_reducible apply collAccess_steady
    | with_reducible apply collPut_steady
    | with_reducible apply foldl_steady
    | with_reducible apply foldl_fst_steady
    | split
    | lift_lets -underBinder
    | simp -zeta only [Steady.mk]
    | with_reducible refine Steady.fst ?_ ‹_ = (_, _)›
    | with_reducible refine OptSteadyP.of ?_ ‹_ = some (_, _)›
    | with_reducible refine StepSteady.ofGo ?_ ‹_ = CollStep.go _›
    | with_reducible refine StepSteady.ofWait ?_ ‹_ = CollStep.wait _›
    | with_reducible refine StepSteady.ofFail ?_ ‹_ = CollStep.fail _ _›
    | with_reducible apply_assumption

theorem collWrite_steady {og : State} {s : State} {g : GroupEntry} {i : Coll} {c : Nat} (hs : Steady og s) : OptStepSteady og (collWrite s g i c) := by
  unfold collWrite
  repeat' first
    | with_reducible assumption
    | (intro z; clear_value z)
    | intro _
    | with_reducible apply OptStepSteady.none'
    | with_reducible apply OptStepSteady.some'
    | with_reducible apply OptStepSteady.map
    | with_reducible apply OptStepSteady.orElse
    | with_reducible apply StepSteady.go
    | with_reducible apply StepSteady.wait
    | with_reducible apply StepSteady.fail
    | with_reducible apply setColl_steady
    | with_reducible apply collPut_steady
    | with_reducible apply foldl_steady
    | with_reducible apply foldl_fst_steady
    | split
    | lift_lets -underBinder
    | simp -zeta only [Steady.mk]
    | with_reducible refine Steady.fst ?_ ‹_ = (_, _)›
    | with_reducible refine OptSteadyP.of ?_ ‹_ = some (_, _)›
    | with_reducible refine StepSteady.ofGo ?_ ‹_ = CollStep.go _›
    | with_reducible refine StepSteady.ofWait ?_ ‹_ = CollStep.wait _›
    | with_reducible refine StepSteady.ofFail ?_ ‹_ = CollStep.fail _ _›

theorem sendBytes_steady {og : State} {s : State} {g : GroupEntry} {i : Coll} {q : CollPart} (hs : Steady og s) : OptSteadyP og (sendBytes s g i q) := by
  unfold sendBytes
  repeat' first
    | with_reducible assumption
    | (intro z; refine (fun hz => ?_ : Steady og z → _) ?_; rotate_left; subst z; rotate_left; clear_value z)
    | (intro z; refine (fun hz => ?_ : Steady og z.1 → _) ?_; rotate_left; subst z; rotate_left; clear_value z)
    | (intro z; clear_value z)
    | intro _
    | with_reducible apply OptSteadyP.none'
    | with_reducible apply OptSteadyP.some'
    | with_reducible apply OptSteadyP.map
    | with_reducible apply collMeet_steady
    | with_reducible apply localMeet_steady
    | with_reducible apply foldl_steady
    | with_reducible apply foldl_fst_steady
    | split
    | lift_lets -underBinder
    | simp -zeta only [Steady.mk]
    | with_reducible refine Steady.fst ?_ ‹_ = (_, _)›
    | with_reducible refine OptSteadyP.of ?_ ‹_ = some (_, _)›

theorem collSend_steady {og : State} {s : State} {g : GroupEntry} {i : Coll} {q : CollPart} (hs : Steady og s) : OptStepSteady og (collSend s g i q) := by
  unfold collSend
  repeat' first
    | with_reducible assumption
    | (intro z; clear_value z)
    | intro _
    | with_reducible apply OptStepSteady.none'
    | with_reducible apply OptStepSteady.some'
    | with_reducible apply OptStepSteady.map
    | with_reducible apply OptStepSteady.orElse
    | with_reducible apply StepSteady.go
    | with_reducible apply StepSteady.wait
    | with_reducible apply StepSteady.fail
    | with_reducible apply State.forAll_steady
    | with_reducible apply sendPacket_steady
    | with_reducible apply setColl_steady
    | with_reducible apply holdColl_steady
    | with_reducible apply sendBytes_steady
    | with_reducible apply foldl_steady
    | with_reducible apply foldl_fst_steady
    | split
    | lift_lets -underBinder
    | simp -zeta only [Steady.mk]
    | with_reducible refine Steady.fst ?_ ‹_ = (_, _)›
    | with_reducible refine OptSteadyP.of ?_ ‹_ = some (_, _)›

theorem collResend_steady {og : State} {s : State} {g : GroupEntry} {i : Coll} {q : CollPart} (hs : Steady og s) : OptStepSteady og (collResend s g i q) := by
  unfold collResend
  repeat' first
    | with_reducible assumption
    | (intro z; clear_value z)
    | intro _
    | with_reducible apply OptStepSteady.none'
    | with_reducible apply OptStepSteady.some'
    | with_reducible apply OptStepSteady.map
    | with_reducible apply OptStepSteady.orElse
    | with_reducible apply StepSteady.go
    | with_reducible apply StepSteady.wait
    | with_reducible apply StepSteady.fail
    | with_reducible apply State.forAll_steady
    | with_reducible apply relaunch_steady
    | with_reducible apply setColl_steady
    | with_reducible apply holdColl_steady
    | with_reducible apply sendBytes_steady
    | with_reducible apply foldl_steady
    | with_reducible apply foldl_fst_steady
    | split
    | lift_lets -underBinder
    | simp -zeta only [Steady.mk]
    | with_reducible refine Steady.fst ?_ ‹_ = (_, _)›
    | with_reducible refine OptSteadyP.of ?_ ‹_ = some (_, _)›

theorem collGrant_steady {og : State} {s : State} {g : GroupEntry} {i : Coll} {q : CollPart} (hs : Steady og s) : OptStepSteady og (collGrant s g i q) := by
  unfold collGrant
  repeat' first
    | with_reducible assumption
    | with_reducible apply setColl_steady
    | with_reducible apply sendCollTo_steady
    | with_reducible apply StepSteady.go
    | with_reducible exact OptStepSteady.none'
    | with_reducible apply OptStepSteady.some'
    | split

theorem collDeliver_steady {og : State} {s : State} {g : GroupEntry} {i : Coll} (hs : Steady og s) : OptStepSteady og (collDeliver s g i) := by
  unfold collDeliver
  repeat' first
    | with_reducible assumption
    | with_reducible apply addObj_steady
    | with_reducible apply setColl_steady
    | with_reducible apply StepSteady.go
    | with_reducible exact OptStepSteady.none'
    | with_reducible apply OptStepSteady.some'
    | split

theorem collStep_steady {og : State} {s : State} {i : Coll} (hs : Steady og s) : OptStepSteady og (collStep s i) := by
  unfold collStep
  repeat' first
    | with_reducible assumption
    | (intro z; clear_value z)
    | intro _
    | with_reducible apply OptStepSteady.none'
    | with_reducible apply OptStepSteady.some'
    | with_reducible apply OptStepSteady.map
    | with_reducible apply OptStepSteady.orElse
    | with_reducible apply StepSteady.go
    | with_reducible apply StepSteady.wait
    | with_reducible apply StepSteady.fail
    | with_reducible apply endColl_steady
    | with_reducible apply foldNext_steady
    | with_reducible apply firstStep_steady
    | with_reducible apply collBegin_steady
    | with_reducible apply collCopy_steady
    | with_reducible apply collWrite_steady
    | with_reducible apply collSend_steady
    | with_reducible apply collResend_steady
    | with_reducible apply collGrant_steady
    | with_reducible apply collDeliver_steady
    | with_reducible apply foldl_steady
    | with_reducible apply foldl_fst_steady
    | split
    | lift_lets -underBinder
    | simp -zeta only [Steady.mk]
    | with_reducible refine Steady.fst ?_ ‹_ = (_, _)›
    | with_reducible refine OptSteadyP.of ?_ ‹_ = some (_, _)›

theorem settleCollN_steady {og : State} {k : Nat} : ∀ {s g q}, Steady og s → Steady og (settleCollN k s g q) := by
  induction k with
  | zero => intro s g q h; exact h
  | succ k ih =>
    intro s g q h
    unfold settleCollN
    split
    · exact h
    · rename_i i _
      have hc := collStep_steady (i := i) h
      split
      · exact h
      · rename_i e; exact (hc.keep _ e).keep
      · rename_i e; exact endColl_steady (hc.keep _ e).keep
      · rename_i e; exact ih (hc.keep _ e).keep

theorem settleColl_steady {og : State} {s : State} {g : Nat} {q : Word32} (hs : Steady og s) : Steady og (settleColl s g q) := by
  unfold settleColl
  repeat' first
    | with_reducible assumption
    | with_reducible apply settleCollN_steady
    | split

theorem settleColls_steady {og : State} {s : State} (hs : Steady og s) : Steady og (settleColls s) := by
  unfold settleColls
  repeat' first
    | with_reducible assumption
    | intro _
    | with_reducible apply State.forAll_steady
    | with_reducible apply settleColl_steady

theorem execSyncRequest_steady {og : State} {k : Nat} {s : State} (hs : Steady og s) : OutSteady og (execSyncRequest k s) := by
  unfold execSyncRequest
  repeat' first
    | with_reducible assumption
    | (intro z; clear_value z)
    | with_reducible apply OutSteady.next
    | with_reducible apply applyReq_steady
    | with_reducible apply settleRings_steady
    | with_reducible apply settleColls_steady
    | split
    | lift_lets -underBinder
    | simp -zeta only [Steady.mk]

theorem takeGrant_steady {og : State} {s : State} {i : Coll} {src : BitVec 12} {m : CollMsg} {first : Nat} {count : Nat} {plan : Option CollPlanItems} (hs : Steady og s) : Steady og (takeGrant s i src m first count plan) := by
  unfold takeGrant
  repeat' first
    | with_reducible assumption
    | (intro z; clear_value z)
    | with_reducible apply setColl_steady
    | with_reducible apply collFault_steady
    | with_reducible apply endColl_steady
    | split
    | lift_lets -underBinder

theorem takeEarlyGrants_steady {og : State} {s : State} {g : Nat} {q : Word32} (hs : Steady og s) : Steady og (takeEarlyGrants s g q) := by
  unfold takeEarlyGrants
  repeat' first
    | with_reducible assumption
    | (intro z; clear_value z)
    | intro _
    | with_reducible apply State.forAll_steady
    | with_reducible apply count_steady
    | with_reducible apply collFault_steady
    | with_reducible apply takeGrant_steady
    | with_reducible apply foldl_steady
    | with_reducible apply foldl_fst_steady
    | split
    | lift_lets -underBinder
    | simp -zeta only [Steady.mk]
    | with_reducible refine Steady.fst ?_ ‹_ = (_, _)›
    | with_reducible refine OptSteadyP.of ?_ ‹_ = some (_, _)›

theorem execColl_steady {og : State} {u : Issue} {plan : BitVec 16} {aSrc : Option (Fin 16)} {aDst : Option (Fin 16)} {s : State} (hs : Steady og s) : OutSteady og (execColl u plan aSrc aDst s) := by
  unfold execColl
  repeat' first
    | with_reducible assumption
    | (intro z; refine (fun hz => ?_ : Steady og z → _) ?_; rotate_left; subst z; rotate_left; clear_value z)
    | (intro z; refine (fun hz => ?_ : Steady og z.1 → _) ?_; rotate_left; subst z; rotate_left; clear_value z)
    | (intro z; clear_value z)
    | intro _
    | with_reducible apply OutSteady.next
    | with_reducible apply emit_steady
    | with_reducible apply advance_steady
    | with_reducible apply issue_steady
    | with_reducible apply issueFault_steady
    | with_reducible apply sendReq_steady
    | with_reducible apply State.setGroup_steady
    | with_reducible apply setOutcome_steady
    | with_reducible apply endCollTo_steady
    | with_reducible apply settleColls_steady
    | with_reducible apply takeEarlyGrants_steady
    | with_reducible apply foldl_steady
    | with_reducible apply foldl_fst_steady
    | split
    | lift_lets -underBinder
    | simp -zeta only [Steady.mk]
    | with_reducible refine Steady.fst ?_ ‹_ = (_, _)›
    | with_reducible refine OptSteadyP.of ?_ ‹_ = some (_, _)›

theorem lateMsg_steady {og : State} {s : State} {src : BitVec 12} {g : Nat} {q : Word32} {reply : Bool} (hs : Steady og s) : Steady og (lateMsg s src g q reply) := by
  unfold lateMsg
  repeat' first
    | with_reducible assumption
    | (intro z; clear_value z)
    | with_reducible apply count_steady
    | with_reducible apply sendColl_steady
    | split
    | lift_lets -underBinder

theorem collMsg_steady {og : State} {i : State × Bool} {p : PktHdr} {group : BitVec 12} {seq : Word32} {check : BitVec 64} (hi : Steady og i.1) : Steady og (collMsg i p group seq check).1 := by
  unfold collMsg
  repeat' first
    | with_reducible assumption
    | (intro z; clear_value z)
    | intro _
    | with_reducible apply count_steady
    | with_reducible apply collFault_steady
    | with_reducible apply foldl_steady
    | with_reducible apply foldl_fst_steady
    | split
    | lift_lets -underBinder
    | simp -zeta only [Steady.mk]
    | with_reducible refine Steady.fst ?_ ‹_ = (_, _)›
    | with_reducible refine OptSteadyP.of ?_ ‹_ = some (_, _)›

theorem execGrant_steady {og : State} {p : PktHdr} {g : CollMsg} {firstChunk : Nat} {count' : Nat} {plan : Option CollPlanItems} {s : State} (hs : Steady og s) : OutSteady og (execGrant p g firstChunk count' plan s) := by
  unfold execGrant
  repeat' first
    | with_reducible assumption
    | (intro z; refine (fun hz => ?_ : Steady og z → _) ?_; rotate_left; subst z; rotate_left; clear_value z)
    | (intro z; refine (fun hz => ?_ : Steady og z.1 → _) ?_; rotate_left; subst z; rotate_left; clear_value z)
    | (intro z; clear_value z)
    | intro _
    | with_reducible apply OutSteady.next
    | with_reducible apply ingress_steady
    | with_reducible apply settleColls_steady
    | with_reducible apply takeGrant_steady
    | with_reducible apply lateMsg_steady
    | with_reducible apply collMsg_steady
    | with_reducible apply foldl_steady
    | with_reducible apply foldl_fst_steady
    | split
    | lift_lets -underBinder
    | simp -zeta only [Steady.mk]
    | with_reducible refine Steady.fst ?_ ‹_ = (_, _)›
    | with_reducible refine OptSteadyP.of ?_ ‹_ = some (_, _)›

theorem crcFailed_steady {og : State} {s : State} {i : Coll} {q : CollPart} {src : Nat} (hs : Steady og s) : Steady og (crcFailed s i q src) := by
  unfold crcFailed
  repeat' first
    | with_reducible assumption
    | (intro z; refine (fun hz => ?_ : Steady og z → _) ?_; rotate_left; subst z; rotate_left; clear_value z)
    | (intro z; clear_value z)
    | with_reducible apply emit_steady
    | with_reducible apply count_steady
    | with_reducible apply setColl_steady
    | with_reducible apply sendCollTo_steady
    | with_reducible apply endColl_steady
    | split
    | lift_lets -underBinder

theorem collChunk_steady {og : State} {m : State × Bool} {p : PktHdr} {header : BitVec 512} {payload : List Byte} (hm : Steady og m.1) : Steady og (collChunk m p header payload).1 := by
  unfold collChunk
  repeat' first
    | with_reducible assumption
    | (intro z; refine (fun hz => ?_ : Steady og z → _) ?_; rotate_left; subst z; rotate_left; clear_value z)
    | (intro z; refine (fun hz => ?_ : Steady og z.1 → _) ?_; rotate_left; subst z; rotate_left; clear_value z)
    | (intro z; refine (fun hz => ?_ : (∀ s, Steady og s → Steady og (z s)) → _) ?_; rotate_left; subst z; rotate_left; clear_value z)
    | (intro z; refine (fun hz => ?_ : (∀ s a0, Steady og s → Steady og (z s a0)) → _) ?_; rotate_left; subst z; rotate_left; clear_value z)
    | (intro z; refine (fun hz => ?_ : (∀ s a0 a1, Steady og s → Steady og (z s a0 a1)) → _) ?_; rotate_left; subst z; rotate_left; clear_value z)
    | (intro z; refine (fun hz => ?_ : (∀ s a0 a1 a2, Steady og s → Steady og (z s a0 a1 a2)) → _) ?_; rotate_left; subst z; rotate_left; clear_value z)
    | (intro z; refine (fun hz => ?_ : (∀ s a0, Steady og s → Steady og (z s a0).1) → _) ?_; rotate_left; subst z; rotate_left; clear_value z)
    | (intro z; refine (fun hz => ?_ : (∀ s a0 a1, Steady og s → Steady og (z s a0 a1).1) → _) ?_; rotate_left; subst z; rotate_left; clear_value z)
    | (intro z; clear_value z)
    | intro _
    | with_reducible apply count_steady
    | with_reducible apply setColl_steady
    | with_reducible apply sendCollTo_steady
    | with_reducible apply endColl_steady
    | with_reducible apply collPut_steady
    | with_reducible apply settleColls_steady
    | with_reducible apply lateMsg_steady
    | with_reducible apply crcFailed_steady
    | with_reducible apply foldl_steady
    | with_reducible apply foldl_fst_steady
    | split
    | lift_lets -underBinder
    | simp -zeta only [Steady.mk]
    | with_reducible refine Steady.fst ?_ ‹_ = (_, _)›
    | with_reducible refine OptSteadyP.of ?_ ‹_ = some (_, _)›
    | with_reducible refine StepSteady.ofGo ?_ ‹_ = CollStep.go _›
    | with_reducible refine StepSteady.ofWait ?_ ‹_ = CollStep.wait _›
    | with_reducible refine StepSteady.ofFail ?_ ‹_ = CollStep.fail _ _›
    | with_reducible apply_assumption

theorem chunkMsg_steady {og : State} {i : State × Bool} {p : PktHdr} {header : BitVec 512} (hi : Steady og i.1) : Steady og (chunkMsg i p header).1 := by
  unfold chunkMsg
  repeat' first
    | with_reducible assumption
    | (intro z; refine (fun hz => ?_ : Steady og z → _) ?_; rotate_left; subst z; rotate_left; clear_value z)
    | (intro z; refine (fun hz => ?_ : Steady og z.1 → _) ?_; rotate_left; subst z; rotate_left; clear_value z)
    | (intro z; clear_value z)
    | intro _
    | with_reducible apply collMsg_steady
    | with_reducible apply foldl_steady
    | with_reducible apply foldl_fst_steady
    | split
    | lift_lets -underBinder
    | simp -zeta only [Steady.mk]
    | with_reducible refine Steady.fst ?_ ‹_ = (_, _)›
    | with_reducible refine OptSteadyP.of ?_ ‹_ = some (_, _)›

theorem execCollChunkArrival_steady {og : State} {p : PktHdr} {header : BitVec 512} {payload : List Byte} {s : State} (hs : Steady og s) : OutSteady og (execCollChunkArrival p header payload s) := by
  unfold execCollChunkArrival
  repeat' first
    | with_reducible assumption
    | (intro z; clear_value z)
    | intro _
    | with_reducible apply OutSteady.next
    | with_reducible apply returnCredit_steady
    | with_reducible apply holdIn_steady
    | with_reducible apply admitPacket_steady
    | with_reducible apply collChunk_steady
    | with_reducible apply chunkMsg_steady
    | with_reducible apply foldl_steady
    | with_reducible apply foldl_fst_steady
    | split
    | lift_lets -underBinder
    | simp -zeta only [Steady.mk]
    | with_reducible refine Steady.fst ?_ ‹_ = (_, _)›
    | with_reducible refine OptSteadyP.of ?_ ‹_ = some (_, _)›

theorem execCollAck_steady {og : State} {p : PktHdr} {g : CollMsg} {chunk : Nat} {s : State} (hs : Steady og s) : OutSteady og (execCollAck p g chunk s) := by
  unfold execCollAck
  repeat' first
    | with_reducible assumption
    | (intro z; refine (fun hz => ?_ : Steady og z → _) ?_; rotate_left; subst z; rotate_left; clear_value z)
    | (intro z; refine (fun hz => ?_ : Steady og z.1 → _) ?_; rotate_left; subst z; rotate_left; clear_value z)
    | (intro z; clear_value z)
    | intro _
    | with_reducible apply OutSteady.next
    | with_reducible apply ingress_steady
    | with_reducible apply setColl_steady
    | with_reducible apply settleColls_steady
    | with_reducible apply collMsg_steady
    | with_reducible apply foldl_steady
    | with_reducible apply foldl_fst_steady
    | split
    | lift_lets -underBinder
    | simp -zeta only [Steady.mk]
    | with_reducible refine Steady.fst ?_ ‹_ = (_, _)›
    | with_reducible refine OptSteadyP.of ?_ ‹_ = some (_, _)›

theorem resendColl_steady {og : State} {s : State} {i : Coll} {u : CollSent} (hs : Steady og s) : Steady og (resendColl s i u) := by
  unfold resendColl
  repeat' first
    | with_reducible assumption
    | (intro z; clear_value z)
    | intro _
    | with_reducible apply setColl_steady
    | with_reducible apply settleColls_steady
    | with_reducible apply foldl_steady
    | with_reducible apply foldl_fst_steady
    | split
    | lift_lets -underBinder
    | simp -zeta only [Steady.mk]
    | with_reducible refine Steady.fst ?_ ‹_ = (_, _)›
    | with_reducible refine OptSteadyP.of ?_ ‹_ = some (_, _)›

theorem execNak_steady {og : State} {p : PktHdr} {g : CollMsg} {chunk : Nat} {s : State} (hs : Steady og s) : OutSteady og (execNak p g chunk s) := by
  unfold execNak
  repeat' first
    | with_reducible assumption
    | (intro z; refine (fun hz => ?_ : Steady og z → _) ?_; rotate_left; subst z; rotate_left; clear_value z)
    | (intro z; refine (fun hz => ?_ : Steady og z.1 → _) ?_; rotate_left; subst z; rotate_left; clear_value z)
    | (intro z; clear_value z)
    | intro _
    | with_reducible apply OutSteady.next
    | with_reducible apply ingress_steady
    | with_reducible apply collMsg_steady
    | with_reducible apply resendColl_steady
    | with_reducible apply foldl_steady
    | with_reducible apply foldl_fst_steady
    | split
    | lift_lets -underBinder
    | simp -zeta only [Steady.mk]
    | with_reducible refine Steady.fst ?_ ‹_ = (_, _)›
    | with_reducible refine OptSteadyP.of ?_ ‹_ = some (_, _)›

theorem execAbandon_steady {og : State} {p : PktHdr} {g : CollMsg} {_status : BitVec 8} {s : State} (hs : Steady og s) : OutSteady og (execAbandon p g _status s) := by
  unfold execAbandon
  repeat' first
    | with_reducible assumption
    | (intro z; refine (fun hz => ?_ : Steady og z → _) ?_; rotate_left; subst z; rotate_left; clear_value z)
    | (intro z; refine (fun hz => ?_ : Steady og z.1 → _) ?_; rotate_left; subst z; rotate_left; clear_value z)
    | (intro z; clear_value z)
    | intro _
    | with_reducible apply OutSteady.next
    | with_reducible apply ingress_steady
    | with_reducible apply endColl_steady
    | with_reducible apply settleColls_steady
    | with_reducible apply collMsg_steady
    | with_reducible apply foldl_steady
    | with_reducible apply foldl_fst_steady
    | split
    | lift_lets -underBinder
    | simp -zeta only [Steady.mk]
    | with_reducible refine Steady.fst ?_ ‹_ = (_, _)›
    | with_reducible refine OptSteadyP.of ?_ ‹_ = some (_, _)›

theorem execCollStallTimer_steady {og : State} {group : BitVec 12} {seq : BitVec 32} {s : State} (hs : Steady og s) : OutSteady og (execCollStallTimer group seq s) := by
  unfold execCollStallTimer
  repeat' first
    | with_reducible assumption
    | with_reducible apply OutSteady.next
    | with_reducible apply emit_steady
    | with_reducible apply setColl_steady
    | split

theorem execChunkResendTimer_steady {og : State} {u : ChunkId} {s : State} (hs : Steady og s) : OutSteady og (execChunkResendTimer u s) := by
  unfold execChunkResendTimer
  repeat' first
    | with_reducible assumption
    | (intro z; clear_value z)
    | intro _
    | with_reducible apply OutSteady.next
    | with_reducible apply resendRing_steady
    | with_reducible apply resendColl_steady
    | with_reducible apply foldl_steady
    | with_reducible apply foldl_fst_steady
    | split
    | lift_lets -underBinder
    | simp -zeta only [Steady.mk]
    | with_reducible refine Steady.fst ?_ ‹_ = (_, _)›
    | with_reducible refine OptSteadyP.of ?_ ‹_ = some (_, _)›

theorem collPlaneLost_steady {og : State} {s : State} {plane : Nat} {dst : BitVec 12 → Bool} (hs : Steady og s) : Steady og (collPlaneLost s plane dst) := by
  unfold collPlaneLost
  repeat' first
    | with_reducible assumption
    | (intro z; clear_value z)
    | intro _
    | with_reducible apply State.forAll_steady
    | with_reducible apply resendColl_steady
    | with_reducible apply foldl_steady
    | with_reducible apply foldl_fst_steady
    | split
    | lift_lets -underBinder
    | simp -zeta only [Steady.mk]
    | with_reducible refine Steady.fst ?_ ‹_ = (_, _)›
    | with_reducible refine OptSteadyP.of ?_ ‹_ = some (_, _)›

theorem abandonColls_steady {og : State} {s : State} {n : Fin 16} (hs : Steady og s) : Steady og (abandonColls s n) := by
  unfold abandonColls
  repeat' first
    | with_reducible assumption
    | intro _
    | with_reducible apply State.forAll_steady
    | with_reducible apply endColl_steady
    | split

/-! Machine/Arrive. -/

theorem settleEngines_steady {og : State} {s : State} (hs : Steady og s) : Steady og (settleEngines s) := by
  unfold settleEngines
  repeat' first
    | with_reducible assumption
    | with_reducible apply settleRings_steady
    | with_reducible apply settleColls_steady

theorem dropInXfer_steady {og : State} {s : State} {i : InXfer} (hs : Steady og s) : Steady og (dropInXfer s i) := by
  unfold dropInXfer
  repeat' first
    | with_reducible assumption
    | (intro z; clear_value z)
    | lift_lets -underBinder
    | simp -zeta only [Steady.mk]

theorem setInXfer_steady {og : State} {s : State} {i : InXfer} (hs : Steady og s) : Steady og (setInXfer s i) := by
  unfold setInXfer
  repeat' first
    | with_reducible assumption
    | (intro z; refine (fun hz => ?_ : Steady og z → _) ?_; rotate_left; subst z; rotate_left; clear_value z)
    | (intro z; clear_value z)
    | with_reducible apply dropInXfer_steady
    | lift_lets -underBinder
    | simp -zeta only [Steady.mk]

theorem sendAck_steady {og : State} {s : State} {e : AckHeld} (hs : Steady og s) : Steady og (sendAck s e) := by
  unfold sendAck
  repeat' first
    | with_reducible assumption
    | with_reducible apply sendControl_steady

theorem ackWrite_steady {og : State} {s : State} {p : PktHdr} (hs : Steady og s) : Steady og (ackWrite s p) := by
  unfold ackWrite
  repeat' first
    | with_reducible assumption
    | (intro z; clear_value z)
    | intro _
    | with_reducible apply sendAck_steady
    | split
    | lift_lets -underBinder
    | simp -zeta only [Steady.mk]

theorem ackSignal_steady {og : State} {s : State} {src : BitVec 12} {xfer : BitVec 16} (hs : Steady og s) : Steady og (ackSignal s src xfer) := by
  unfold ackSignal
  repeat' first
    | with_reducible assumption
    | with_reducible apply sendAck_steady

theorem settleIn_steady {og : State} {s : State} {i : InXfer} (hs : Steady og s) : Steady og (settleIn s i) := by
  unfold settleIn
  repeat' first
    | with_reducible assumption
    | (intro z; refine (fun hz => ?_ : Steady og z → _) ?_; rotate_left; subst z; rotate_left; clear_value z)
    | (intro z; clear_value z)
    | with_reducible apply dstSignal_steady
    | with_reducible apply settleEngines_steady
    | with_reducible apply dropInXfer_steady
    | with_reducible apply ackSignal_steady
    | split
    | lift_lets -underBinder
    | simp -zeta only [Steady.mk]

theorem takeWrite_steady {og : State} {s : State} {p : PktHdr} {payload : List Byte} (hs : Steady og s) : Steady og (takeWrite s p payload).1 := by
  unfold takeWrite
  repeat' first
    | with_reducible assumption
    | (intro z; refine (fun hz => ?_ : Steady og z → _) ?_; rotate_left; subst z; rotate_left; clear_value z)
    | (intro z; refine (fun hz => ?_ : Steady og z.1 → _) ?_; rotate_left; subst z; rotate_left; clear_value z)
    | (intro z; clear_value z)
    | intro _
    | with_reducible apply count_steady
    | with_reducible apply devMeet_steady
    | with_reducible apply devWrite_steady
    | with_reducible apply sendDeny_steady
    | with_reducible apply settleEngines_steady
    | with_reducible apply dropInXfer_steady
    | with_reducible apply setInXfer_steady
    | with_reducible apply ackWrite_steady
    | with_reducible apply settleIn_steady
    | with_reducible apply foldl_steady
    | with_reducible apply foldl_fst_steady
    | split
    | lift_lets -underBinder
    | simp -zeta only [Steady.mk]
    | with_reducible refine Steady.fst ?_ ‹_ = (_, _)›
    | with_reducible refine OptSteadyP.of ?_ ‹_ = some (_, _)›

theorem tryHeld_steady {og : State} {s : State} {x0 : HeldIn} (hs : Steady og s) : Steady og (tryHeld s x0).1 := by
  unfold tryHeld
  repeat' first
    | with_reducible assumption
    | (intro z; clear_value z)
    | intro _
    | with_reducible apply ringMsg_steady
    | with_reducible apply ringChunk_steady
    | with_reducible apply collChunk_steady
    | with_reducible apply chunkMsg_steady
    | with_reducible apply takeWrite_steady
    | with_reducible apply foldl_steady
    | with_reducible apply foldl_fst_steady
    | split
    | lift_lets -underBinder
    | simp -zeta only [Steady.mk]
    | with_reducible refine Steady.fst ?_ ‹_ = (_, _)›
    | with_reducible refine OptSteadyP.of ?_ ‹_ = some (_, _)›

theorem serveArrivals_steady {og : State} {s : State} (hs : Steady og s) : Steady og (serveArrivals s) := by
  unfold serveArrivals
  repeat' first
    | with_reducible assumption
    | (intro z; refine (fun hz => ?_ : Steady og z → _) ?_; rotate_left; subst z; rotate_left; clear_value z)
    | (intro z; refine (fun hz => ?_ : Steady og z.1 → _) ?_; rotate_left; subst z; rotate_left; clear_value z)
    | (intro z; clear_value z)
    | intro _
    | with_reducible apply State.forAll_steady
    | with_reducible apply returnCredit_steady
    | with_reducible apply tryHeld_steady
    | with_reducible apply foldl_steady
    | with_reducible apply foldl_fst_steady
    | split
    | lift_lets -underBinder
    | simp -zeta only [Steady.mk]
    | with_reducible refine Steady.fst ?_ ‹_ = (_, _)›
    | with_reducible refine OptSteadyP.of ?_ ‹_ = some (_, _)›

/-! Machine/HostLink. -/

theorem ringBell_steady {og : State} {s : State} {m : Fin 8} {v : BitVec 12} (hs : Steady og s) : Steady og (ringBell s m v) := by
  unfold ringBell
  repeat' first
    | with_reducible assumption
    | with_reducible apply State.setMbx_steady

theorem doPoke_steady {og : State} {s : State} {v : Word64} (hs : Steady og s) : Steady og (doPoke s v) := by
  unfold doPoke
  repeat' first
    | with_reducible assumption
    | with_reducible apply poke_steady
    | with_reducible apply settleEngines_steady

theorem backBar2_steady {og : State} {s : State} {x : Bar2Access} (hs : Steady og s) : Steady og (backBar2 s x) := by
  unfold backBar2
  repeat' first
    | with_reducible assumption
    | intro _
    | with_reducible apply startBacking_steady
    | with_reducible apply foldl_steady

theorem serveHost_steady {og : State} {s : State} (hs : Steady og s) : Steady og (serveHost s) := by
  unfold serveHost
  repeat' first
    | with_reducible assumption
    | (intro z; refine (fun hz => ?_ : (∀ s, Steady og s → Steady og (z s)) → _) ?_; rotate_left; subst z; rotate_left; clear_value z)
    | (intro z; clear_value z)
    | intro _
    | with_reducible apply bar2End_steady
    | with_reducible apply ringBell_steady
    | with_reducible apply doPoke_steady
    | with_reducible apply backBar2_steady
    | split
    | lift_lets -underBinder
    | with_reducible apply_assumption
    | with_reducible apply foldl_steady

theorem enqueueHost_steady {og : State} {s : State} {i : HostItem} (hs : Steady og s) : Steady og (enqueueHost s i) := by
  unfold enqueueHost
  repeat' first
    | with_reducible assumption
    | (intro z; clear_value z)
    | lift_lets -underBinder
    | simp -zeta only [Steady.mk]

theorem bar2Arrive_steady {og : State} {s : State} {x : Bar2Access} (hs : Steady og s) : Steady og (bar2Arrive s x) := by
  unfold bar2Arrive
  repeat' first
    | with_reducible assumption
    | with_reducible apply wakeModule_steady
    | with_reducible apply hostError_steady
    | with_reducible apply answerHost_steady
    | with_reducible apply bar2End_steady
    | with_reducible apply backBar2_steady
    | with_reducible apply enqueueHost_steady
    | split

theorem execBar2Read_steady {og : State} {off : Nat} {len : Nat} {s : State} (hs : Steady og s) : OutSteady og (execBar2Read off len s) := by
  unfold execBar2Read
  repeat' first
    | with_reducible assumption
    | with_reducible apply OutSteady.next
    | with_reducible apply bar2Arrive_steady

theorem execBar2Write_steady {og : State} {off : Nat} {bytes : List Byte} {s : State} (hs : Steady og s) : OutSteady og (execBar2Write off bytes s) := by
  unfold execBar2Write
  repeat' first
    | with_reducible assumption
    | with_reducible apply OutSteady.next
    | with_reducible apply bar2Arrive_steady

theorem execBar2HoldTimeout_steady {og : State} {k : Nat} {s : State} (hs : Steady og s) : OutSteady og (execBar2HoldTimeout k s) := by
  unfold execBar2HoldTimeout
  repeat' first
    | with_reducible assumption
    | (intro z; clear_value z)
    | with_reducible apply OutSteady.next
    | with_reducible apply hostError_steady
    | with_reducible apply answerHost_steady
    | with_reducible apply serveHost_steady
    | split
    | lift_lets -underBinder
    | simp -zeta only [Steady.mk]

theorem serveHeld_steady {og : State} {s : State} (hs : Steady og s) : Steady og (serveHeld s) := by
  unfold serveHeld
  repeat' first
    | with_reducible assumption
    | (intro z; clear_value z)
    | intro _
    | with_reducible apply serveHub_steady
    | with_reducible apply settleEngines_steady
    | with_reducible apply serveArrivals_steady
    | with_reducible apply serveHost_steady
    | with_reducible apply foldl_steady
    | with_reducible apply foldl_fst_steady
    | split
    | lift_lets -underBinder
    | simp -zeta only [Steady.mk]
    | with_reducible refine Steady.fst ?_ ‹_ = (_, _)›
    | with_reducible refine OptSteadyP.of ?_ ‹_ = some (_, _)›

theorem execBackingComplete_steady {og : State} {g : BitVec 28} {s : State} (hs : Steady og s) : OutSteady og (execBackingComplete g s) := by
  unfold execBackingComplete
  repeat' first
    | with_reducible assumption
    | (intro z; clear_value z)
    | intro _
    | with_reducible apply OutSteady.next
    | with_reducible apply backingCompleted_steady
    | with_reducible apply serveHeld_steady
    | with_reducible apply foldl_steady
    | with_reducible apply foldl_fst_steady
    | split
    | lift_lets -underBinder
    | simp -zeta only [Steady.mk]
    | with_reducible refine Steady.fst ?_ ‹_ = (_, _)›
    | with_reducible refine OptSteadyP.of ?_ ‹_ = some (_, _)›

theorem execPromotionComplete_steady {og : State} {g : BitVec 28} {s : State} (hs : Steady og s) : OutSteady og (execPromotionComplete g s) := by
  unfold execPromotionComplete
  repeat' first
    | with_reducible assumption
    | (intro z; clear_value z)
    | intro _
    | with_reducible apply OutSteady.next
    | with_reducible apply promotionCompleted_steady
    | with_reducible apply serveHeld_steady
    | with_reducible apply foldl_steady
    | with_reducible apply foldl_fst_steady
    | split
    | lift_lets -underBinder
    | simp -zeta only [Steady.mk]
    | with_reducible refine Steady.fst ?_ ‹_ = (_, _)›
    | with_reducible refine OptSteadyP.of ?_ ‹_ = some (_, _)›

theorem execMoveComplete_steady {og : State} {g : BitVec 28} {s : State} (hs : Steady og s) : OutSteady og (execMoveComplete g s) := by
  unfold execMoveComplete
  repeat' first
    | with_reducible assumption
    | (intro z; clear_value z)
    | intro _
    | with_reducible apply OutSteady.next
    | with_reducible apply moveCompleted_steady
    | with_reducible apply serveHeld_steady
    | with_reducible apply foldl_steady
    | with_reducible apply foldl_fst_steady
    | split
    | lift_lets -underBinder
    | simp -zeta only [Steady.mk]
    | with_reducible refine Steady.fst ?_ ‹_ = (_, _)›
    | with_reducible refine OptSteadyP.of ?_ ‹_ = some (_, _)›

theorem execUncorrectableError_steady {og : State} {g : BitVec 28} {e : CopyError} {s : State} (hs : Steady og s) : OutSteady og (execUncorrectableError g e s) := by
  unfold execUncorrectableError
  repeat' first
    | with_reducible assumption
    | (intro z; clear_value z)
    | intro _
    | with_reducible apply OutSteady.next
    | with_reducible apply uncorrectable_steady
    | with_reducible apply serveHeld_steady
    | with_reducible apply foldl_steady
    | with_reducible apply foldl_fst_steady
    | split
    | lift_lets -underBinder
    | simp -zeta only [Steady.mk]
    | with_reducible refine Steady.fst ?_ ‹_ = (_, _)›
    | with_reducible refine OptSteadyP.of ?_ ‹_ = some (_, _)›

theorem execRestoreComplete_steady {og : State} {g : BitVec 28} {r : RestoreResult} {s : State} (hs : Steady og s) : OutSteady og (execRestoreComplete g r s) := by
  unfold execRestoreComplete
  repeat' first
    | with_reducible assumption
    | (intro z; clear_value z)
    | intro _
    | with_reducible apply OutSteady.next
    | with_reducible apply restoreCompleted_steady
    | with_reducible apply serveHeld_steady
    | with_reducible apply foldl_steady
    | with_reducible apply foldl_fst_steady
    | split
    | lift_lets -underBinder
    | simp -zeta only [Steady.mk]
    | with_reducible refine Steady.fst ?_ ‹_ = (_, _)›
    | with_reducible refine OptSteadyP.of ?_ ‹_ = some (_, _)›

theorem execRestoreTimeout_steady {og : State} {g : BitVec 28} {s : State} (hs : Steady og s) : OutSteady og (execRestoreTimeout g s) := by
  unfold execRestoreTimeout
  repeat' first
    | with_reducible assumption
    | (intro z; clear_value z)
    | intro _
    | with_reducible apply OutSteady.next
    | with_reducible apply restoreTimedOut_steady
    | with_reducible apply serveHeld_steady
    | with_reducible apply foldl_steady
    | with_reducible apply foldl_fst_steady
    | split
    | lift_lets -underBinder
    | simp -zeta only [Steady.mk]
    | with_reducible refine Steady.fst ?_ ‹_ = (_, _)›
    | with_reducible refine OptSteadyP.of ?_ ‹_ = some (_, _)›

theorem execChannelCrcFail_steady {og : State} {stack : Fin 24} {channel : Fin 4} {g : BitVec 28} {write : Option (Fin 1024 × List Byte)} {failures : Fin 6} {s : State} (hs : Steady og s) : OutSteady og (execChannelCrcFail stack channel g write failures s) := by
  unfold execChannelCrcFail
  repeat' first
    | with_reducible assumption
    | (intro z; clear_value z)
    | intro _
    | with_reducible apply OutSteady.next
    | with_reducible apply channelFails_steady
    | with_reducible apply serveHeld_steady
    | with_reducible apply foldl_steady
    | with_reducible apply foldl_fst_steady
    | split
    | lift_lets -underBinder
    | simp -zeta only [Steady.mk]
    | with_reducible refine Steady.fst ?_ ‹_ = (_, _)›
    | with_reducible refine OptSteadyP.of ?_ ‹_ = some (_, _)›

theorem execStackUnresponsive_steady {og : State} {stack : Fin 24} {s : State} (hs : Steady og s) : OutSteady og (execStackUnresponsive stack s) := by
  unfold execStackUnresponsive
  repeat' first
    | with_reducible assumption
    | (intro z; clear_value z)
    | intro _
    | with_reducible apply OutSteady.next
    | with_reducible apply stackFails_steady
    | with_reducible apply serveHeld_steady
    | with_reducible apply foldl_steady
    | with_reducible apply foldl_fst_steady
    | split
    | lift_lets -underBinder
    | simp -zeta only [Steady.mk]
    | with_reducible refine Steady.fst ?_ ‹_ = (_, _)›
    | with_reducible refine OptSteadyP.of ?_ ‹_ = some (_, _)›

theorem execCxlLinkDown_steady {og : State} {port : Fin 2} {s : State} (hs : Steady og s) : OutSteady og (execCxlLinkDown port s) := by
  unfold execCxlLinkDown
  repeat' first
    | with_reducible assumption
    | (intro z; clear_value z)
    | intro _
    | with_reducible apply OutSteady.next
    | with_reducible apply portOut_steady
    | with_reducible apply serveHeld_steady
    | with_reducible apply foldl_steady
    | with_reducible apply foldl_fst_steady
    | split
    | lift_lets -underBinder
    | simp -zeta only [Steady.mk]
    | with_reducible refine Steady.fst ?_ ‹_ = (_, _)›
    | with_reducible refine OptSteadyP.of ?_ ‹_ = some (_, _)›

theorem execCxlRequestTimeout_steady {og : State} {port : Fin 2} {g : BitVec 28} {s : State} (hs : Steady og s) : OutSteady og (execCxlRequestTimeout port g s) := by
  unfold execCxlRequestTimeout
  repeat' first
    | with_reducible assumption
    | (intro z; clear_value z)
    | intro _
    | with_reducible apply OutSteady.next
    | with_reducible apply cxlTimesOut_steady
    | with_reducible apply serveHeld_steady
    | with_reducible apply foldl_steady
    | with_reducible apply foldl_fst_steady
    | split
    | lift_lets -underBinder
    | simp -zeta only [Steady.mk]
    | with_reducible refine Steady.fst ?_ ‹_ = (_, _)›
    | with_reducible refine OptSteadyP.of ?_ ‹_ = some (_, _)›

theorem setTdisp_steady {og : State} {s : State} {t : Tdisp} {cause : Nat} (hs : Steady og s) : Steady og (setTdisp s t cause) := by
  unfold setTdisp
  repeat' first
    | with_reducible assumption
    | (intro z; refine (fun hz => ?_ : Steady og z → _) ?_; rotate_left; subst z; rotate_left; clear_value z)
    | (intro z; clear_value z)
    | with_reducible apply emit_steady
    | split
    | lift_lets -underBinder
    | simp -zeta only [Steady.mk]

theorem frozenWrite_steady {og : State} {s : State} (hs : Steady og s) : Steady og (frozenWrite s) := by
  unfold frozenWrite
  repeat' first
    | with_reducible assumption
    | with_reducible apply setTdisp_steady

theorem lockedWrite_steady {og : State} {s : State} {f : State → State} (hs : Steady og s) (hf : ∀ (a0 : State), Steady og a0 → Steady og (f a0)) : Steady og (lockedWrite s f) := by
  unfold lockedWrite
  repeat' first
    | with_reducible assumption
    | with_reducible apply frozenWrite_steady
    | with_reducible apply hf
    | split

theorem bar2BaseWrite_steady {og : State} {s : State} {v : Word64} (hs : Steady og s) : Steady og (bar2BaseWrite s v) := by
  unfold bar2BaseWrite
  repeat' first
    | with_reducible assumption
    | (intro z; clear_value z)
    | intro _
    | with_reducible apply hostError_steady
    | split
    | lift_lets -underBinder
    | simp -zeta only [Steady.mk]

theorem mbxSizeWrite_steady {og : State} {s : State} {m : Fin 8} {enable : Bool} {log2 : Nat} (hs : Steady og s) : Steady og (mbxSizeWrite s m enable log2) := by
  unfold mbxSizeWrite
  repeat' first
    | with_reducible assumption
    | (intro z; clear_value z)
    | with_reducible apply State.setMbx_steady
    | with_reducible apply emit_steady
    | split
    | lift_lets -underBinder

theorem evqCtlWrite_steady {og : State} {s : State} {i : Nat} {v : Nat} (hs : Steady og s) : Steady og (evqCtlWrite s i v) := by
  unfold evqCtlWrite
  repeat' first
    | with_reducible assumption
    | (intro z; clear_value z)
    | with_reducible apply State.setEvq_steady
    | with_reducible apply testQueue_steady
    | with_reducible apply hostError_steady
    | split
    | lift_lets -underBinder

theorem evqConsWrite_steady {og : State} {s : State} {i : Nat} {v : Word32} (hs : Steady og s) : Steady og (evqConsWrite s i v) := by
  unfold evqConsWrite
  repeat' first
    | with_reducible assumption
    | (intro z; clear_value z)
    | with_reducible apply State.setEvq_steady
    | with_reducible apply testQueue_steady
    | with_reducible apply hostError_steady
    | split
    | lift_lets -underBinder

theorem msixWrite_steady {og : State} {s : State} {e : Fin 16} {word : Nat} {v : Word64} (hs : Steady og s) : Steady og (msixWrite s e word v) := by
  unfold msixWrite
  repeat' first
    | with_reducible assumption
    | (intro z; clear_value z)
    | with_reducible apply State.setMsix_steady
    | with_reducible apply raiseVector_steady
    | split
    | lift_lets -underBinder

theorem mbxRegWrite_steady {og : State} {s : State} {m : Fin 8} {r : Nat} {v : Word64} (hs : Steady og s) : Steady og (mbxRegWrite s m r v) := by
  unfold mbxRegWrite
  repeat' first
    | with_reducible assumption
    | (intro z; clear_value z)
    | with_reducible apply State.setMbx_steady
    | with_reducible apply serveHost_steady
    | with_reducible apply enqueueHost_steady
    | with_reducible apply mbxSizeWrite_steady
    | split
    | lift_lets -underBinder

theorem evqRegWrite_steady {og : State} {s : State} {i : Nat} {r : Nat} {v : Word64} (hs : Steady og s) : Steady og (evqRegWrite s i r v) := by
  unfold evqRegWrite
  repeat' first
    | with_reducible assumption
    | (intro z; clear_value z)
    | with_reducible apply State.setEvq_steady
    | with_reducible apply evqCtlWrite_steady
    | with_reducible apply evqConsWrite_steady
    | split
    | lift_lets -underBinder

theorem bar0Put_steady {og : State} {s : State} {o : Nat} {v : Word64} (hs : Steady og s) : Steady og (bar0Put s o v) := by
  unfold bar0Put
  repeat' first
    | with_reducible assumption
    | (intro z; clear_value z)
    | intro _
    | with_reducible apply serveHost_steady
    | with_reducible apply enqueueHost_steady
    | with_reducible apply lockedWrite_steady
    | with_reducible apply bar2BaseWrite_steady
    | with_reducible apply msixWrite_steady
    | with_reducible apply mbxRegWrite_steady
    | with_reducible apply evqRegWrite_steady
    | split
    | lift_lets -underBinder
    | simp -zeta only [Steady.mk]

theorem bar0Write_steady {og : State} {s : State} {off : Nat} {size : Nat} {v : Word64} (hs : Steady og s) : Steady og (bar0Write s off size v) := by
  unfold bar0Write
  repeat' first
    | with_reducible assumption
    | (intro z; clear_value z)
    | intro _
    | with_reducible apply hostError_steady
    | with_reducible apply bar0Put_steady
    | with_reducible apply foldl_steady
    | with_reducible apply foldl_fst_steady
    | split
    | lift_lets -underBinder
    | simp -zeta only [Steady.mk]
    | with_reducible refine Steady.fst ?_ ‹_ = (_, _)›
    | with_reducible refine OptSteadyP.of ?_ ‹_ = some (_, _)›

theorem stqWrite_steady {og : State} {s : State} {q : Fin 256} {reg : Nat} {v : Word64} (hs : Steady og s) : Steady og (stqWrite s q reg v) := by
  unfold stqWrite
  repeat' first
    | with_reducible assumption
    | with_reducible apply State.setQueue_steady
    | with_reducible apply State.modQueue_steady
    | with_reducible apply abortQueue_steady
    | split

theorem execRegisterWrite_steady {og : State} {a : RegAccess} {s : State} (hs : Steady og s) : OutSteady og (execRegisterWrite a s) := by
  unfold execRegisterWrite
  repeat' first
    | with_reducible assumption
    | with_reducible apply OutSteady.next
    | with_reducible apply bar0Write_steady
    | with_reducible apply stqWrite_steady
    | split

theorem execHostBar2BaseWrite_steady {og : State} {v : Word64} {s : State} (hs : Steady og s) : OutSteady og (execHostBar2BaseWrite v s) := by
  unfold execHostBar2BaseWrite
  repeat' first
    | with_reducible assumption
    | intro _
    | with_reducible apply OutSteady.next
    | with_reducible apply lockedWrite_steady
    | with_reducible apply bar2BaseWrite_steady

theorem execResizableBarWrite_steady {og : State} {log2Size : Fin 6} {s : State} (hs : Steady og s) : OutSteady og (execResizableBarWrite log2Size s) := by
  unfold execResizableBarWrite
  repeat' first
    | with_reducible assumption
    | (intro z; clear_value z)
    | intro _
    | with_reducible apply OutSteady.next
    | with_reducible apply lockedWrite_steady
    | lift_lets -underBinder
    | simp -zeta only [Steady.mk]

theorem execFrozenRegisterWrite_steady {og : State} {r : FrozenReg} {v : BitVec 64} {s : State} (hs : Steady og s) : OutSteady og (execFrozenRegisterWrite r v s) := by
  unfold execFrozenRegisterWrite
  repeat' first
    | with_reducible assumption
    | with_reducible apply OutSteady.next
    | with_reducible apply bar0Put_steady
    | with_reducible apply execResizableBarWrite_steady
    | split

theorem execPokeAdd_steady {og : State} {v : BitVec 64} {s : State} (hs : Steady og s) : OutSteady og (execPokeAdd v s) := by
  unfold execPokeAdd
  repeat' first
    | with_reducible assumption
    | with_reducible apply OutSteady.next
    | with_reducible apply bar0Put_steady
    | split

theorem execPokeSet_steady {og : State} {v : BitVec 64} {s : State} (hs : Steady og s) : OutSteady og (execPokeSet v s) := by
  unfold execPokeSet
  repeat' first
    | with_reducible assumption
    | with_reducible apply OutSteady.next
    | with_reducible apply bar0Put_steady
    | split

theorem execPokePut_steady {og : State} {v : BitVec 64} {s : State} (hs : Steady og s) : OutSteady og (execPokePut v s) := by
  unfold execPokePut
  repeat' first
    | with_reducible assumption
    | with_reducible apply OutSteady.next
    | with_reducible apply bar0Put_steady
    | split

theorem execSyncPokeValRead_steady {og : State} {s : State} (hs : Steady og s) : OutSteady og (execSyncPokeValRead s) := by
  unfold execSyncPokeValRead
  repeat' first
    | with_reducible assumption
    | with_reducible apply OutSteady.next
    | with_reducible apply State.bump_steady
    | with_reducible apply answerHost_steady
    | split

theorem execMbxTailWrite_steady {og : State} {m : Fin 8} {v : BitVec 12} {s : State} (hs : Steady og s) : OutSteady og (execMbxTailWrite m v s) := by
  unfold execMbxTailWrite
  repeat' first
    | with_reducible assumption
    | with_reducible apply OutSteady.next
    | with_reducible apply serveHost_steady
    | with_reducible apply enqueueHost_steady

theorem execMbxEnable_steady {og : State} {m : Fin 8} {log2 : BitVec 4} {s : State} (hs : Steady og s) : OutSteady og (execMbxEnable m log2 s) := by
  unfold execMbxEnable
  repeat' first
    | with_reducible assumption
    | with_reducible apply OutSteady.next
    | with_reducible apply mbxSizeWrite_steady

theorem execMbxDisable_steady {og : State} {m : Fin 8} {s : State} (hs : Steady og s) : OutSteady og (execMbxDisable m s) := by
  unfold execMbxDisable
  repeat' first
    | with_reducible assumption
    | with_reducible apply OutSteady.next
    | with_reducible apply mbxSizeWrite_steady

theorem finish_steady {og : State} {s : State} {m : Fin 8} {status : Nat} {body : List Byte} (hs : Steady og s) : Steady og (finish s m status body) := by
  unfold finish
  repeat' first
    | with_reducible assumption
    | (intro z; clear_value z)
    | with_reducible apply State.setMbx_steady
    | with_reducible apply State.hostWrite_steady
    | with_reducible apply emitTo_steady
    | split
    | lift_lets -underBinder

theorem refuse_steady {og : State} {s : State} {m : Fin 8} {status : Nat} (hs : Steady og s) : Steady og (refuse s m status) := by
  unfold refuse
  repeat' first
    | with_reducible assumption
    | with_reducible apply finish_steady

theorem finishList_steady {og : State} {s : State} {m : Fin 8} {fixed : Nat → List Byte} {entries : List (List Byte)} (hs : Steady og s) : Steady og (finishList s m fixed entries) := by
  unfold finishList
  repeat' first
    | with_reducible assumption
    | with_reducible apply finish_steady
    | split

theorem execEvqEnable_steady {og : State} {q : Fin 4} {ctl : BitVec 64} {s : State} (hs : Steady og s) : OutSteady og (execEvqEnable q ctl s) := by
  unfold execEvqEnable
  repeat' first
    | with_reducible assumption
    | with_reducible apply OutSteady.next
    | with_reducible apply evqCtlWrite_steady

theorem execEvqDisable_steady {og : State} {q : Fin 4} {ctl : BitVec 64} {s : State} (hs : Steady og s) : OutSteady og (execEvqDisable q ctl s) := by
  unfold execEvqDisable
  repeat' first
    | with_reducible assumption
    | with_reducible apply OutSteady.next
    | with_reducible apply evqCtlWrite_steady

theorem execEvqConsWrite_steady {og : State} {q : Fin 4} {v : BitVec 32} {s : State} (hs : Steady og s) : OutSteady og (execEvqConsWrite q v s) := by
  unfold execEvqConsWrite
  repeat' first
    | with_reducible assumption
    | with_reducible apply OutSteady.next
    | with_reducible apply evqConsWrite_steady

theorem execModerationTimer_steady {og : State} {q : Fin 4} {s : State} (hs : Steady og s) : OutSteady og (execModerationTimer q s) := by
  unfold execModerationTimer
  repeat' first
    | with_reducible assumption
    | (intro z; clear_value z)
    | with_reducible apply OutSteady.next
    | with_reducible apply raiseQueue_steady
    | split
    | lift_lets -underBinder

theorem execHostLinkRetrain_steady {og : State} {rate : BitVec 8} {width : BitVec 8} {s : State} (hs : Steady og s) : OutSteady og (execHostLinkRetrain rate width s) := by
  unfold execHostLinkRetrain
  repeat' first
    | with_reducible assumption
    | (intro z; refine (fun hz => ?_ : Steady og z → _) ?_; rotate_left; subst z; rotate_left; clear_value z)
    | (intro z; clear_value z)
    | with_reducible apply OutSteady.next
    | with_reducible apply emit_steady
    | split
    | lift_lets -underBinder
    | simp -zeta only [Steady.mk]

end Sys2Proof.Machine
end

