-- ==== Sys2Proof/Laws/SteadyCommands.lean ====
section
/-! SUPPORT. What the operations of Machine/TileMxu, Machine/Launch, Machine/Net, Machine/FabTime, Machine/Power, Machine/Mailbox, Machine/Cmds keep: the queue, the address pins, canonical memories. -/

namespace Sys2Proof.Machine

/-! Machine/TileMxu. -/

theorem mxuWriteBack_steady {og : State} {s : State} {t : Fin 192} {c : Fin 4} {pc : Word32} {f : MmaFields} {out : List (Nat × List Byte)} (hs : Steady og s) : Steady og (mxuWriteBack s t c pc f out) := by
  unfold mxuWriteBack
  repeat' first
    | with_reducible assumption
    | with_reducible apply emit_steady
    | with_reducible apply sramPuts_steady
    | with_reducible apply afterComplete_steady
    | with_reducible apply popMxu_steady
    | split

theorem mxuMismatch_steady {og : State} {s : State} {t : Fin 192} {row : Nat} {col : Nat} (hs : Steady og s) : Steady og (mxuMismatch s t row col) := by
  unfold mxuMismatch
  repeat' first
    | with_reducible assumption
    | (intro z; refine (fun hz => ?_ : Steady og z → _) ?_; rotate_left; subst z; rotate_left; clear_value z)
    | (intro z; clear_value z)
    | with_reducible apply State.setTile_steady
    | with_reducible apply count_steady
    | with_reducible apply mxuFail_steady
    | split
    | lift_lets -underBinder

theorem execMxuBlockCheck_steady {og : State} {t : Fin 192} {bad : Option (Fin 128 × Fin 128)} {s : State} (hs : Steady og s) : OutSteady og (execMxuBlockCheck t bad s) := by
  unfold execMxuBlockCheck
  repeat' first
    | with_reducible assumption
    | (intro z; clear_value z)
    | with_reducible apply OutSteady.next
    | with_reducible apply count_steady
    | with_reducible apply mxuWriteBack_steady
    | with_reducible apply mxuMismatch_steady
    | split
    | lift_lets -underBinder

/-! Machine/Launch. -/

theorem setPhase_steady {og : State} {s : State} {n : Fin 16} {k : Fin 3} {halted : Bool} (hs : Steady og s) : Steady og (setPhase s n k halted) := by
  unfold setPhase
  repeat' first
    | with_reducible assumption
    | with_reducible apply State.setSlot_steady

theorem settleCmd_steady {og : State} {s : State} {m : Fin 8} (hs : Steady og s) : Steady og (settleCmd s m) := by
  unfold settleCmd
  repeat' first
    | with_reducible assumption
    | with_reducible apply finish_steady
    | split

theorem settleCmds_steady {og : State} {s : State} (hs : Steady og s) : Steady og (settleCmds s) := by
  unfold settleCmds
  repeat' first
    | with_reducible assumption
    | intro _
    | with_reducible apply State.forAll_steady
    | with_reducible apply settleCmd_steady

theorem settleLaunch_steady {og : State} {s : State} {n : Fin 16} (hs : Steady og s) : Steady og (settleLaunch s n) := by
  unfold settleLaunch
  repeat' first
    | with_reducible assumption
    | with_reducible apply setPhase_steady
    | with_reducible apply settleCmds_steady
    | split

theorem settleAll_steady {og : State} {s : State} (hs : Steady og s) : Steady og (settleAll s) := by
  unfold settleAll
  repeat' first
    | with_reducible assumption
    | intro _
    | with_reducible apply State.forAll_steady
    | with_reducible apply settleLaunch_steady

theorem bindCtx_steady {og : State} {s : State} {n : Fin 16} {xs : List Word32} {e : CtxEntry} (hs : Steady og s) : Steady og (bindCtx s n xs e) := by
  unfold bindCtx
  repeat' first
    | with_reducible assumption
    | with_reducible apply State.setCtx_steady
    | with_reducible apply State.modTile_steady

theorem bindQueue_steady {og : State} {s : State} {n : Fin 16} {e : QueueEntry} (hs : Steady og s) : Steady og (bindQueue s n e) := by
  unfold bindQueue
  repeat' first
    | with_reducible assumption
    | with_reducible apply State.setQueue_steady

theorem bindChan_steady {og : State} {s : State} {n : Fin 16} {e : Nat} (hs : Steady og s) : Steady og (bindChan s n e) := by
  unfold bindChan
  repeat' first
    | with_reducible assumption
    | with_reducible apply State.setChan_steady

theorem startLaunch_steady {og : State} {s : State} {n : Fin 16} {l : Launch} (hs : Steady og s) : Steady og (startLaunch s n l) := by
  unfold startLaunch
  repeat' first
    | with_reducible assumption
    | (intro z; clear_value z)
    | intro _
    | with_reducible apply State.setSlot_steady
    | with_reducible apply State.setAeCtx_steady
    | with_reducible apply State.setObj_steady
    | with_reducible apply State.forAll_steady
    | with_reducible apply resched_steady
    | with_reducible apply requestPromotion_steady
    | with_reducible apply bindCtx_steady
    | with_reducible apply bindQueue_steady
    | with_reducible apply bindChan_steady
    | split
    | lift_lets -underBinder
    | simp -zeta only [Steady.mk]

theorem nextOf_steady {og s : State} {o : Outcome} (hs : Steady og s) (ho : OutSteady og o) : Steady og (nextOf s o) := by
  unfold nextOf
  split
  · exact ho.keep _ rfl
  · exact hs

theorem drainUnits_steady {og : State} {a0} : ∀ {s a2 a3}, Steady og s → Steady og (drainUnits a0 s a2 a3) := by
  induction a0 with
  | zero => intro s a2 a3 h; exact h
  | succ k ih =>
  intro s a2 a3 h
  unfold drainUnits
  repeat' first
    | with_reducible assumption
    | (intro z; refine (fun hz => ?_ : Steady og z → _) ?_; rotate_left; subst z; rotate_left; clear_value z)
    | (intro z; clear_value z)
    | with_reducible apply execUnitInstructionComplete_steady
    | with_reducible apply execMxuBlockCheck_steady
    | with_reducible apply nextOf_steady
    | with_reducible apply ih
    | split
    | lift_lets -underBinder

theorem emptyCtx_steady {og : State} {s : State} {t : Fin 192} {c : Fin 4} (hs : Steady og s) : Steady og (emptyCtx s t c) := by
  unfold emptyCtx
  repeat' first
    | with_reducible assumption
    | with_reducible apply State.setCtx_steady
    | with_reducible apply resched_steady
    | with_reducible apply leaveWalker_steady
    | lift_lets -underBinder
    | simp -zeta only [Steady.mk]

theorem flushReqs_steady {og : State} {s : State} {n : Fin 16} (hs : Steady og s) : Steady og (flushReqs s n) := by
  unfold flushReqs
  repeat' first
    | with_reducible assumption
    | (intro z; clear_value z)
    | intro _
    | with_reducible apply State.forAll_steady
    | with_reducible apply changeCounter_steady
    | with_reducible apply applyReq_steady
    | split
    | lift_lets -underBinder
    | simp -zeta only [Steady.mk]

theorem stopQueue_steady {og : State} {s : State} {q : Fin 256} (hs : Steady og s) : Steady og (stopQueue s q) := by
  unfold stopQueue
  repeat' first
    | with_reducible assumption
    | (intro z; clear_value z)
    | intro _
    | with_reducible apply State.modQueue_steady
    | with_reducible apply emit_steady
    | with_reducible apply failQueue_steady
    | with_reducible apply abortQueue_steady
    | with_reducible apply foldl_steady
    | with_reducible apply foldl_fst_steady
    | split
    | lift_lets -underBinder
    | simp -zeta only [Steady.mk]
    | with_reducible refine Steady.fst ?_ ‹_ = (_, _)›
    | with_reducible refine OptSteadyP.of ?_ ‹_ = some (_, _)›

theorem stopAe_steady {og : State} {s : State} {e : Fin 32} {c : Fin 4} (hs : Steady og s) : Steady og (stopAe s e c) := by
  unfold stopAe
  repeat' first
    | with_reducible assumption
    | (intro z; clear_value z)
    | intro _
    | with_reducible apply State.setAeCtx_steady
    | with_reducible apply emit_steady
    | with_reducible apply dropAe_steady
    | with_reducible apply foldl_steady
    | with_reducible apply foldl_fst_steady
    | split
    | lift_lets -underBinder
    | simp -zeta only [Steady.mk]
    | with_reducible refine Steady.fst ?_ ‹_ = (_, _)›
    | with_reducible refine OptSteadyP.of ?_ ‹_ = some (_, _)›

theorem stopLaunch_steady {og : State} {s : State} {n : Fin 16} {trigger : Nat} (hs : Steady og s) : Steady og (stopLaunch s n trigger) := by
  unfold stopLaunch
  repeat' first
    | with_reducible assumption
    | (intro z; clear_value z)
    | intro _
    | with_reducible apply State.setSlot_steady
    | with_reducible apply State.forAll_steady
    | with_reducible apply abandonLaunch_steady
    | with_reducible apply endPass_steady
    | with_reducible apply abandonColls_steady
    | with_reducible apply settleCmds_steady
    | with_reducible apply drainUnits_steady
    | with_reducible apply emptyCtx_steady
    | with_reducible apply flushReqs_steady
    | with_reducible apply stopQueue_steady
    | with_reducible apply stopAe_steady
    | with_reducible apply foldl_steady
    | with_reducible apply foldl_fst_steady
    | split
    | lift_lets -underBinder
    | simp -zeta only [Steady.mk]
    | with_reducible refine Steady.fst ?_ ‹_ = (_, _)›
    | with_reducible refine OptSteadyP.of ?_ ‹_ = some (_, _)›

theorem preemptCtx_steady {og : State} {s : State} {t : Fin 192} {c : Fin 4} (hs : Steady og s) : Steady og (preemptCtx s t c) := by
  unfold preemptCtx
  repeat' first
    | with_reducible assumption
    | (intro z; clear_value z)
    | with_reducible apply State.setCtx_steady
    | split
    | lift_lets -underBinder

theorem preemptQueue_steady {og : State} {s : State} {q : Fin 256} (hs : Steady og s) : Steady og (preemptQueue s q) := by
  unfold preemptQueue
  repeat' first
    | with_reducible assumption
    | with_reducible apply State.modQueue_steady
    | with_reducible apply withdrawCredit_steady
    | with_reducible apply settleHalt_steady
    | split

theorem preemptLaunch_steady {og : State} {s : State} {n : Fin 16} (hs : Steady og s) : Steady og (preemptLaunch s n) := by
  unfold preemptLaunch
  repeat' first
    | with_reducible assumption
    | (intro z; clear_value z)
    | intro _
    | with_reducible apply State.setAeCtx_steady
    | with_reducible apply State.forAll_steady
    | with_reducible apply holdLaunch_steady
    | with_reducible apply setPhase_steady
    | with_reducible apply settleLaunch_steady
    | with_reducible apply preemptCtx_steady
    | with_reducible apply preemptQueue_steady
    | split
    | lift_lets -underBinder

theorem execWaitCancelReply_steady {og : State} {t : Fin 192} {c : Fin 4} {s : State} (hs : Steady og s) : OutSteady og (execWaitCancelReply t c s) := by
  unfold execWaitCancelReply
  repeat' first
    | with_reducible assumption
    | (intro z; refine (fun hz => ?_ : (∀ s, Steady og s → Steady og (z s)) → _) ?_; rotate_left; subst z; rotate_left; clear_value z)
    | (intro z; clear_value z)
    | intro _
    | with_reducible apply OutSteady.next
    | with_reducible apply State.setCtx_steady
    | with_reducible apply State.modCtx_steady
    | with_reducible apply endWait_steady
    | split
    | lift_lets -underBinder
    | with_reducible apply_assumption

theorem execPreemptDrainDone_steady {og : State} {t : Fin 192} {c : Fin 4} {s : State} (hs : Steady og s) : OutSteady og (execPreemptDrainDone t c s) := by
  unfold execPreemptDrainDone
  repeat' first
    | with_reducible assumption
    | (intro z; clear_value z)
    | with_reducible apply OutSteady.next
    | with_reducible apply State.setCtx_steady
    | with_reducible apply settleCtx_steady
    | with_reducible apply settleAll_steady
    | split
    | lift_lets -underBinder

theorem execContextSaveDone_steady {og : State} {t : Fin 192} {c : Fin 4} {s : State} (hs : Steady og s) : OutSteady og (execContextSaveDone t c s) := by
  unfold execContextSaveDone
  repeat' first
    | with_reducible assumption
    | (intro z; refine (fun hz => ?_ : Steady og z → _) ?_; rotate_left; subst z; rotate_left; clear_value z)
    | (intro z; clear_value z)
    | intro _
    | with_reducible apply OutSteady.next
    | with_reducible apply State.setCtx_steady
    | with_reducible apply State.modTile_steady
    | with_reducible apply State.setObj_steady
    | with_reducible apply State.forAll_steady
    | with_reducible apply resched_steady
    | with_reducible apply settleAll_steady
    | split
    | lift_lets -underBinder
    | simp -zeta only [Steady.mk]

theorem resumeLaunch_steady {og : State} {s : State} {n : Fin 16} (hs : Steady og s) : Steady og (resumeLaunch s n) := by
  unfold resumeLaunch
  repeat' first
    | with_reducible assumption
    | (intro z; clear_value z)
    | intro _
    | with_reducible apply State.setCtx_steady
    | with_reducible apply State.forAll_steady
    | with_reducible apply aeRestore_steady
    | with_reducible apply holdLaunch_steady
    | with_reducible apply setPhase_steady
    | with_reducible apply settleLaunch_steady
    | with_reducible apply foldl_steady
    | with_reducible apply foldl_fst_steady
    | split
    | lift_lets -underBinder
    | simp -zeta only [Steady.mk]
    | with_reducible refine Steady.fst ?_ ‹_ = (_, _)›
    | with_reducible refine OptSteadyP.of ?_ ‹_ = some (_, _)›

theorem resumeQueue_steady {og : State} {s : State} {q : Fin 256} (hs : Steady og s) : Steady og (resumeQueue s q) := by
  unfold resumeQueue
  repeat' first
    | with_reducible assumption
    | with_reducible apply takeCredit_steady
    | with_reducible apply execStreamResume_steady
    | with_reducible apply nextOf_steady
    | split

theorem execContextRestoreDone_steady {og : State} {t : Fin 192} {c : Fin 4} {s : State} (hs : Steady og s) : OutSteady og (execContextRestoreDone t c s) := by
  unfold execContextRestoreDone
  repeat' first
    | with_reducible assumption
    | (intro z; refine (fun hz => ?_ : Steady og z → _) ?_; rotate_left; subst z; rotate_left; clear_value z)
    | (intro z; refine (fun hz => ?_ : Steady og z.1 → _) ?_; rotate_left; subst z; rotate_left; clear_value z)
    | (intro z; clear_value z)
    | intro _
    | with_reducible apply OutSteady.next
    | with_reducible apply State.setCtx_steady
    | with_reducible apply State.setObj_steady
    | with_reducible apply State.forAll_steady
    | with_reducible apply State.sramWrite_steady
    | with_reducible apply resched_steady
    | with_reducible apply holdLaunch_steady
    | with_reducible apply settleAll_steady
    | with_reducible apply resumeQueue_steady
    | with_reducible apply foldl_steady
    | with_reducible apply foldl_fst_steady
    | split
    | lift_lets -underBinder
    | simp -zeta only [Steady.mk]
    | with_reducible refine Steady.fst ?_ ‹_ = (_, _)›
    | with_reducible refine OptSteadyP.of ?_ ‹_ = some (_, _)›

theorem execAeGroupCheck_steady {og : State} {ae : Fin 32} {scores : Bool} {values : Bool} {adders : Bool} {s : State} (hs : Steady og s) : OutSteady og (execAeGroupCheck ae scores values adders s) := by
  unfold execAeGroupCheck
  repeat' first
    | with_reducible assumption
    | (intro z; clear_value z)
    | intro _
    | with_reducible apply OutSteady.next
    | with_reducible apply aeGroupCheck_steady
    | with_reducible apply settleAll_steady
    | with_reducible apply foldl_steady
    | with_reducible apply foldl_fst_steady
    | split
    | lift_lets -underBinder
    | simp -zeta only [Steady.mk]
    | with_reducible refine Steady.fst ?_ ‹_ = (_, _)›
    | with_reducible refine OptSteadyP.of ?_ ‹_ = some (_, _)›

theorem execAeContextSave_steady {og : State} {ae : Fin 32} {c : Fin 4} {s : State} (hs : Steady og s) : OutSteady og (execAeContextSave ae c s) := by
  unfold execAeContextSave
  repeat' first
    | with_reducible assumption
    | with_reducible apply OutSteady.next
    | with_reducible apply aeContextSave_steady
    | with_reducible apply settleAll_steady

theorem haltOnce_steady {og : State} {s : State} {number : Word32} {stop : Bool} (hs : Steady og s) : Steady og (haltOnce s number stop).1 := by
  unfold haltOnce
  repeat' first
    | with_reducible assumption
    | (intro z; clear_value z)
    | intro _
    | with_reducible apply State.forAll_steady
    | with_reducible apply stopLaunch_steady
    | with_reducible apply preemptLaunch_steady
    | split
    | lift_lets -underBinder
    | simp -zeta only [Steady.mk]

theorem endResumes_steady {og : State} {s : State} {l : List (Fin 16)} (hs : Steady og s) : Steady og (endResumes s l) := by
  unfold endResumes
  repeat' first
    | with_reducible assumption
    | intro _
    | with_reducible apply State.forAll_steady
    | with_reducible apply finish_steady
    | split

/-! Machine/Net. -/

theorem execWrite_steady {og : State} {p : PktHdr} {payload : List Byte} {s : State} (hs : Steady og s) : OutSteady og (execWrite p payload s) := by
  unfold execWrite
  repeat' first
    | with_reducible assumption
    | (intro z; clear_value z)
    | intro _
    | with_reducible apply OutSteady.next
    | with_reducible apply returnCredit_steady
    | with_reducible apply holdIn_steady
    | with_reducible apply admitPacket_steady
    | with_reducible apply takeWrite_steady
    | with_reducible apply foldl_steady
    | with_reducible apply foldl_fst_steady
    | split
    | lift_lets -underBinder
    | simp -zeta only [Steady.mk]
    | with_reducible refine Steady.fst ?_ ‹_ = (_, _)›
    | with_reducible refine OptSteadyP.of ?_ ‹_ = some (_, _)›

theorem execSignal_steady {og : State} {p : PktHdr} {s : State} (hs : Steady og s) : OutSteady og (execSignal p s) := by
  unfold execSignal
  repeat' first
    | with_reducible assumption
    | (intro z; refine (fun hz => ?_ : Steady og z → _) ?_; rotate_left; subst z; rotate_left; clear_value z)
    | (intro z; refine (fun hz => ?_ : Steady og z.1 → _) ?_; rotate_left; subst z; rotate_left; clear_value z)
    | (intro z; clear_value z)
    | with_reducible apply OutSteady.next
    | with_reducible apply count_steady
    | with_reducible apply ingress_steady
    | with_reducible apply setInXfer_steady
    | with_reducible apply ackSignal_steady
    | with_reducible apply settleIn_steady
    | split
    | lift_lets -underBinder

theorem execAckFlush_steady {og : State} {src : BitVec 12} {s : State} (hs : Steady og s) : OutSteady og (execAckFlush src s) := by
  unfold execAckFlush
  repeat' first
    | with_reducible assumption
    | (intro z; clear_value z)
    | intro _
    | with_reducible apply OutSteady.next
    | with_reducible apply State.forAll_steady
    | with_reducible apply sendAck_steady
    | lift_lets -underBinder
    | simp -zeta only [Steady.mk]

theorem packetDone_steady {og : State} {s : State} {q : Fin 256} {index : Nat} (hs : Steady og s) : Steady og (packetDone s q index) := by
  unfold packetDone
  repeat' first
    | with_reducible assumption
    | (intro z; refine (fun hz => ?_ : Steady og z → _) ?_; rotate_left; subst z; rotate_left; clear_value z)
    | (intro z; refine (fun hz => ?_ : Steady og z.1 → _) ?_; rotate_left; subst z; rotate_left; clear_value z)
    | (intro z; clear_value z)
    | intro _
    | with_reducible apply State.modQueue_steady
    | with_reducible apply requestDone_steady
    | with_reducible apply foldl_steady
    | with_reducible apply foldl_fst_steady
    | split
    | lift_lets -underBinder
    | simp -zeta only [Steady.mk]
    | with_reducible refine Steady.fst ?_ ‹_ = (_, _)›
    | with_reducible refine OptSteadyP.of ?_ ‹_ = some (_, _)›

theorem execAck_steady {og : State} {p : PktHdr} {s : State} (hs : Steady og s) : OutSteady og (execAck p s) := by
  unfold execAck
  repeat' first
    | with_reducible assumption
    | (intro z; refine (fun hz => ?_ : Steady og z → _) ?_; rotate_left; subst z; rotate_left; clear_value z)
    | (intro z; refine (fun hz => ?_ : Steady og z.1 → _) ?_; rotate_left; subst z; rotate_left; clear_value z)
    | (intro z; clear_value z)
    | intro _
    | with_reducible apply OutSteady.next
    | with_reducible apply State.modQueue_steady
    | with_reducible apply State.forAll_steady
    | with_reducible apply checkComplete_steady
    | with_reducible apply settleHalt_steady
    | with_reducible apply ingress_steady
    | with_reducible apply packetDone_steady
    | split
    | lift_lets -underBinder
    | simp -zeta only [Steady.mk]

theorem execDeny_steady {og : State} {p : PktHdr} {s : State} (hs : Steady og s) : OutSteady og (execDeny p s) := by
  unfold execDeny
  repeat' first
    | with_reducible assumption
    | (intro z; refine (fun hz => ?_ : Steady og z → _) ?_; rotate_left; subst z; rotate_left; clear_value z)
    | (intro z; refine (fun hz => ?_ : Steady og z.1 → _) ?_; rotate_left; subst z; rotate_left; clear_value z)
    | with_reducible apply OutSteady.next
    | with_reducible apply endXfer_steady
    | with_reducible apply ingress_steady
    | split
    | lift_lets -underBinder

theorem execPacketResendTimer_steady {og : State} {dst : BitVec 12} {xfer : BitVec 16} {index : BitVec 24} {s : State} (hs : Steady og s) : OutSteady og (execPacketResendTimer dst xfer index s) := by
  unfold execPacketResendTimer
  repeat' first
    | with_reducible assumption
    | with_reducible apply OutSteady.next
    | with_reducible apply resend_steady
    | split

theorem execCreditReturn_steady {og : State} {port : Fin 8} {cls : Fin 3} {n : Nat} {s : State} (hs : Steady og s) : OutSteady og (execCreditReturn port cls n s) := by
  unfold execCreditReturn
  repeat' first
    | with_reducible assumption
    | with_reducible apply OutSteady.next
    | with_reducible apply State.setPort_steady
    | with_reducible apply flush_steady

theorem execCreditStallTimer_steady {og : State} {port : Fin 8} {cls : Fin 2} {s : State} (hs : Steady og s) : OutSteady og (execCreditStallTimer port cls s) := by
  unfold execCreditStallTimer
  repeat' first
    | with_reducible assumption
    | (intro z; clear_value z)
    | with_reducible apply OutSteady.next
    | with_reducible apply emit_steady
    | with_reducible apply State.setPort_steady
    | split
    | lift_lets -underBinder

theorem execHalt_steady {og : State} {p : PktHdr} {stop : Bool} {s : State} (hs : Steady og s) : OutSteady og (execHalt p stop s) := by
  unfold execHalt
  repeat' first
    | with_reducible assumption
    | (intro z; refine (fun hz => ?_ : Steady og z.1 → _) ?_; rotate_left; subst z; rotate_left; clear_value z)
    | with_reducible apply OutSteady.next
    | with_reducible apply ingress_steady
    | with_reducible apply settleCmds_steady
    | with_reducible apply haltOnce_steady
    | with_reducible apply endResumes_steady
    | split
    | lift_lets -underBinder

theorem makeUnreachable_steady {og : State} {s : State} {d : Nat} (hs : Steady og s) : Steady og (makeUnreachable s d) := by
  unfold makeUnreachable
  repeat' first
    | with_reducible assumption
    | (intro z; refine (fun hz => ?_ : Steady og z → _) ?_; rotate_left; subst z; rotate_left; clear_value z)
    | (intro z; clear_value z)
    | intro _
    | with_reducible apply State.forAll_steady
    | with_reducible apply emit_steady
    | with_reducible apply endXfer_steady
    | with_reducible apply ringUnreachable_steady
    | split
    | lift_lets -underBinder
    | simp -zeta only [Steady.mk]

theorem loseEmpty_steady {og : State} {s : State} (hs : Steady og s) : Steady og (loseEmpty s) := by
  unfold loseEmpty
  repeat' first
    | with_reducible assumption
    | intro _
    | with_reducible apply State.forAll_steady
    | with_reducible apply makeUnreachable_steady

theorem planeLost_steady {og : State} {s : State} {plane : Nat} {dst : BitVec 12 → Bool} (hs : Steady og s) : Steady og (planeLost s plane dst) := by
  unfold planeLost
  repeat' first
    | with_reducible assumption
    | intro _
    | with_reducible apply State.forAll_steady
    | with_reducible apply resend_steady
    | with_reducible apply ringPlaneLost_steady
    | with_reducible apply collPlaneLost_steady

theorem execNoticeDown_steady {og : State} {p : PktHdr} {s : State} (hs : Steady og s) : OutSteady og (execNoticeDown p s) := by
  unfold execNoticeDown
  repeat' first
    | with_reducible assumption
    | (intro z; refine (fun hz => ?_ : Steady og z → _) ?_; rotate_left; subst z; rotate_left; clear_value z)
    | (intro z; refine (fun hz => ?_ : Steady og z.1 → _) ?_; rotate_left; subst z; rotate_left; clear_value z)
    | (intro z; clear_value z)
    | with_reducible apply OutSteady.next
    | with_reducible apply ingress_steady
    | with_reducible apply makeUnreachable_steady
    | with_reducible apply planeLost_steady
    | split
    | lift_lets -underBinder
    | simp -zeta only [Steady.mk]

theorem execNoticeUp_steady {og : State} {p : PktHdr} {s : State} (hs : Steady og s) : OutSteady og (execNoticeUp p s) := by
  unfold execNoticeUp
  repeat' first
    | with_reducible assumption
    | (intro z; refine (fun hz => ?_ : Steady og z → _) ?_; rotate_left; subst z; rotate_left; clear_value z)
    | (intro z; refine (fun hz => ?_ : Steady og z.1 → _) ?_; rotate_left; subst z; rotate_left; clear_value z)
    | (intro z; clear_value z)
    | with_reducible apply OutSteady.next
    | with_reducible apply flush_steady
    | with_reducible apply ingress_steady
    | split
    | lift_lets -underBinder
    | simp -zeta only [Steady.mk]

theorem execUnreachableTimer_steady {og : State} {dst : BitVec 12} {s : State} (hs : Steady og s) : OutSteady og (execUnreachableTimer dst s) := by
  unfold execUnreachableTimer
  repeat' first
    | with_reducible assumption
    | (intro z; clear_value z)
    | with_reducible apply OutSteady.next
    | with_reducible apply makeUnreachable_steady
    | split
    | lift_lets -underBinder

theorem refuseSession_steady {og : State} {s : State} {d : Nat} (hs : Steady og s) : Steady og (refuseSession s d) := by
  unfold refuseSession
  repeat' first
    | with_reducible assumption
    | (intro z; refine (fun hz => ?_ : Steady og z → _) ?_; rotate_left; subst z; rotate_left; clear_value z)
    | (intro z; clear_value z)
    | intro _
    | with_reducible apply State.forAll_steady
    | with_reducible apply endXfer_steady
    | with_reducible apply sealFail_steady
    | with_reducible apply endSession_steady
    | split
    | lift_lets -underBinder
    | simp -zeta only [Steady.mk]

theorem execSession_steady {og : State} {p : PktHdr} {msg : SessionMsg} {s : State} (hs : Steady og s) : OutSteady og (execSession p msg s) := by
  unfold execSession
  repeat' first
    | with_reducible assumption
    | (intro z; refine (fun hz => ?_ : Steady og z → _) ?_; rotate_left; subst z; rotate_left; clear_value z)
    | (intro z; refine (fun hz => ?_ : Steady og z.1 → _) ?_; rotate_left; subst z; rotate_left; clear_value z)
    | (intro z; clear_value z)
    | intro _
    | with_reducible apply OutSteady.next
    | with_reducible apply State.bump_steady
    | with_reducible apply State.setSess_steady
    | with_reducible apply queuePacket_steady
    | with_reducible apply flush_steady
    | with_reducible apply ingress_steady
    | with_reducible apply refuseSession_steady
    | with_reducible apply foldl_steady
    | with_reducible apply foldl_fst_steady
    | split
    | lift_lets -underBinder
    | simp -zeta only [Steady.mk]
    | with_reducible refine Steady.fst ?_ ‹_ = (_, _)›
    | with_reducible refine OptSteadyP.of ?_ ‹_ = some (_, _)›

theorem execSessionRekeyTimer_steady {og : State} {peer : BitVec 12} {s : State} (hs : Steady og s) : OutSteady og (execSessionRekeyTimer peer s) := by
  unfold execSessionRekeyTimer
  repeat' first
    | with_reducible assumption
    | (intro z; clear_value z)
    | intro _
    | with_reducible apply OutSteady.next
    | with_reducible apply State.bump_steady
    | with_reducible apply State.setSess_steady
    | with_reducible apply queuePacket_steady
    | with_reducible apply foldl_steady
    | with_reducible apply foldl_fst_steady
    | split
    | lift_lets -underBinder
    | simp -zeta only [Steady.mk]
    | with_reducible refine Steady.fst ?_ ‹_ = (_, _)›
    | with_reducible refine OptSteadyP.of ?_ ‹_ = some (_, _)›

theorem execOldKeyExpiry_steady {og : State} {peer : BitVec 12} {s : State} (hs : Steady og s) : OutSteady og (execOldKeyExpiry peer s) := by
  unfold execOldKeyExpiry
  repeat' first
    | with_reducible assumption
    | (intro z; clear_value z)
    | with_reducible apply OutSteady.next
    | with_reducible apply State.setSess_steady
    | split
    | lift_lets -underBinder

theorem execFrameCrcFail_steady {og : State} {port : Fin 8} {s : State} (hs : Steady og s) : OutSteady og (execFrameCrcFail port s) := by
  unfold execFrameCrcFail
  repeat' first
    | with_reducible assumption
    | with_reducible apply OutSteady.next
    | with_reducible apply count_steady

theorem portGoesDown_steady {og : State} {s : State} {port : Nat} (hs : Steady og s) : Steady og (portGoesDown s port) := by
  unfold portGoesDown
  repeat' first
    | with_reducible assumption
    | intro _
    | with_reducible apply State.forAll_steady
    | with_reducible apply emit_steady
    | with_reducible apply State.setPort_steady
    | with_reducible apply flush_steady
    | with_reducible apply sendControl_steady
    | with_reducible apply loseEmpty_steady
    | with_reducible apply planeLost_steady

theorem execPortDown_steady {og : State} {port : Fin 8} {s : State} (hs : Steady og s) : OutSteady og (execPortDown port s) := by
  unfold execPortDown
  repeat' first
    | with_reducible assumption
    | with_reducible apply OutSteady.next
    | with_reducible apply portGoesDown_steady
    | split

theorem execLaneFailure_steady {og : State} {port : Fin 8} {lanes : BitVec 4} {s : State} (hs : Steady og s) : OutSteady og (execLaneFailure port lanes s) := by
  unfold execLaneFailure
  repeat' first
    | with_reducible assumption
    | (intro z; refine (fun hz => ?_ : Steady og z → _) ?_; rotate_left; subst z; rotate_left; clear_value z)
    | (intro z; clear_value z)
    | with_reducible apply OutSteady.next
    | with_reducible apply State.setPort_steady
    | with_reducible apply flush_steady
    | with_reducible apply portGoesDown_steady
    | split
    | lift_lets -underBinder

theorem execPortRetrainDone_steady {og : State} {port : Fin 8} {s : State} (hs : Steady og s) : OutSteady og (execPortRetrainDone port s) := by
  unfold execPortRetrainDone
  repeat' first
    | with_reducible assumption
    | (intro z; refine (fun hz => ?_ : Steady og z → _) ?_; rotate_left; subst z; rotate_left; clear_value z)
    | (intro z; clear_value z)
    | with_reducible apply OutSteady.next
    | with_reducible apply emit_steady
    | with_reducible apply count_steady
    | with_reducible apply State.setPort_steady
    | with_reducible apply flush_steady
    | split
    | lift_lets -underBinder

theorem moduleFault_steady {og : State} {s : State} {unit : Nat} {cause : Nat} {detail : Nat} (hs : Steady og s) : Steady og (moduleFault s unit cause detail) := by
  unfold moduleFault
  repeat' first
    | with_reducible assumption
    | (intro z; clear_value z)
    | intro _
    | with_reducible apply State.forAll_steady
    | with_reducible apply State.bump_steady
    | with_reducible apply emit_steady
    | with_reducible apply State.setPort_steady
    | with_reducible apply stopLaunch_steady
    | lift_lets -underBinder
    | simp -zeta only [Steady.mk]

theorem execFlitCrcFail_steady {og : State} {link : Fin 10} {replayed : Bool} {s : State} (hs : Steady og s) : OutSteady og (execFlitCrcFail link replayed s) := by
  unfold execFlitCrcFail
  repeat' first
    | with_reducible assumption
    | (intro z; refine (fun hz => ?_ : Steady og z → _) ?_; rotate_left; subst z; rotate_left; clear_value z)
    | (intro z; clear_value z)
    | with_reducible apply OutSteady.next
    | with_reducible apply count_steady
    | with_reducible apply moduleFault_steady
    | split
    | lift_lets -underBinder
    | simp -zeta only [Steady.mk]

/-! Machine/FabTime. -/

theorem State.modTime_steady {og : State} {s : State} {f : TimeUnit → TimeUnit} (hs : Steady og s) : Steady og (State.modTime s f) := by
  unfold State.modTime
  repeat' first
    | with_reducible assumption
    | simp -zeta only [Steady.mk]

theorem tick_steady {og : State} {s : State} (hs : Steady og s) : Steady og (tick s) := by
  unfold tick
  repeat' first
    | with_reducible assumption
    | with_reducible apply State.modTime_steady

theorem timeEvent_steady {og : State} {s : State} {old : TimeSt} {new : TimeSt} (hs : Steady og s) : Steady og (timeEvent s old new) := by
  unfold timeEvent
  repeat' first
    | with_reducible assumption
    | with_reducible apply emit_steady

theorem setTimeSt_steady {og : State} {s : State} {st : TimeSt} (hs : Steady og s) : Steady og (setTimeSt s st) := by
  unfold setTimeSt
  repeat' first
    | with_reducible assumption
    | (intro z; clear_value z)
    | with_reducible apply State.modTime_steady
    | with_reducible apply timeEvent_steady
    | split
    | lift_lets -underBinder

theorem setStep_steady {og : State} {s : State} {n : Nat} (hs : Steady og s) : Steady og (setStep s n) := by
  unfold setStep
  repeat' first
    | with_reducible assumption
    | (intro z; refine (fun hz => ?_ : Steady og z → _) ?_; rotate_left; subst z; rotate_left; clear_value z)
    | (intro z; clear_value z)
    | with_reducible apply State.modTime_steady
    | with_reducible apply timeEvent_steady
    | split
    | lift_lets -underBinder

theorem serveTime_steady {og : State} {s : State} (hs : Steady og s) : Steady og (serveTime s) := by
  unfold serveTime
  repeat' first
    | with_reducible assumption
    | (intro z; clear_value z)
    | intro _
    | with_reducible apply State.modTime_steady
    | with_reducible apply setTimeSt_steady
    | with_reducible apply setStep_steady
    | with_reducible apply foldl_steady
    | with_reducible apply foldl_fst_steady
    | split
    | lift_lets -underBinder
    | simp -zeta only [Steady.mk]
    | with_reducible refine Steady.fst ?_ ‹_ = (_, _)›
    | with_reducible refine OptSteadyP.of ?_ ‹_ = some (_, _)›

theorem timeRequestTo_steady {og : State} {s : State} {d : Nat} (hs : Steady og s) : Steady og (timeRequestTo s d) := by
  unfold timeRequestTo
  repeat' first
    | with_reducible assumption
    | (intro z; refine (fun hz => ?_ : Steady og z → _) ?_; rotate_left; subst z; rotate_left; clear_value z)
    | (intro z; clear_value z)
    | with_reducible apply launchOn_steady
    | with_reducible apply sendPacket_steady
    | with_reducible apply State.modTime_steady
    | split
    | lift_lets -underBinder

theorem execTimeExchangeTimer_steady {og : State} {s : State} (hs : Steady og s) : OutSteady og (execTimeExchangeTimer s) := by
  unfold execTimeExchangeTimer
  repeat' first
    | with_reducible assumption
    | with_reducible apply OutSteady.next
    | with_reducible apply timeRequestTo_steady
    | split

theorem execTimeRequest_steady {og : State} {p : PktHdr} {t1 : Nat} {s : State} (hs : Steady og s) : OutSteady og (execTimeRequest p t1 s) := by
  unfold execTimeRequest
  repeat' first
    | with_reducible assumption
    | (intro z; refine (fun hz => ?_ : Steady og z → _) ?_; rotate_left; subst z; rotate_left; clear_value z)
    | (intro z; refine (fun hz => ?_ : Steady og z.1 → _) ?_; rotate_left; subst z; rotate_left; clear_value z)
    | (intro z; clear_value z)
    | with_reducible apply OutSteady.next
    | with_reducible apply count_steady
    | with_reducible apply sendPacket_steady
    | with_reducible apply ingress_steady
    | split
    | lift_lets -underBinder

theorem servoRate_steady {og : State} {s : State} {theta : Int} {ppm : Nat} {fast : Bool} (hs : Steady og s) : Steady og (servoRate s theta ppm fast) := by
  unfold servoRate
  repeat' first
    | with_reducible assumption
    | (intro z; clear_value z)
    | intro _
    | with_reducible apply State.bump_steady
    | with_reducible apply State.modTime_steady
    | with_reducible apply foldl_steady
    | with_reducible apply foldl_fst_steady
    | split
    | lift_lets -underBinder
    | simp -zeta only [Steady.mk]
    | with_reducible refine Steady.fst ?_ ‹_ = (_, _)›
    | with_reducible refine OptSteadyP.of ?_ ‹_ = some (_, _)›

theorem slewBack_steady {og : State} {s : State} (hs : Steady og s) : Steady og (slewBack s) := by
  unfold slewBack
  repeat' first
    | with_reducible assumption
    | (intro z; refine (fun hz => ?_ : Steady og z → _) ?_; rotate_left; subst z; rotate_left; clear_value z)
    | (intro z; clear_value z)
    | with_reducible apply emit_steady
    | with_reducible apply State.modTime_steady
    | split
    | lift_lets -underBinder

theorem acquire_steady {og : State} {s : State} {theta : Int} (hs : Steady og s) : Steady og (acquire s theta) := by
  unfold acquire
  repeat' first
    | with_reducible assumption
    | (intro z; refine (fun hz => ?_ : Steady og z → _) ?_; rotate_left; subst z; rotate_left; clear_value z)
    | (intro z; clear_value z)
    | with_reducible apply State.modTime_steady
    | with_reducible apply setTimeSt_steady
    | with_reducible apply servoRate_steady
    | with_reducible apply slewBack_steady
    | split
    | lift_lets -underBinder

theorem useExchange_steady {og : State} {s : State} {theta : Int} (hs : Steady og s) : Steady og (useExchange s theta) := by
  unfold useExchange
  repeat' first
    | with_reducible assumption
    | with_reducible apply setTimeSt_steady
    | with_reducible apply servoRate_steady
    | with_reducible apply acquire_steady
    | split

theorem followReply_steady {og : State} {s : State} {r : TimeReply} (hs : Steady og s) : Steady og (followReply s r) := by
  unfold followReply
  repeat' first
    | with_reducible assumption
    | (intro z; refine (fun hz => ?_ : Steady og z → _) ?_; rotate_left; subst z; rotate_left; clear_value z)
    | (intro z; clear_value z)
    | with_reducible apply State.modTime_steady
    | with_reducible apply setTimeSt_steady
    | with_reducible apply setStep_steady
    | with_reducible apply useExchange_steady
    | split
    | lift_lets -underBinder

theorem execTimeReply_steady {og : State} {p : PktHdr} {r : TimeReply} {s : State} (hs : Steady og s) : OutSteady og (execTimeReply p r s) := by
  unfold execTimeReply
  repeat' first
    | with_reducible assumption
    | (intro z; refine (fun hz => ?_ : Steady og z → _) ?_; rotate_left; subst z; rotate_left; clear_value z)
    | (intro z; refine (fun hz => ?_ : Steady og z.1 → _) ?_; rotate_left; subst z; rotate_left; clear_value z)
    | (intro z; clear_value z)
    | with_reducible apply OutSteady.next
    | with_reducible apply ingress_steady
    | with_reducible apply State.modTime_steady
    | with_reducible apply serveTime_steady
    | with_reducible apply followReply_steady
    | split
    | lift_lets -underBinder

theorem execHoldoverTimer_steady {og : State} {s : State} (hs : Steady og s) : OutSteady og (execHoldoverTimer s) := by
  unfold execHoldoverTimer
  repeat' first
    | with_reducible assumption
    | with_reducible apply OutSteady.next
    | with_reducible apply setTimeSt_steady
    | split

theorem execHoldoverExpiry_steady {og : State} {s : State} (hs : Steady og s) : OutSteady og (execHoldoverExpiry s) := by
  unfold execHoldoverExpiry
  repeat' first
    | with_reducible assumption
    | with_reducible apply OutSteady.next
    | with_reducible apply setTimeSt_steady
    | split

theorem execBackupTakeover_steady {og : State} {s : State} (hs : Steady og s) : OutSteady og (execBackupTakeover s) := by
  unfold execBackupTakeover
  repeat' first
    | with_reducible assumption
    | with_reducible apply OutSteady.next
    | with_reducible apply State.modTime_steady
    | with_reducible apply serveTime_steady
    | split

theorem execMasterProbeTimer_steady {og : State} {s : State} (hs : Steady og s) : OutSteady og (execMasterProbeTimer s) := by
  unfold execMasterProbeTimer
  repeat' first
    | with_reducible assumption
    | with_reducible apply OutSteady.next
    | with_reducible apply timeRequestTo_steady
    | split

theorem execMasterStartupTimer_steady {og : State} {s : State} (hs : Steady og s) : OutSteady og (execMasterStartupTimer s) := by
  unfold execMasterStartupTimer
  repeat' first
    | with_reducible assumption
    | with_reducible apply OutSteady.next
    | with_reducible apply serveTime_steady
    | split

/-! Machine/Power. -/

theorem changeRates_steady {og : State} {s : State} {f : Power → Power} {downs : Nat} (hs : Steady og s) : Steady og (changeRates s f downs) := by
  unfold changeRates
  repeat' first
    | with_reducible assumption
    | (intro z; refine (fun hz => ?_ : Steady og z → _) ?_; rotate_left; subst z; rotate_left; clear_value z)
    | (intro z; clear_value z)
    | intro _
    | with_reducible apply State.forAll_steady
    | with_reducible apply emit_steady
    | with_reducible apply countN_steady
    | with_reducible apply State.modPasses_steady
    | split
    | lift_lets -underBinder
    | simp -zeta only [Steady.mk]

theorem execPowerMeasure_steady {og s : State} {watts : Nat} (hs : Steady og s) : OutSteady og (execPowerMeasure watts s) := by
  have h : Steady og { s with power := { s.power with watts := watts } } := Steady.mk.mpr hs
  unfold execPowerMeasure
  show OutSteady og (if _ then _ else _)
  split
  · exact OutSteady.next (changeRates_steady h)
  · exact OutSteady.next h

theorem execModuleRateDown_steady {og : State} {s : State} (hs : Steady og s) : OutSteady og (execModuleRateDown s) := by
  unfold execModuleRateDown
  repeat' first
    | with_reducible assumption
    | with_reducible apply OutSteady.next
    | with_reducible apply changeRates_steady
    | split

theorem execModuleRateUp_steady {og : State} {s : State} (hs : Steady og s) : OutSteady og (execModuleRateUp s) := by
  unfold execModuleRateUp
  repeat' first
    | with_reducible assumption
    | with_reducible apply OutSteady.next
    | with_reducible apply changeRates_steady
    | split

theorem noteRail_steady {og : State} {s : State} {die : Fin 4} {watts : Nat} (hs : Steady og s) : Steady og (noteRail s die watts) := by
  unfold noteRail
  repeat' first
    | with_reducible assumption
    | (intro z; clear_value z)
    | intro _
    | with_reducible apply foldl_steady
    | with_reducible apply foldl_fst_steady
    | split
    | lift_lets -underBinder
    | simp -zeta only [Steady.mk]
    | with_reducible refine Steady.fst ?_ ‹_ = (_, _)›
    | with_reducible refine OptSteadyP.of ?_ ‹_ = some (_, _)›

theorem execDiePowerRateDown_steady {og : State} {die : Fin 4} {watts : Nat} {s : State} (hs : Steady og s) : OutSteady og (execDiePowerRateDown die watts s) := by
  unfold execDiePowerRateDown
  repeat' first
    | with_reducible assumption
    | (intro z; refine (fun hz => ?_ : Steady og z → _) ?_; rotate_left; subst z; rotate_left; clear_value z)
    | (intro z; refine (fun hz => ?_ : Steady og z.1 → _) ?_; rotate_left; subst z; rotate_left; clear_value z)
    | (intro z; clear_value z)
    | intro _
    | with_reducible apply OutSteady.next
    | with_reducible apply changeRates_steady
    | with_reducible apply noteRail_steady
    | with_reducible apply foldl_steady
    | with_reducible apply foldl_fst_steady
    | split
    | lift_lets -underBinder
    | simp -zeta only [Steady.mk]
    | with_reducible refine Steady.fst ?_ ‹_ = (_, _)›
    | with_reducible refine OptSteadyP.of ?_ ‹_ = some (_, _)›

theorem execDiePowerRateUp_steady {og : State} {die : Fin 4} {watts : Nat} {s : State} (hs : Steady og s) : OutSteady og (execDiePowerRateUp die watts s) := by
  unfold execDiePowerRateUp
  repeat' first
    | with_reducible assumption
    | (intro z; clear_value z)
    | intro _
    | with_reducible apply OutSteady.next
    | with_reducible apply changeRates_steady
    | with_reducible apply noteRail_steady
    | with_reducible apply foldl_steady
    | with_reducible apply foldl_fst_steady
    | split
    | lift_lets -underBinder
    | simp -zeta only [Steady.mk]
    | with_reducible refine Steady.fst ?_ ‹_ = (_, _)›
    | with_reducible refine OptSteadyP.of ?_ ‹_ = some (_, _)›

theorem execThermalRateDown_steady {og : State} {die : Fin 4} {s : State} (hs : Steady og s) : OutSteady og (execThermalRateDown die s) := by
  unfold execThermalRateDown
  repeat' first
    | with_reducible assumption
    | with_reducible apply OutSteady.next
    | with_reducible apply changeRates_steady
    | split

theorem execThermalRateUp_steady {og : State} {die : Fin 4} {s : State} (hs : Steady og s) : OutSteady og (execThermalRateUp die s) := by
  unfold execThermalRateUp
  repeat' first
    | with_reducible assumption
    | (intro z; clear_value z)
    | with_reducible apply OutSteady.next
    | with_reducible apply changeRates_steady
    | split
    | lift_lets -underBinder
    | simp -zeta only [Steady.mk]

theorem setRecal_steady {og : State} {s : State} {dies : BitVec 4} {on : Bool} (hs : Steady og s) : Steady og (setRecal s dies on) := by
  unfold setRecal
  repeat' first
    | with_reducible assumption
    | with_reducible apply changeRates_steady

theorem recalTurn_steady {og : State} {s : State} (hs : Steady og s) : Steady og (recalTurn s) := by
  unfold recalTurn
  repeat' first
    | with_reducible assumption
    | (intro z; clear_value z)
    | intro _
    | with_reducible apply setRecal_steady
    | with_reducible apply foldl_steady
    | with_reducible apply foldl_fst_steady
    | split
    | lift_lets -underBinder
    | simp -zeta only [Steady.mk]
    | with_reducible refine Steady.fst ?_ ‹_ = (_, _)›
    | with_reducible refine OptSteadyP.of ?_ ‹_ = some (_, _)›

theorem clock_steady {og : State} {s : State} (hs : Steady og s) : Steady og (clock s) := by
  unfold clock
  repeat' first
    | with_reducible assumption
    | (intro z; clear_value z)
    | intro _
    | with_reducible apply tick_steady
    | with_reducible apply recalTurn_steady
    | with_reducible apply foldl_steady
    | with_reducible apply foldl_fst_steady
    | split
    | lift_lets -underBinder
    | simp -zeta only [Steady.mk]
    | with_reducible refine Steady.fst ?_ ‹_ = (_, _)›
    | with_reducible refine OptSteadyP.of ?_ ‹_ = some (_, _)›

theorem execThermalTrip_steady {og : State} {die : Fin 4} {s : State} (hs : Steady og s) : OutSteady og (execThermalTrip die s) := by
  unfold execThermalTrip
  repeat' first
    | with_reducible assumption
    | with_reducible apply OutSteady.next
    | with_reducible apply moduleFault_steady

theorem execRailLost_steady {og : State} {die : Fin 4} {s : State} (hs : Steady og s) : OutSteady og (execRailLost die s) := by
  unfold execRailLost
  repeat' first
    | with_reducible assumption
    | with_reducible apply OutSteady.next
    | with_reducible apply moduleFault_steady

theorem execPllLockLost_steady {og : State} {s : State} (hs : Steady og s) : OutSteady og (execPllLockLost s) := by
  unfold execPllLockLost
  repeat' first
    | with_reducible assumption
    | with_reducible apply OutSteady.next
    | with_reducible apply moduleFault_steady

/-! Machine/Mailbox. -/

theorem execDescriptorReadDone_steady {og : State} {m : Fin 8} {r : Option (BitVec 512 × List Byte)} {s : State} (hs : Steady og s) : OutSteady og (execDescriptorReadDone m r s) := by
  unfold execDescriptorReadDone
  repeat' first
    | with_reducible assumption
    | (intro z; refine (fun hz => ?_ : Steady og z → _) ?_; rotate_left; subst z; rotate_left; clear_value z)
    | (intro z; clear_value z)
    | with_reducible apply OutSteady.next
    | with_reducible apply State.setMbx_steady
    | with_reducible apply wakeModule_steady
    | with_reducible apply emit_steady
    | with_reducible apply refuse_steady
    | split
    | lift_lets -underBinder
    | simp -zeta only [Steady.mk]

theorem startMaint_steady {og : State} {s : State} {a : Fin 8} {t : Nat} (hs : Steady og s) : Steady og (startMaint s a t).1 := by
  unfold startMaint
  repeat' first
    | with_reducible assumption
    | (intro z; clear_value z)
    | lift_lets -underBinder
    | simp -zeta only [Steady.mk]

theorem runCmd_steady {og : State} {s : State} {m : Fin 8} {op : Nat} {mine : Taken → Bool} {f : Taken → State} (hs : Steady og s) (hf : ∀ (a0 : Taken), Steady og (f a0)) : OutSteady og (runCmd s m op mine f) := by
  unfold runCmd
  repeat' first
    | with_reducible assumption
    | with_reducible apply OutSteady.next
    | with_reducible apply refuse_steady
    | with_reducible apply hf
    | split

theorem setWorking_steady {og : State} {s : State} {m : Fin 8} {waits : List (Fin 16)} (hs : Steady og s) : Steady og (setWorking s m waits) := by
  unfold setWorking
  repeat' first
    | with_reducible assumption
    | with_reducible apply State.setMbx_steady

theorem refusing_steady {og : State} {s : State} {m : Fin 8} {rows : List (Bool × Nat)} {f : Unit → State} (hs : Steady og s) (hf : ∀ (a0 : Unit), Steady og (f a0)) : Steady og (refusing s m rows f) := by
  unfold refusing
  repeat' first
    | with_reducible assumption
    | with_reducible apply refuse_steady
    | with_reducible apply hf
    | split

/-! Machine/Cmds. -/

theorem wakeDies_steady {og : State} {s : State} (hs : Steady og s) : Steady og (wakeDies s) := by
  unfold wakeDies
  repeat' first
    | with_reducible assumption
    | (intro z; clear_value z)
    | lift_lets -underBinder
    | simp -zeta only [Steady.mk]

theorem execSchedLaunch_steady {og : State} {m : Fin 8} {s : State} (hs : Steady og s) : OutSteady og (execSchedLaunch m s) := by
  unfold execSchedLaunch
  repeat' first
    | with_reducible assumption
    | (intro z; refine (fun hz => ?_ : Steady og z → _) ?_; rotate_left; subst z; rotate_left; clear_value z)
    | (intro z; clear_value z)
    | intro _
    | with_reducible apply finish_steady
    | with_reducible apply refuse_steady
    | with_reducible apply startLaunch_steady
    | with_reducible apply runCmd_steady
    | with_reducible apply wakeDies_steady
    | split
    | lift_lets -underBinder
    | simp -zeta only [Steady.mk]

theorem onLaunch_steady {og : State} {s : State} {m : Fin 8} {k : Taken} {ok : Launch → Bool} {f : Fin 16 → Launch → State} (hs : Steady og s) (hf : ∀ (a0 : Fin 16) (a1 : Launch), Steady og (f a0 a1)) : Steady og (onLaunch s m k ok f) := by
  unfold onLaunch
  repeat' first
    | with_reducible assumption
    | with_reducible apply refuse_steady
    | with_reducible apply hf
    | split

theorem execSchedStop_steady {og : State} {m : Fin 8} {s : State} (hs : Steady og s) : OutSteady og (execSchedStop m s) := by
  unfold execSchedStop
  repeat' first
    | with_reducible assumption
    | intro _
    | with_reducible apply finish_steady
    | with_reducible apply stopLaunch_steady
    | with_reducible apply runCmd_steady
    | with_reducible apply onLaunch_steady

theorem execSchedPreempt_steady {og : State} {m : Fin 8} {s : State} (hs : Steady og s) : OutSteady og (execSchedPreempt m s) := by
  unfold execSchedPreempt
  repeat' first
    | with_reducible assumption
    | intro _
    | with_reducible apply settleCmds_steady
    | with_reducible apply preemptLaunch_steady
    | with_reducible apply runCmd_steady
    | with_reducible apply setWorking_steady
    | with_reducible apply onLaunch_steady

theorem execSchedResume_steady {og : State} {m : Fin 8} {s : State} (hs : Steady og s) : OutSteady og (execSchedResume m s) := by
  unfold execSchedResume
  repeat' first
    | with_reducible assumption
    | intro _
    | with_reducible apply settleCmds_steady
    | with_reducible apply resumeLaunch_steady
    | with_reducible apply runCmd_steady
    | with_reducible apply setWorking_steady
    | with_reducible apply wakeDies_steady
    | with_reducible apply onLaunch_steady

theorem broadcastHalt_steady {og : State} {s : State} {number : Word32} {stop : Bool} (hs : Steady og s) : Steady og (broadcastHalt s number stop) := by
  unfold broadcastHalt
  repeat' first
    | with_reducible assumption
    | intro _
    | with_reducible apply State.forAll_steady
    | with_reducible apply sendControl_steady

theorem sliceHalt_steady {og : State} {m : Fin 8} {stop : Bool} {s : State} (hs : Steady og s) : OutSteady og (sliceHalt m stop s) := by
  unfold sliceHalt
  repeat' first
    | with_reducible assumption
    | (intro z; refine (fun hz => ?_ : Steady og z → _) ?_; rotate_left; subst z; rotate_left; clear_value z)
    | (intro z; refine (fun hz => ?_ : Steady og z.1 → _) ?_; rotate_left; subst z; rotate_left; clear_value z)
    | (intro z; clear_value z)
    | intro _
    | with_reducible apply finish_steady
    | with_reducible apply settleCmds_steady
    | with_reducible apply haltOnce_steady
    | with_reducible apply endResumes_steady
    | with_reducible apply runCmd_steady
    | with_reducible apply setWorking_steady
    | with_reducible apply broadcastHalt_steady
    | split
    | lift_lets -underBinder

theorem execSliceHaltPause_steady {og : State} {m : Fin 8} {s : State} (hs : Steady og s) : OutSteady og (execSliceHaltPause m s) := by
  unfold execSliceHaltPause
  repeat' first
    | with_reducible assumption
    | with_reducible apply sliceHalt_steady

theorem execSliceHaltStop_steady {og : State} {m : Fin 8} {s : State} (hs : Steady og s) : OutSteady og (execSliceHaltStop m s) := by
  unfold execSliceHaltStop
  repeat' first
    | with_reducible assumption
    | with_reducible apply sliceHalt_steady

theorem execDomainOpen_steady {og : State} {m : Fin 8} {s : State} (hs : Steady og s) : OutSteady og (execDomainOpen m s) := by
  unfold execDomainOpen
  repeat' first
    | with_reducible assumption
    | (intro z; clear_value z)
    | intro _
    | with_reducible apply finish_steady
    | with_reducible apply runCmd_steady
    | with_reducible apply refusing_steady
    | lift_lets -underBinder
    | simp -zeta only [Steady.mk]

theorem execSeqCreate_steady {og : State} {m : Fin 8} {s : State} (hs : Steady og s) : OutSteady og (execSeqCreate m s) := by
  unfold execSeqCreate
  repeat' first
    | with_reducible assumption
    | (intro z; refine (fun hz hy => ?_ : Steady og z.1 → OptSteadyP og z.2 → _) ?_ ?_; rotate_left; subst z; rotate_left; subst z; rotate_left; clear_value z)
    | intro _
    | with_reducible apply OptSteadyP.mapS
    | with_reducible apply OptSteadyP.bindv
    | with_reducible apply withReclaim_steady
    | with_reducible apply createSeq_steady
    | with_reducible apply finish_steady
    | with_reducible apply refuse_steady
    | with_reducible apply runCmd_steady
    | with_reducible apply refusing_steady
    | with_reducible apply withReclaim_snd_steadyP
    | split
    | lift_lets -underBinder
    | with_reducible refine OptSteadyP.of ?_ ‹_ = some (_, _)›

theorem execSeqFork_steady {og : State} {m : Fin 8} {s : State} (hs : Steady og s) : OutSteady og (execSeqFork m s) := by
  unfold execSeqFork
  repeat' first
    | with_reducible assumption
    | (intro z; refine (fun hz hy => ?_ : Steady og z.1 → OptSteady og z.2 → _) ?_ ?_; rotate_left; subst z; rotate_left; subst z; rotate_left; clear_value z)
    | intro _
    | with_reducible apply OptSteady.bindv
    | with_reducible apply withReclaim_steady
    | with_reducible apply startFork_steady
    | with_reducible apply refuse_steady
    | with_reducible apply runCmd_steady
    | with_reducible apply setWorking_steady
    | with_reducible apply refusing_steady
    | with_reducible apply withReclaim_snd_steady
    | split
    | lift_lets -underBinder
    | with_reducible refine OptSteady.keep ?_ _ ‹_ = some _›

theorem execForkPublished_steady {og : State} {h : BitVec 17} {s : State} (hs : Steady og s) : OutSteady og (execForkPublished h s) := by
  unfold execForkPublished
  repeat' first
    | with_reducible assumption
    | with_reducible apply OutSteady.next
    | with_reducible apply endFork_steady
    | with_reducible apply finish_steady
    | split

theorem execSeqTruncate_steady {og : State} {m : Fin 8} {s : State} (hs : Steady og s) : OutSteady og (execSeqTruncate m s) := by
  unfold execSeqTruncate
  repeat' first
    | with_reducible assumption
    | (intro z; refine (fun hz hy => ?_ : Steady og z.1 → OptSteady og z.2 → _) ?_ ?_; rotate_left; subst z; rotate_left; subst z; rotate_left; clear_value z)
    | intro _
    | with_reducible apply withReclaim_steady
    | with_reducible apply truncSeq_steady
    | with_reducible apply finish_steady
    | with_reducible apply refuse_steady
    | with_reducible apply runCmd_steady
    | with_reducible apply refusing_steady
    | with_reducible apply withReclaim_snd_steady
    | split
    | lift_lets -underBinder
    | with_reducible refine OptSteady.keep ?_ _ ‹_ = some _›

theorem execSeqFree_steady {og : State} {m : Fin 8} {s : State} (hs : Steady og s) : OutSteady og (execSeqFree m s) := by
  unfold execSeqFree
  repeat' first
    | with_reducible assumption
    | intro _
    | with_reducible apply freeSequence_steady
    | with_reducible apply finish_steady
    | with_reducible apply runCmd_steady
    | with_reducible apply refusing_steady

theorem execRingForm_steady {og : State} {m : Fin 8} {s : State} (hs : Steady og s) : OutSteady og (execRingForm m s) := by
  unfold execRingForm
  repeat' first
    | with_reducible assumption
    | intro _
    | with_reducible apply State.setRing_steady
    | with_reducible apply finish_steady
    | with_reducible apply runCmd_steady
    | with_reducible apply refusing_steady

theorem execRingDissolve_steady {og : State} {m : Fin 8} {s : State} (hs : Steady og s) : OutSteady og (execRingDissolve m s) := by
  unfold execRingDissolve
  repeat' first
    | with_reducible assumption
    | (intro z; clear_value z)
    | intro _
    | with_reducible apply State.setRing_steady
    | with_reducible apply finish_steady
    | with_reducible apply refuse_steady
    | with_reducible apply runCmd_steady
    | split
    | lift_lets -underBinder

theorem execRingBind_steady {og : State} {m : Fin 8} {s : State} (hs : Steady og s) : OutSteady og (execRingBind m s) := by
  unfold execRingBind
  repeat' first
    | with_reducible assumption
    | (intro z; refine (fun hz hy => ?_ : Steady og z.1 → OptSteadyP og z.2 → _) ?_ ?_; rotate_left; subst z; rotate_left; subst z; rotate_left; clear_value z)
    | (intro z; clear_value z)
    | intro _
    | with_reducible exact OptSteadyP.none'
    | with_reducible apply OptSteadyP.mapS
    | with_reducible apply withReclaim_steady
    | with_reducible apply makeBinding_steady
    | with_reducible apply finish_steady
    | with_reducible apply refuse_steady
    | with_reducible apply runCmd_steady
    | with_reducible apply refusing_steady
    | with_reducible apply withReclaim_snd_steadyP
    | split
    | lift_lets -underBinder
    | with_reducible refine OptSteadyP.of ?_ ‹_ = some (_, _)›

theorem execRingUnbind_steady {og : State} {m : Fin 8} {s : State} (hs : Steady og s) : OutSteady og (execRingUnbind m s) := by
  unfold execRingUnbind
  repeat' first
    | with_reducible assumption
    | (intro z; clear_value z)
    | intro _
    | with_reducible apply unbind_steady
    | with_reducible apply finish_steady
    | with_reducible apply refuse_steady
    | with_reducible apply runCmd_steady
    | split
    | lift_lets -underBinder

theorem execGroupSet_steady {og : State} {m : Fin 8} {s : State} (hs : Steady og s) : OutSteady og (execGroupSet m s) := by
  unfold execGroupSet
  repeat' first
    | with_reducible assumption
    | intro _
    | with_reducible apply State.bump_steady
    | with_reducible apply State.setGroup_steady
    | with_reducible apply finish_steady
    | with_reducible apply runCmd_steady
    | with_reducible apply refusing_steady

theorem execGroupClear_steady {og : State} {m : Fin 8} {s : State} (hs : Steady og s) : OutSteady og (execGroupClear m s) := by
  unfold execGroupClear
  repeat' first
    | with_reducible assumption
    | intro _
    | with_reducible apply State.setGroup_steady
    | with_reducible apply finish_steady
    | with_reducible apply runCmd_steady
    | with_reducible apply refusing_steady

theorem placeHint_steady {og : State} {m : Fin 8} {mine : Taken → Bool} {s : State} {rows : Taken → List (Bool × Nat)} {f : Taken → State} (hs : Steady og s) (hf : ∀ (a0 : Taken), Steady og (f a0)) : OutSteady og (placeHint m mine s rows f) := by
  unfold placeHint
  repeat' first
    | with_reducible assumption
    | intro _
    | with_reducible apply finish_steady
    | with_reducible apply runCmd_steady
    | with_reducible apply refusing_steady
    | with_reducible apply hf

theorem hintAll_steady {og : State} {s : State} {k : Taken} {f : Grain → Grain} (hs : Steady og s) : Steady og (hintAll s k f) := by
  unfold hintAll
  repeat' first
    | with_reducible assumption
    | intro _
    | with_reducible apply State.setGrain_steady
    | with_reducible apply State.forAll_steady

theorem execPreferNear_steady {og : State} {m : Fin 8} {s : State} (hs : Steady og s) : OutSteady og (execPreferNear m s) := by
  unfold execPreferNear
  repeat' first
    | with_reducible assumption
    | (intro z; clear_value z)
    | intro _
    | with_reducible apply State.setGrain_steady
    | with_reducible apply State.forAll_steady
    | with_reducible apply markPending_steady
    | with_reducible apply placeHint_steady
    | with_reducible apply hintAll_steady
    | split
    | lift_lets -underBinder
    | with_reducible apply foldl_steady

theorem execPreferFar_steady {og : State} {m : Fin 8} {s : State} (hs : Steady og s) : OutSteady og (execPreferFar m s) := by
  unfold execPreferFar
  repeat' first
    | with_reducible assumption
    | intro _
    | with_reducible apply placeHint_steady
    | with_reducible apply hintAll_steady

theorem execNoPreference_steady {og : State} {m : Fin 8} {s : State} (hs : Steady og s) : OutSteady og (execNoPreference m s) := by
  unfold execNoPreference
  repeat' first
    | with_reducible assumption
    | intro _
    | with_reducible apply placeHint_steady
    | with_reducible apply hintAll_steady

theorem pinGrain_steady {og : State} {s : State} {d : Nat} {g : Nat} (hs : Steady og s) : Steady og (pinGrain s d g) := by
  unfold pinGrain
  repeat' first
    | with_reducible assumption
    | with_reducible apply State.setGrain_steady
    | with_reducible apply requestPromotion_steady

theorem execPin_steady {og : State} {m : Fin 8} {s : State} (hs : Steady og s) : OutSteady og (execPin m s) := by
  unfold execPin
  repeat' first
    | with_reducible assumption
    | intro _
    | with_reducible apply State.forAll_steady
    | with_reducible apply placeHint_steady
    | with_reducible apply pinGrain_steady

theorem execUnpin_steady {og : State} {m : Fin 8} {s : State} (hs : Steady og s) : OutSteady og (execUnpin m s) := by
  unfold execUnpin
  repeat' first
    | with_reducible assumption
    | intro _
    | with_reducible apply placeHint_steady
    | with_reducible apply hintAll_steady

theorem execMirror_steady {og : State} {m : Fin 8} {s : State} (hs : Steady og s) : OutSteady og (execMirror m s) := by
  unfold execMirror
  repeat' first
    | with_reducible assumption
    | intro _
    | with_reducible apply State.forAll_steady
    | with_reducible apply giveMirror_steady
    | with_reducible apply placeHint_steady
    | with_reducible apply hintAll_steady
    | split

theorem unmirrorGrain_steady {og : State} {s : State} {g : Nat} (hs : Steady og s) : Steady og (unmirrorGrain s g) := by
  unfold unmirrorGrain
  repeat' first
    | with_reducible assumption
    | with_reducible apply State.setGrain_steady
    | with_reducible apply freeFar_steady
    | split

theorem execUnmirror_steady {og : State} {m : Fin 8} {s : State} (hs : Steady og s) : OutSteady og (execUnmirror m s) := by
  unfold execUnmirror
  repeat' first
    | with_reducible assumption
    | intro _
    | with_reducible apply State.forAll_steady
    | with_reducible apply placeHint_steady
    | with_reducible apply unmirrorGrain_steady

theorem execSource_steady {og : State} {m : Fin 8} {s : State} (hs : Steady og s) : OutSteady og (execSource m s) := by
  unfold execSource
  repeat' first
    | with_reducible assumption
    | intro _
    | with_reducible apply State.setGrain_steady
    | with_reducible apply State.forAll_steady
    | with_reducible apply placeHint_steady

theorem execRelease_steady {og : State} {m : Fin 8} {s : State} (hs : Steady og s) : OutSteady og (execRelease m s) := by
  unfold execRelease
  repeat' first
    | with_reducible assumption
    | (intro z; clear_value z)
    | intro _
    | with_reducible apply OutSteady.next
    | with_reducible apply State.forAll_steady
    | with_reducible apply releaseGrain_steady
    | with_reducible apply serveHeld_steady
    | with_reducible apply placeHint_steady
    | with_reducible apply foldl_steady
    | with_reducible apply foldl_fst_steady
    | split
    | lift_lets -underBinder
    | simp -zeta only [Steady.mk]
    | with_reducible refine Steady.fst ?_ ‹_ = (_, _)›
    | with_reducible refine OptSteadyP.of ?_ ‹_ = some (_, _)›

theorem execHorizon_steady {og : State} {m : Fin 8} {s : State} (hs : Steady og s) : OutSteady og (execHorizon m s) := by
  unfold execHorizon
  repeat' first
    | with_reducible assumption
    | (intro z; clear_value z)
    | intro _
    | with_reducible apply finish_steady
    | with_reducible apply runCmd_steady
    | with_reducible apply refusing_steady
    | lift_lets -underBinder
    | simp -zeta only [Steady.mk]

theorem syncSignal_steady {og : State} {m : Fin 8} {mine : Taken → Bool} {s : State} {kinds : Fin 4 → Bool} {first : Taken → Bool} {rows : Taken → SyncObj → List (Bool × Nat)} {body : SyncObj → SyncObj → SyncObj} {f : Taken → Nat → State} {go : State → State} (hs : Steady og s) (hf : ∀ (a0 : Taken) (a1 : Nat), Steady og (f a0 a1)) (hg : ∀ z, Steady og z → Steady og (go z)) : OutSteady og (syncSignal m mine s kinds first rows body f go) := by
  unfold syncSignal
  repeat' first
    | with_reducible assumption
    | intro _
    | with_reducible apply finish_steady
    | with_reducible apply runCmd_steady
    | with_reducible apply refusing_steady
    | with_reducible apply hg
    | with_reducible apply hf

theorem execSyncSignalAdd_steady {og : State} {m : Fin 8} {s : State} (hs : Steady og s) : OutSteady og (execSyncSignalAdd m s) := by
  unfold execSyncSignalAdd
  repeat' first
    | with_reducible assumption
    | intro _
    | with_reducible apply changeCounter_steady
    | with_reducible apply settleEngines_steady
    | with_reducible apply syncSignal_steady

theorem execSyncSignalSet_steady {og : State} {m : Fin 8} {s : State} (hs : Steady og s) : OutSteady og (execSyncSignalSet m s) := by
  unfold execSyncSignalSet
  repeat' first
    | with_reducible assumption
    | intro _
    | with_reducible apply changeCounter_steady
    | with_reducible apply settleEngines_steady
    | with_reducible apply syncSignal_steady

theorem execSyncSignalPut_steady {og : State} {m : Fin 8} {s : State} (hs : Steady og s) : OutSteady og (execSyncSignalPut m s) := by
  unfold execSyncSignalPut
  repeat' first
    | with_reducible assumption
    | intro _
    | with_reducible apply State.setObj_steady
    | with_reducible apply serve_steady
    | with_reducible apply syncSignal_steady

theorem execSyncSignalTake_steady {og : State} {m : Fin 8} {s : State} (hs : Steady og s) : OutSteady og (execSyncSignalTake m s) := by
  unfold execSyncSignalTake
  repeat' first
    | with_reducible assumption
    | intro _
    | with_reducible apply State.setObj_steady
    | with_reducible apply serve_steady
    | with_reducible apply syncSignal_steady

theorem execSyncSignalQuery_steady {og : State} {m : Fin 8} {s : State} (hs : Steady og s) : OutSteady og (execSyncSignalQuery m s) := by
  unfold execSyncSignalQuery
  repeat' first
    | with_reducible assumption
    | (intro z; clear_value z)
    | intro _
    | with_reducible apply OutSteady.next
    | with_reducible apply finish_steady
    | with_reducible apply runCmd_steady
    | with_reducible apply refusing_steady
    | with_reducible apply foldl_steady
    | with_reducible apply foldl_fst_steady
    | split
    | lift_lets -underBinder
    | simp -zeta only [Steady.mk]
    | with_reducible refine Steady.fst ?_ ‹_ = (_, _)›
    | with_reducible refine OptSteadyP.of ?_ ‹_ = some (_, _)›

theorem execNotify_steady {og : State} {m : Fin 8} {s : State} (hs : Steady og s) : OutSteady og (execNotify m s) := by
  unfold execNotify
  repeat' first
    | with_reducible assumption
    | (intro z; clear_value z)
    | intro _
    | with_reducible apply fireNotifs_steady
    | with_reducible apply syncSignal_steady
    | lift_lets -underBinder
    | simp -zeta only [Steady.mk]

theorem execWakeToleranceSet_steady {og : State} {m : Fin 8} {s : State} (hs : Steady og s) : OutSteady og (execWakeToleranceSet m s) := by
  unfold execWakeToleranceSet
  repeat' first
    | with_reducible assumption
    | (intro z; clear_value z)
    | intro _
    | with_reducible apply wakeModule_steady
    | with_reducible apply finish_steady
    | with_reducible apply runCmd_steady
    | split
    | lift_lets -underBinder
    | simp -zeta only [Steady.mk]

theorem sendNotices_steady {og : State} {s : State} {port : Nat} {down : Bool} (hs : Steady og s) : Steady og (sendNotices s port down) := by
  unfold sendNotices
  repeat' first
    | with_reducible assumption
    | intro _
    | with_reducible apply State.forAll_steady
    | with_reducible apply sendControl_steady

theorem maintBegin_steady {og : State} {s : State} {a : Nat} {t : Nat} (hs : Steady og s) : Steady og (maintBegin s a t) := by
  unfold maintBegin
  repeat' first
    | with_reducible assumption
    | (intro z; refine (fun hz => ?_ : Steady og z → _) ?_; rotate_left; subst z; rotate_left; clear_value z)
    | (intro z; clear_value z)
    | with_reducible apply State.setPort_steady
    | with_reducible apply planeLost_steady
    | with_reducible apply State.modTime_steady
    | with_reducible apply setTimeSt_steady
    | with_reducible apply setRecal_steady
    | with_reducible apply sendNotices_steady
    | split
    | lift_lets -underBinder
    | simp -zeta only [Steady.mk]

theorem maintStart_steady {og : State} {m : Fin 8} {mine : Taken → Bool} {s : State} (hs : Steady og s) : OutSteady og (maintStart m mine s) := by
  unfold maintStart
  repeat' first
    | with_reducible assumption
    | intro _
    | with_reducible apply finish_steady
    | with_reducible apply startMaint_steady
    | with_reducible apply runCmd_steady
    | with_reducible apply refusing_steady
    | with_reducible apply maintBegin_steady
    | split

theorem execPatrolScrub_steady {og : State} {m : Fin 8} {s : State} (hs : Steady og s) : OutSteady og (execPatrolScrub m s) := by
  unfold execPatrolScrub
  repeat' first
    | with_reducible assumption
    | with_reducible apply maintStart_steady

theorem execMemoryRetraining_steady {og : State} {m : Fin 8} {s : State} (hs : Steady og s) : OutSteady og (execMemoryRetraining m s) := by
  unfold execMemoryRetraining
  repeat' first
    | with_reducible assumption
    | with_reducible apply maintStart_steady

theorem execLinkRetraining_steady {og : State} {m : Fin 8} {s : State} (hs : Steady og s) : OutSteady og (execLinkRetraining m s) := by
  unfold execLinkRetraining
  repeat' first
    | with_reducible assumption
    | with_reducible apply maintStart_steady

theorem execTimeResynchronisation_steady {og : State} {m : Fin 8} {s : State} (hs : Steady og s) : OutSteady og (execTimeResynchronisation m s) := by
  unfold execTimeResynchronisation
  repeat' first
    | with_reducible assumption
    | with_reducible apply maintStart_steady

theorem execThermalRecalibration_steady {og : State} {m : Fin 8} {s : State} (hs : Steady og s) : OutSteady og (execThermalRecalibration m s) := by
  unfold execThermalRecalibration
  repeat' first
    | with_reducible assumption
    | with_reducible apply maintStart_steady

theorem portRetrained_steady {og : State} {s : State} {p : Nat} {w : Fin 4} (hs : Steady og s) : Steady og (portRetrained s p w) := by
  unfold portRetrained
  repeat' first
    | with_reducible assumption
    | (intro z; refine (fun hz => ?_ : Steady og z → _) ?_; rotate_left; subst z; rotate_left; clear_value z)
    | (intro z; clear_value z)
    | with_reducible apply State.bump_steady
    | with_reducible apply emit_steady
    | with_reducible apply count_steady
    | with_reducible apply State.setPort_steady
    | with_reducible apply flush_steady
    | with_reducible apply portGoesDown_steady
    | with_reducible apply sendNotices_steady
    | split
    | lift_lets -underBinder

theorem cxlRetrained_steady {og : State} {s : State} {p : Fin 2} {w : Fin 4} (hs : Steady og s) : Steady og (cxlRetrained s p w) := by
  unfold cxlRetrained
  repeat' first
    | with_reducible assumption
    | (intro z; refine (fun hz => ?_ : Steady og z → _) ?_; rotate_left; subst z; rotate_left; clear_value z)
    | (intro z; refine (fun hz => ?_ : Steady og z.1 → _) ?_; rotate_left; subst z; rotate_left; clear_value z)
    | (intro z; clear_value z)
    | intro _
    | with_reducible apply State.bump_steady
    | with_reducible apply emit_steady
    | with_reducible apply State.setCxl_steady
    | with_reducible apply portOut_steady
    | with_reducible apply serveHeld_steady
    | with_reducible apply foldl_steady
    | with_reducible apply foldl_fst_steady
    | split
    | lift_lets -underBinder
    | simp -zeta only [Steady.mk]
    | with_reducible refine Steady.fst ?_ ‹_ = (_, _)›
    | with_reducible refine OptSteadyP.of ?_ ‹_ = some (_, _)›

theorem moveWeak_steady {og : State} {s : State} {g : Nat} (hs : Steady og s) : Steady og (moveWeak s g) := by
  unfold moveWeak
  repeat' first
    | with_reducible assumption
    | (intro z; refine (fun hz => ?_ : Steady og z.1 → _) ?_; rotate_left; subst z; rotate_left; clear_value z)
    | (intro z; clear_value z)
    | with_reducible apply State.setGrain_steady
    | with_reducible apply moveGrain_steady
    | split
    | lift_lets -underBinder

theorem maintFinish_steady {og : State} {s : State} {x : Maint} {r : MaintResult} (hs : Steady og s) : Steady og (maintFinish s x r).1 := by
  unfold maintFinish
  repeat' first
    | with_reducible assumption
    | (intro z; clear_value z)
    | intro _
    | with_reducible apply State.forAll_steady
    | with_reducible apply State.bump_steady
    | with_reducible apply reportCorrections_steady
    | with_reducible apply setRecal_steady
    | with_reducible apply portRetrained_steady
    | with_reducible apply cxlRetrained_steady
    | with_reducible apply moveWeak_steady
    | with_reducible apply foldl_steady
    | with_reducible apply foldl_fst_steady
    | split
    | lift_lets -underBinder
    | simp -zeta only [Steady.mk]
    | with_reducible refine Steady.fst ?_ ‹_ = (_, _)›
    | with_reducible refine OptSteadyP.of ?_ ‹_ = some (_, _)›

theorem endMaint_steady {og : State} {s : State} {x : Maint} {done : Bool} (hs : Steady og s) : Steady og (endMaint s x done) := by
  unfold endMaint
  repeat' first
    | with_reducible assumption
    | (intro z; clear_value z)
    | with_reducible apply emit_steady
    | split
    | lift_lets -underBinder
    | simp -zeta only [Steady.mk]

theorem execMaintInstanceEnd_steady {og : State} {inst : BitVec 32} {r : MaintResult} {s : State} (hs : Steady og s) : OutSteady og (execMaintInstanceEnd inst r s) := by
  unfold execMaintInstanceEnd
  repeat' first
    | with_reducible assumption
    | with_reducible apply OutSteady.next
    | with_reducible apply maintFinish_steady
    | with_reducible apply endMaint_steady
    | split

theorem maintProgress_steady {og : State} {s : State} {x : Maint} (hs : Steady og s) : Steady og (maintProgress s x).1 := by
  unfold maintProgress
  repeat' first
    | with_reducible assumption
    | with_reducible apply State.bump_steady
    | split

theorem maintEntries_steady {og : State} {s : State} {l : List Maint} (hs : Steady og s) : Steady og (maintEntries s l).1 := by
  unfold maintEntries
  repeat' first
    | with_reducible assumption
    | intro _
    | with_reducible apply maintProgress_steady
    | with_reducible apply foldl_fst_steady

theorem execMaintStatus_steady {og : State} {m : Fin 8} {s : State} (hs : Steady og s) : OutSteady og (execMaintStatus m s) := by
  unfold execMaintStatus
  repeat' first
    | with_reducible assumption
    | (intro z; refine (fun hz => ?_ : Steady og z.1 → _) ?_; rotate_left; subst z; rotate_left; clear_value z)
    | (intro z; clear_value z)
    | intro _
    | with_reducible apply refuse_steady
    | with_reducible apply finishList_steady
    | with_reducible apply runCmd_steady
    | with_reducible apply maintEntries_steady
    | split
    | lift_lets -underBinder

theorem clearCounters_steady {og : State} {s : State} {first : Nat} {n : Nat} (hs : Steady og s) : Steady og (clearCounters s first n) := by
  unfold clearCounters
  repeat' first
    | with_reducible assumption
    | simp -zeta only [Steady.mk]

theorem execCounterRead_steady {og : State} {m : Fin 8} {s : State} (hs : Steady og s) : OutSteady og (execCounterRead m s) := by
  unfold execCounterRead
  repeat' first
    | with_reducible assumption
    | (intro z; clear_value z)
    | intro _
    | with_reducible apply finish_steady
    | with_reducible apply refuse_steady
    | with_reducible apply runCmd_steady
    | with_reducible apply clearCounters_steady
    | split
    | lift_lets -underBinder

end Sys2Proof.Machine
end

