-- ==== Sys2Proof/Laws/SteadyModule.lean ====
section
/-! SUPPORT. What the operations of Machine/Load, Machine/Record, Machine/Scrub, Machine/Prot, Machine/Debug, Machine/Firmware, Machine/Reset, Machine/Idle, Machine/Spdm keep: the queue, the address pins, canonical memories. -/

namespace Sys2Proof.Machine

/-! Machine/Load. -/

theorem readImage_steady {og : State} {d f : Nat} : ∀ {s a n}, Steady og s → Steady og (readImage d f s a n).1 := by
  induction f with
  | zero => intro s a n h; exact h
  | succ f ih =>
    intro s a n h
    unfold readImage
    split
    · exact h
    · lift_lets -underBinder
      intro k r
      have hm : Steady og r.1 := devMeet_steady h
      clear_value r k
      split
      · have hr := ih (a := a + k) (n := n - k) hm
        split
        · rename_i e; exact Steady.fst hr e
        · exact hr
      · exact hm
      · exact h

theorem refuseLoad_steady {og : State} {s : State} {m : Fin 8} {status : Nat} {code : Nat} {off : Nat} (hs : Steady og s) : Steady og (refuseLoad s m status code off) := by
  unfold refuseLoad
  repeat' first
    | with_reducible assumption
    | with_reducible apply finish_steady

theorem planGrain_steady {og : State} {s : State} {img : Nat} {e : Nat} {i : Nat} {g : Nat} (hs : Steady og s) : Steady og (planGrain s img e i g) := by
  unfold planGrain
  repeat' first
    | with_reducible assumption
    | (intro z; refine (fun hz => ?_ : Steady og z → _) ?_; rotate_left; subst z; rotate_left; clear_value z)
    | (intro z; refine (fun hz => ?_ : Steady og z.1 → _) ?_; rotate_left; subst z; rotate_left; clear_value z)
    | (intro z; clear_value z)
    | with_reducible apply State.setGrain_steady
    | with_reducible apply giveMirror_steady
    | split
    | lift_lets -underBinder

theorem applyPlan_steady {og : State} {s : State} {img : Nat} (hs : Steady og s) : Steady og (applyPlan s img) := by
  unfold applyPlan
  repeat' first
    | with_reducible assumption
    | intro _
    | with_reducible apply State.forAll_steady
    | with_reducible apply pinGrain_steady
    | with_reducible apply planGrain_steady

theorem loadImage_steady {og : State} {s : State} {m : Fin 8} {n : Fin 16} {d : BitVec 10} {l : List Byte} (hs : Steady og s) : Steady og (loadImage s m n d l) := by
  unfold loadImage
  repeat' first
    | with_reducible assumption
    | with_reducible apply State.setSlot_steady
    | with_reducible apply finishList_steady
    | with_reducible apply applyPlan_steady

theorem execSchedLoad_steady {og : State} {m : Fin 8} {s : State} (hs : Steady og s) : OutSteady og (execSchedLoad m s) := by
  unfold execSchedLoad
  repeat' first
    | with_reducible assumption
    | intro _
    | with_reducible apply runCmd_steady
    | with_reducible apply refusing_steady
    | with_reducible apply readImage_steady
    | with_reducible apply refuseLoad_steady
    | with_reducible apply loadImage_steady
    | split
    | lift_lets -underBinder
    | with_reducible refine Steady.fst ?_ ‹_ = (_, _)›

theorem unloadImage_steady {og : State} {s : State} {n : Fin 16} (hs : Steady og s) : Steady og (unloadImage s n) := by
  unfold unloadImage
  repeat' first
    | with_reducible assumption
    | (intro z; clear_value z)
    | intro _
    | with_reducible apply State.setSlot_steady
    | with_reducible apply State.setGrain_steady
    | with_reducible apply State.forAll_steady
    | lift_lets -underBinder
    | simp -zeta only [Steady.mk]

theorem execSchedUnload_steady {og : State} {m : Fin 8} {s : State} (hs : Steady og s) : OutSteady og (execSchedUnload m s) := by
  unfold execSchedUnload
  repeat' first
    | with_reducible assumption
    | intro _
    | with_reducible apply finish_steady
    | with_reducible apply refuse_steady
    | with_reducible apply runCmd_steady
    | with_reducible apply unloadImage_steady
    | split

/-! Machine/Record. -/

theorem State.modProt_steady {og : State} {s : State} {f : Prot → Prot} (hs : Steady og s) : Steady og (State.modProt s f) := by
  unfold State.modProt
  repeat' first
    | with_reducible assumption
    | simp -zeta only [Steady.mk]

theorem extend_steady {og : State} {s : State} {i : Nat} {d : List Byte} (hs : Steady og s) : Steady og (extend s i d) := by
  unfold extend
  repeat' first
    | with_reducible assumption
    | with_reducible apply State.modProt_steady

theorem logEntry_steady {og : State} {s : State} {kind : Nat} {number : Word32} {digest : BitVec 384} (hs : Steady og s) : Steady og (logEntry s kind number digest) := by
  unfold logEntry
  repeat' first
    | with_reducible assumption
    | with_reducible apply State.modProt_steady
    | with_reducible apply extend_steady

theorem bootMeasure_steady {og : State} {s : State} {booted : Bool} (hs : Steady og s) : Steady og (bootMeasure s booted) := by
  unfold bootMeasure
  repeat' first
    | with_reducible assumption
    | with_reducible apply State.modProt_steady
    | with_reducible apply extend_steady
    | split

theorem protCheck_steady {og : State} {s : State} {k : Taken} {carried : Nat → Bool} (hs : Steady og s) : Steady og (protCheck s k carried).1 := by
  unfold protCheck
  repeat' first
    | with_reducible assumption
    | (intro z; refine (fun hz => ?_ : Steady og z → _) ?_; rotate_left; subst z; rotate_left; clear_value z)
    | (intro z; clear_value z)
    | with_reducible apply State.modProt_steady
    | split
    | lift_lets -underBinder

theorem runRecord_steady {og : State} {s : State} {m : Fin 8} {op : Nat} {mine : Taken → Bool} {carried : Nat → Bool} {rows : State → ProtRecord → List (Bool × Nat)} {f : State → Taken → ProtRecord → State} (hs : Steady og s) (hf : ∀ (a0 : State) (a1 : Taken) (a2 : ProtRecord), Steady og a0 → Steady og (f a0 a1 a2)) : OutSteady og (runRecord s m op mine carried rows f) := by
  unfold runRecord
  repeat' first
    | with_reducible assumption
    | intro _
    | with_reducible apply finish_steady
    | with_reducible apply runCmd_steady
    | with_reducible apply refusing_steady
    | with_reducible apply logEntry_steady
    | with_reducible apply protCheck_steady
    | with_reducible apply hf
    | split
    | lift_lets -underBinder
    | with_reducible refine Steady.fst ?_ ‹_ = (_, _)›

/-! Machine/Scrub. -/

theorem vacateDomain_steady {og : State} {s : State} {d : BitVec 10} (hs : Steady og s) : Steady og (vacateDomain s d) := by
  unfold vacateDomain
  repeat' first
    | with_reducible assumption
    | intro _
    | with_reducible apply State.forAll_steady
    | with_reducible apply dropTun_steady
    | with_reducible apply releaseGrain_steady
    | with_reducible apply reclaim_steady
    | with_reducible apply freeSequence_steady
    | with_reducible apply unloadImage_steady

theorem signBytes_steady {og : State} {s : State} {l : List Byte} (hs : Steady og s) : Steady og (signBytes s l).1 := by
  unfold signBytes
  repeat' first
    | with_reducible assumption
    | with_reducible apply State.bump_steady

theorem certify_steady {og : State} {s : State} {x : Scrub} {c : ScrubCounts} (hs : Steady og s) : Steady og (certify s x c).1 := by
  unfold certify
  repeat' first
    | with_reducible assumption
    | with_reducible apply emit_steady
    | with_reducible apply logEntry_steady
    | with_reducible apply signBytes_steady

theorem startScrub_steady {og : State} {s : State} {m : Fin 8} {kind : Nat} {domain : BitVec 10} {number : Word32} {freed : Nat} (hs : Steady og s) : Steady og (startScrub s m kind domain number freed) := by
  unfold startScrub
  repeat' first
    | with_reducible assumption
    | with_reducible apply startMaint_steady
    | with_reducible apply State.modProt_steady

theorem execDomainClose_steady {og : State} {m : Fin 8} {s : State} (hs : Steady og s) : OutSteady og (execDomainClose m s) := by
  unfold execDomainClose
  repeat' first
    | with_reducible assumption
    | (intro z; clear_value z)
    | intro _
    | with_reducible apply OutSteady.next
    | with_reducible apply serveHeld_steady
    | with_reducible apply finish_steady
    | with_reducible apply runCmd_steady
    | with_reducible apply setWorking_steady
    | with_reducible apply refusing_steady
    | with_reducible apply vacateDomain_steady
    | with_reducible apply startScrub_steady
    | with_reducible apply foldl_steady
    | with_reducible apply foldl_fst_steady
    | split
    | lift_lets -underBinder
    | simp -zeta only [Steady.mk]
    | with_reducible refine Steady.fst ?_ ‹_ = (_, _)›
    | with_reducible refine OptSteadyP.of ?_ ‹_ = some (_, _)›

theorem dissolveSlice_steady {og : State} {s : State} (hs : Steady og s) : Steady og (dissolveSlice s) := by
  unfold dissolveSlice
  repeat' first
    | with_reducible assumption
    | (intro z; clear_value z)
    | intro _
    | with_reducible apply State.forAll_steady
    | with_reducible apply serveHeld_steady
    | with_reducible apply stopLaunch_steady
    | with_reducible apply unloadImage_steady
    | with_reducible apply vacateDomain_steady
    | with_reducible apply foldl_steady
    | with_reducible apply foldl_fst_steady
    | split
    | lift_lets -underBinder
    | simp -zeta only [Steady.mk]
    | with_reducible refine Steady.fst ?_ ‹_ = (_, _)›
    | with_reducible refine OptSteadyP.of ?_ ‹_ = some (_, _)›

theorem execSliceBindUnbind_steady {og : State} {m : Fin 8} {s : State} (hs : Steady og s) : OutSteady og (execSliceBindUnbind m s) := by
  unfold execSliceBindUnbind
  repeat' first
    | with_reducible assumption
    | intro _
    | with_reducible apply emit_steady
    | with_reducible apply setWorking_steady
    | with_reducible apply runRecord_steady
    | with_reducible apply startScrub_steady
    | with_reducible apply dissolveSlice_steady

theorem execService_steady {og : State} {m : Fin 8} {s : State} (hs : Steady og s) : OutSteady og (execService m s) := by
  unfold execService
  repeat' first
    | with_reducible assumption
    | intro _
    | with_reducible apply emit_steady
    | with_reducible apply finish_steady
    | with_reducible apply runRecord_steady
    | with_reducible apply startScrub_steady

theorem scrubDomain_steady {og s : State} {d : BitVec 10} (hs : Steady og s) : Steady og (scrubDomain s d) :=
  hs.set rfl rfl rfl (tabWf_filter _) id id

theorem scrubAll_steady {og : State} {s : State} (hs : Steady og s) : Steady og (scrubAll s) := by
  unfold scrubAll
  dsimp only
  have h : Steady og (s.forAll s.fabric.heldIn (fun s h => returnCredit s h.size.1 h.size.2)) :=
    State.forAll_steady (fun _ _ k => returnCredit_steady k) hs
  exact h.set rfl rfl rfl (fun _ => rfl) (fun _ => rfl) id

theorem leaveSlice_steady {og : State} {s : State} (hs : Steady og s) : Steady og (leaveSlice s) := by
  unfold leaveSlice
  repeat' first
    | with_reducible assumption
    | (intro z; clear_value z)
    | with_reducible apply State.modProt_steady
    | lift_lets -underBinder
    | simp -zeta only [Steady.mk]

theorem certResponse_steady {og : State} {s : State} {x : Scrub} {op : Nat} {first : Nat} {cert : List Byte} (hs : Steady og s) : Steady og (certResponse s x op first cert) := by
  unfold certResponse
  repeat' first
    | with_reducible assumption
    | with_reducible apply finish_steady
    | split

theorem endScrub_steady {og : State} {s : State} {x : Scrub} (hs : Steady og s) : Steady og (endScrub s x) := by
  unfold endScrub
  repeat' first
    | with_reducible assumption
    | (intro z; refine (fun hz => ?_ : Steady og z → _) ?_; rotate_left; subst z; rotate_left; clear_value z)
    | with_reducible apply endMaint_steady
    | with_reducible apply State.modProt_steady
    | split
    | lift_lets -underBinder

theorem execScrubComplete_steady {og : State} {s : State} (hs : Steady og s) : OutSteady og (execScrubComplete s) := by
  unfold execScrubComplete
  repeat' first
    | with_reducible assumption
    | (intro z; refine (fun hz => ?_ : Steady og z → _) ?_; rotate_left; subst z; rotate_left; clear_value z)
    | (intro z; refine (fun hz => ?_ : Steady og z.1 → _) ?_; rotate_left; subst z; rotate_left; clear_value z)
    | (intro z; clear_value z)
    | intro _
    | with_reducible apply OutSteady.next
    | with_reducible apply serveHost_steady
    | with_reducible apply serveHeld_steady
    | with_reducible apply State.modProt_steady
    | with_reducible apply vacateDomain_steady
    | with_reducible apply certify_steady
    | with_reducible apply scrubDomain_steady
    | with_reducible apply scrubAll_steady
    | with_reducible apply leaveSlice_steady
    | with_reducible apply certResponse_steady
    | with_reducible apply endScrub_steady
    | with_reducible apply foldl_steady
    | with_reducible apply foldl_fst_steady
    | split
    | lift_lets -underBinder
    | simp -zeta only [Steady.mk]
    | with_reducible refine Steady.fst ?_ ‹_ = (_, _)›
    | with_reducible refine OptSteadyP.of ?_ ‹_ = some (_, _)›

/-! Machine/Prot. -/

theorem dropOutsiders_steady {og : State} {s : State} (hs : Steady og s) : Steady og (dropOutsiders s) := by
  unfold dropOutsiders
  repeat' first
    | with_reducible assumption
    | (intro z; clear_value z)
    | intro _
    | with_reducible apply State.forAll_steady
    | with_reducible apply endXfer_steady
    | split
    | lift_lets -underBinder

theorem installRoute_steady {og : State} {s : State} {r : Route} (hs : Steady og s) : Steady og (installRoute s r) := by
  unfold installRoute
  repeat' first
    | with_reducible assumption
    | (intro z; clear_value z)
    | with_reducible apply flush_steady
    | with_reducible apply loseEmpty_steady
    | with_reducible apply timeEvent_steady
    | with_reducible apply dropOutsiders_steady
    | split
    | lift_lets -underBinder
    | simp -zeta only [Steady.mk]

theorem execSliceBind_steady {og : State} {m : Fin 8} {s : State} (hs : Steady og s) : OutSteady og (execSliceBind m s) := by
  unfold execSliceBind
  repeat' first
    | with_reducible assumption
    | (intro z; clear_value z)
    | intro _
    | with_reducible apply OutSteady.next
    | with_reducible apply emit_steady
    | with_reducible apply finish_steady
    | with_reducible apply refuse_steady
    | with_reducible apply runCmd_steady
    | with_reducible apply runRecord_steady
    | with_reducible apply installRoute_steady
    | split
    | lift_lets -underBinder
    | simp -zeta only [Steady.mk]

theorem applied_steady {og : State} {s : State} {m : Fin 8} {r : ProtRecord} (hs : Steady og s) : Steady og (applied s m r) := by
  unfold applied
  repeat' first
    | with_reducible assumption
    | with_reducible apply emit_steady
    | with_reducible apply finish_steady

theorem applyRecord_steady {og : State} {s : State} {m : Fin 8} {mine : Nat → Bool} {rows : State → ProtRecord → List (Bool × Nat)} {f : State → ProtRecord → State} (hs : Steady og s) (hf : ∀ (a0 : State) (a1 : ProtRecord), Steady og a0 → Steady og (f a0 a1)) : OutSteady og (applyRecord s m mine rows f) := by
  unfold applyRecord
  repeat' first
    | with_reducible assumption
    | intro _
    | with_reducible apply runRecord_steady
    | with_reducible apply applied_steady
    | with_reducible apply hf

theorem storeKeys_steady {og : State} {s : State} {o : Nat} {c : Nat} (hs : Steady og s) : Steady og (storeKeys s o c) := by
  unfold storeKeys
  repeat' first
    | with_reducible assumption
    | with_reducible apply State.modProt_steady
    | with_reducible apply extend_steady

theorem storePolicy_steady {og : State} {s : State} {t : Tab Word32} (hs : Steady og s) : Steady og (storePolicy s t) := by
  unfold storePolicy
  repeat' first
    | with_reducible assumption
    | with_reducible apply State.modProt_steady
    | with_reducible apply extend_steady

theorem execEnroll_steady {og : State} {m : Fin 8} {s : State} (hs : Steady og s) : OutSteady og (execEnroll m s) := by
  unfold execEnroll
  repeat' first
    | with_reducible assumption
    | intro _
    | with_reducible apply applyRecord_steady
    | with_reducible apply storeKeys_steady
    | with_reducible apply storePolicy_steady

theorem execRoutingUpdate_steady {og : State} {m : Fin 8} {s : State} (hs : Steady og s) : OutSteady og (execRoutingUpdate m s) := by
  unfold execRoutingUpdate
  repeat' first
    | with_reducible assumption
    | intro _
    | with_reducible apply installRoute_steady
    | with_reducible apply applyRecord_steady

theorem execDomainPolicy_steady {og : State} {m : Fin 8} {s : State} (hs : Steady og s) : OutSteady og (execDomainPolicy m s) := by
  unfold execDomainPolicy
  repeat' first
    | with_reducible assumption
    | intro _
    | with_reducible apply applyRecord_steady
    | with_reducible apply storePolicy_steady

theorem execFwPolicy_steady {og : State} {m : Fin 8} {s : State} (hs : Steady og s) : OutSteady og (execFwPolicy m s) := by
  unfold execFwPolicy
  repeat' first
    | with_reducible assumption
    | intro _
    | with_reducible apply State.modProt_steady
    | with_reducible apply extend_steady
    | with_reducible apply applyRecord_steady

theorem execKeyRotate_steady {og : State} {m : Fin 8} {s : State} (hs : Steady og s) : OutSteady og (execKeyRotate m s) := by
  unfold execKeyRotate
  repeat' first
    | with_reducible assumption
    | intro _
    | with_reducible apply applyRecord_steady
    | with_reducible apply storeKeys_steady

theorem execProtNonceGet_steady {og : State} {m : Fin 8} {s : State} (hs : Steady og s) : OutSteady og (execProtNonceGet m s) := by
  unfold execProtNonceGet
  repeat' first
    | with_reducible assumption
    | intro _
    | with_reducible apply State.bump_steady
    | with_reducible apply finish_steady
    | with_reducible apply runCmd_steady
    | with_reducible apply State.modProt_steady

theorem execNonceExpiry_steady {og : State} {s : State} (hs : Steady og s) : OutSteady og (execNonceExpiry s) := by
  unfold execNonceExpiry
  repeat' first
    | with_reducible assumption
    | with_reducible apply OutSteady.next
    | with_reducible apply State.modProt_steady

theorem execAttestGet_steady {og : State} {m : Fin 8} {s : State} (hs : Steady og s) : OutSteady og (execAttestGet m s) := by
  unfold execAttestGet
  repeat' first
    | with_reducible assumption
    | (intro z; refine (fun hz => ?_ : Steady og z.1 → _) ?_; rotate_left; subst z; rotate_left; clear_value z)
    | (intro z; clear_value z)
    | intro _
    | with_reducible apply finish_steady
    | with_reducible apply refuse_steady
    | with_reducible apply runCmd_steady
    | with_reducible apply signBytes_steady
    | split
    | lift_lets -underBinder

/-! Machine/Debug. -/

theorem runWord_steady {og : State} {s : State} {t : Fin 192} {c : Fin 4} {w : Nat} (hs : Steady og s) : OutSteady og (runWord s t c w) := by
  unfold runWord
  repeat' first
    | with_reducible assumption
    | intro _
    | with_reducible apply OutSteady.next
    | with_reducible apply issue_steady
    | with_reducible apply issueFault_steady
    | with_reducible apply execNop_steady
    | with_reducible apply execSli_steady
    | with_reducible apply execSalu_steady
    | with_reducible apply execScmp_steady
    | with_reducible apply execPlog_steady
    | with_reducible apply execAadd_steady
    | with_reducible apply execLds_steady
    | with_reducible apply execSts_steady
    | with_reducible apply execBr_steady
    | with_reducible apply execLoop_steady
    | with_reducible apply execBlkcnt_steady
    | with_reducible apply execMma_steady
    | with_reducible apply execVop_steady
    | with_reducible apply execSfn_steady
    | with_reducible apply execRowstat_steady
    | with_reducible apply execStr_steady
    | with_reducible apply execWaitc_steady
    | with_reducible apply execTake_steady
    | with_reducible apply execPut_steady
    | with_reducible apply execSigc_steady
    | with_reducible apply execFaa_steady
    | with_reducible apply execSqis_steady
    | with_reducible apply execSmt_steady
    | with_reducible apply execAeq_steady
    | with_reducible apply execSget_steady
    | with_reducible apply execEnd_steady
    | with_reducible apply execColl_steady
    | split

theorem setGrant_steady {og : State} {s : State} {g : DebugGrant} (hs : Steady og s) : Steady og (setGrant s g) := by
  unfold setGrant
  repeat' first
    | with_reducible assumption
    | with_reducible apply State.modProt_steady

theorem writeResult_steady {og : State} {s : State} {g : DebugGrant} {l : List Byte} (hs : Steady og s) : Steady og (writeResult s g l).1 := by
  unfold writeResult
  repeat' first
    | with_reducible assumption
    | with_reducible apply State.hostWrite_steady

theorem zeroTile_steady {og : State} {s : State} {t : Fin 192} (hs : Steady og s) : Steady og (zeroTile s t) := by
  unfold zeroTile
  repeat' first
    | with_reducible assumption
    | intro _
    | with_reducible apply State.setCtx_steady
    | with_reducible apply State.modTile_steady
    | with_reducible apply State.forAll_steady
    | lift_lets -underBinder
    | with_reducible refine Steady.sram ?_ (memWf_zero _ _)

theorem stepMany_steady {og : State} {n : Nat} : ∀ {s t code out}, Steady og s → Steady og (stepMany n s t code out).1 := by
  induction n with
  | zero => intro s t code out h; exact h
  | succ n ih =>
    intro s t code out h
    unfold stepMany
    split
    · exact h
    · exact ih (drainUnits_steady (nextOf_steady h (runWord_steady h)))

theorem execStepTileTake_steady {og : State} {n : BitVec 32} {s : State} (hs : Steady og s) : OutSteady og (execStepTileTake n s) := by
  unfold execStepTileTake
  repeat' first
    | with_reducible assumption
    | (intro z; refine (fun hz => ?_ : Steady og z → _) ?_; rotate_left; subst z; rotate_left; clear_value z)
    | (intro z; refine (fun hz => ?_ : Steady og z.1 → _) ?_; rotate_left; subst z; rotate_left; clear_value z)
    | (intro z; clear_value z)
    | with_reducible apply OutSteady.next
    | with_reducible apply State.setCtx_steady
    | with_reducible apply State.modTile_steady
    | with_reducible apply State.bump_steady
    | with_reducible apply State.setLevel_steady
    | with_reducible apply State.setWake_steady
    | with_reducible apply setGrant_steady
    | with_reducible apply writeResult_steady
    | with_reducible apply zeroTile_steady
    | with_reducible apply stepMany_steady
    | split
    | lift_lets -underBinder

theorem debugGrant_steady {og : State} {s : State} {m : Fin 8} {mine : Nat → Bool} (hs : Steady og s) : OutSteady og (debugGrant s m mine) := by
  unfold debugGrant
  repeat' first
    | with_reducible assumption
    | intro _
    | with_reducible apply emit_steady
    | with_reducible apply finish_steady
    | with_reducible apply State.modProt_steady
    | with_reducible apply runRecord_steady

theorem execStep_steady {og : State} {m : Fin 8} {s : State} (hs : Steady og s) : OutSteady og (execStep m s) := by
  unfold execStep
  repeat' first
    | with_reducible assumption
    | with_reducible apply debugGrant_steady

theorem execTrace_steady {og : State} {m : Fin 8} {s : State} (hs : Steady og s) : OutSteady og (execTrace m s) := by
  unfold execTrace
  repeat' first
    | with_reducible assumption
    | with_reducible apply debugGrant_steady

theorem execMemoryRead_steady {og : State} {m : Fin 8} {s : State} (hs : Steady og s) : OutSteady og (execMemoryRead m s) := by
  unfold execMemoryRead
  repeat' first
    | with_reducible assumption
    | with_reducible apply debugGrant_steady

theorem endGrant_steady {og : State} {s : State} {g : DebugGrant} {status : Nat} {written : Nat} (hs : Steady og s) : Steady og (endGrant s g status written) := by
  unfold endGrant
  repeat' first
    | with_reducible assumption
    | with_reducible apply emit_steady
    | with_reducible apply resched_steady
    | with_reducible apply State.modProt_steady
    | with_reducible apply zeroTile_steady
    | split

theorem execDebugWorkEnd_steady {og : State} {n : BitVec 32} {s : State} (hs : Steady og s) : OutSteady og (execDebugWorkEnd n s) := by
  unfold execDebugWorkEnd
  repeat' first
    | with_reducible assumption
    | with_reducible apply OutSteady.next
    | with_reducible apply State.bump_steady
    | with_reducible apply writeResult_steady
    | with_reducible apply endGrant_steady
    | split

theorem execGrantExpiry_steady {og : State} {n : BitVec 32} {s : State} (hs : Steady og s) : OutSteady og (execGrantExpiry n s) := by
  unfold execGrantExpiry
  repeat' first
    | with_reducible assumption
    | with_reducible apply OutSteady.next
    | with_reducible apply endGrant_steady
    | split

/-! Machine/Firmware. -/

theorem execFwStage_steady {og : State} {m : Fin 8} {s : State} (hs : Steady og s) : OutSteady og (execFwStage m s) := by
  unfold execFwStage
  repeat' first
    | with_reducible assumption
    | (intro z; refine (fun hz => ?_ : Steady og z → _) ?_; rotate_left; subst z; rotate_left; clear_value z)
    | (intro z; clear_value z)
    | intro _
    | with_reducible apply finish_steady
    | with_reducible apply refuse_steady
    | with_reducible apply startMaint_steady
    | with_reducible apply runCmd_steady
    | with_reducible apply refusing_steady
    | with_reducible apply State.modProt_steady
    | split
    | lift_lets -underBinder

theorem restartFirmware_steady {og : State} {s : State} (hs : Steady og s) : Steady og (restartFirmware s) := by
  unfold restartFirmware
  repeat' first
    | with_reducible assumption
    | (intro z; clear_value z)
    | intro _
    | with_reducible apply setRecal_steady
    | with_reducible apply State.modProt_steady
    | with_reducible apply foldl_steady
    | with_reducible apply foldl_fst_steady
    | split
    | lift_lets -underBinder
    | simp -zeta only [Steady.mk]
    | with_reducible refine Steady.fst ?_ ‹_ = (_, _)›
    | with_reducible refine OptSteadyP.of ?_ ‹_ = some (_, _)›

theorem firmwareReset_steady {og : State} {s : State} {i : FwImage} (hs : Steady og s) : Steady og (firmwareReset s i) := by
  unfold firmwareReset
  repeat' first
    | with_reducible assumption
    | intro _
    | with_reducible apply State.forAll_steady
    | with_reducible apply unloadImage_steady
    | with_reducible apply State.modProt_steady
    | with_reducible apply restartFirmware_steady

theorem activateImage_steady {og : State} {s : State} {m : Fin 8} {i : FwImage} (hs : Steady og s) : Steady og (activateImage s m i) := by
  unfold activateImage
  repeat' first
    | with_reducible assumption
    | with_reducible apply finish_steady
    | with_reducible apply firmwareReset_steady

theorem execFwActivate_steady {og : State} {m : Fin 8} {s : State} (hs : Steady og s) : OutSteady og (execFwActivate m s) := by
  unfold execFwActivate
  repeat' first
    | with_reducible assumption
    | (intro z; refine (fun hz => ?_ : Steady og z → _) ?_; rotate_left; subst z; rotate_left; clear_value z)
    | intro _
    | with_reducible apply OutSteady.next
    | with_reducible apply refuse_steady
    | with_reducible apply runCmd_steady
    | with_reducible apply setWorking_steady
    | with_reducible apply refusing_steady
    | with_reducible apply activateImage_steady
    | split
    | lift_lets -underBinder

theorem execFwReady_steady {og : State} {s : State} (hs : Steady og s) : OutSteady og (execFwReady s) := by
  unfold execFwReady
  repeat' first
    | with_reducible assumption
    | (intro z; clear_value z)
    | with_reducible apply OutSteady.next
    | with_reducible apply emit_steady
    | with_reducible apply State.modProt_steady
    | with_reducible apply bootMeasure_steady
    | split
    | lift_lets -underBinder
    | simp -zeta only [Steady.mk]

/-! Machine/Reset. -/

theorem State.modPins_steady {og : State} {s : State} {f : Pins → Pins} (hs : Steady og s) : Steady og (State.modPins s f) := by
  unfold State.modPins
  repeat' first
    | with_reducible assumption
    | simp -zeta only [Steady.mk]

theorem execLinkReset_steady {og : State} {s : State} (hs : Steady og s) : OutSteady og (execLinkReset s) := by
  unfold execLinkReset
  repeat' first
    | with_reducible assumption
    | with_reducible apply OutSteady.next
    | with_reducible apply setTdisp_steady
    | with_reducible apply State.modProt_steady
    | lift_lets -underBinder
    | simp -zeta only [Steady.mk]

theorem coldReset_steady {og s : State} (hs : Steady og s) : Steady og (coldReset s) :=
  hs.set rfl rfl rfl (fun _ => rfl) (fun _ => rfl) id

theorem setPass_steady {og : State} {s : State} (hs : Steady og s) : Steady og (setPass s) := by
  unfold setPass
  repeat' first
    | with_reducible assumption
    | with_reducible apply State.modPins_steady

theorem beginBringup_steady {og : State} {s : State} (hs : Steady og s) : Steady og (beginBringup s) := by
  unfold beginBringup
  repeat' first
    | with_reducible assumption
    | (intro z; clear_value z)
    | with_reducible apply State.modPins_steady
    | split
    | lift_lets -underBinder

/-- The same with another geographic address: what a release of reset samples (R19). -/
theorem Steady.regeo {o s : State} {g : BitVec 6} (h : Steady o s) : Steady { o with geo := g } { s with geo := g } :=
  ⟨h.1, .refl _, h.2.2.1, h.2.2.2⟩

theorem sampleGeo_steady {og : State} {s : State} {ga : BitVec 6} (hs : Steady og s) :
    ∃ g, Steady { og with geo := g } (sampleGeo s ga) := by
  unfold sampleGeo
  dsimp only
  split
  · exact ⟨ga, hs.regeo⟩
  · exact ⟨og.geo, hs⟩

theorem execPowerApplied_steady {og : State} {ga : BitVec 6} {s : State} (hs : Steady og s) : ∃ g, OutSteady { og with geo := g } (execPowerApplied ga s) := by
  unfold execPowerApplied
  split
  · exact ⟨og.geo, OutSteady.next hs⟩
  · obtain ⟨g, h⟩ := sampleGeo_steady (ga := ga) (setPass_steady (State.modPins_steady (f := fun p => { p with input := true, stbyOk := true }) (coldReset_steady hs)))
    exact ⟨g, OutSteady.next (beginBringup_steady h)⟩

theorem execPwrGoodRise_steady {og : State} {ga : BitVec 6} {s : State} (hs : Steady og s) : ∃ g, OutSteady { og with geo := g } (execPwrGoodRise ga s) := by
  unfold execPwrGoodRise
  obtain ⟨g, h⟩ := sampleGeo_steady (ga := ga) (setPass_steady (State.modPins_steady (f := fun p => { p with pwrGood := true }) hs))
  exact ⟨g, OutSteady.next (beginBringup_steady h)⟩

theorem execPwrGoodLow_steady {og : State} {s : State} (hs : Steady og s) : OutSteady og (execPwrGoodLow s) := by
  unfold execPwrGoodLow
  repeat' first
    | with_reducible assumption
    | with_reducible apply OutSteady.next
    | with_reducible apply State.modPins_steady
    | with_reducible apply coldReset_steady
    | with_reducible apply setPass_steady
    | split

theorem execInputOutOfRange_steady {og : State} {below40 : Bool} {s : State} (hs : Steady og s) : OutSteady og (execInputOutOfRange below40 s) := by
  unfold execInputOutOfRange
  repeat' first
    | with_reducible assumption
    | with_reducible apply OutSteady.next
    | with_reducible apply State.modPins_steady
    | with_reducible apply coldReset_steady

theorem execInputRecovered_steady {og : State} {ga : BitVec 6} {s : State} (hs : Steady og s) : ∃ g, OutSteady { og with geo := g } (execInputRecovered ga s) := by
  unfold execInputRecovered
  split
  · exact ⟨og.geo, OutSteady.next hs⟩
  · obtain ⟨g, h⟩ := sampleGeo_steady (ga := ga) (State.modPins_steady (f := fun p => { p with input := true, stbyOk := true }) (coldReset_steady hs))
    exact ⟨g, OutSteady.next (beginBringup_steady h)⟩

theorem execColdRst_steady {og : State} {s : State} (hs : Steady og s) : OutSteady og (execColdRst s) := by
  unfold execColdRst
  repeat' first
    | with_reducible assumption
    | with_reducible apply OutSteady.next
    | with_reducible apply State.modPins_steady
    | with_reducible apply coldReset_steady
    | split

theorem execColdRstRelease_steady {og : State} {ga : BitVec 6} {s : State} (hs : Steady og s) : ∃ g, OutSteady { og with geo := g } (execColdRstRelease ga s) := by
  unfold execColdRstRelease
  obtain ⟨g, h⟩ := sampleGeo_steady (ga := ga) (State.modPins_steady (f := fun p => { p with coldRst := true }) hs)
  exact ⟨g, OutSteady.next (beginBringup_steady h)⟩

theorem execFlashSel_steady {og : State} {s : State} (hs : Steady og s) : OutSteady og (execFlashSel s) := by
  unfold execFlashSel
  repeat' first
    | with_reducible assumption
    | with_reducible apply OutSteady.next
    | with_reducible apply State.modPins_steady
    | with_reducible apply setPass_steady

theorem execFlashSelRelease_steady {og : State} {s : State} (hs : Steady og s) : OutSteady og (execFlashSelRelease s) := by
  unfold execFlashSelRelease
  repeat' first
    | with_reducible assumption
    | with_reducible apply OutSteady.next
    | with_reducible apply State.modPins_steady
    | with_reducible apply setPass_steady
    | with_reducible apply beginBringup_steady

theorem clearHost_steady {og : State} {s : State} (hs : Steady og s) : Steady og (clearHost s) := by
  unfold clearHost
  repeat' first
    | with_reducible assumption
    | (intro z; clear_value z)
    | lift_lets -underBinder
    | simp -zeta only [Steady.mk]

theorem clearLaunches_steady {og : State} {s : State} (hs : Steady og s) : Steady og (clearLaunches s) := by
  unfold clearLaunches
  repeat' first
    | with_reducible assumption
    | intro _
    | with_reducible apply State.forAll_steady
    | with_reducible apply stopLaunch_steady
    | with_reducible apply unloadImage_steady

theorem clearModule_steady {og s : State} (hs : Steady og s) : Steady og (clearModule s) :=
  hs.set rfl rfl rfl (fun _ => rfl) id id

theorem warmReset_steady {og s : State} (hs : Steady og s) : Steady og (warmReset s) :=
  clearModule_steady (restartFirmware_steady (clearLaunches_steady (clearHost_steady hs)))

theorem execPerst_steady {og : State} {s : State} (hs : Steady og s) : OutSteady og (execPerst s) := by
  unfold execPerst
  repeat' first
    | with_reducible assumption
    | with_reducible apply OutSteady.next
    | with_reducible apply State.modPins_steady
    | with_reducible apply warmReset_steady
    | split

theorem execPerstRelease_steady {og : State} {ga : BitVec 6} {s : State} (hs : Steady og s) : ∃ g, OutSteady { og with geo := g } (execPerstRelease ga s) := by
  unfold execPerstRelease
  split
  · exact ⟨og.geo, OutSteady.next hs⟩
  · exact ⟨ga, OutSteady.next (State.modPins_steady hs.regeo)⟩

theorem execWatchdogExpiry_steady {og : State} {s : State} (hs : Steady og s) : OutSteady og (execWatchdogExpiry s) := by
  unfold execWatchdogExpiry
  repeat' first
    | with_reducible assumption
    | with_reducible apply OutSteady.next
    | with_reducible apply warmReset_steady
    | split

theorem bootRom_steady {og : State} {s : State} {r : BringupResult} (hs : Steady og s) : Steady og (bootRom s r) := by
  unfold bootRom
  repeat' first
    | with_reducible assumption
    | with_reducible apply State.modProt_steady
    | with_reducible apply logEntry_steady
    | with_reducible apply bootMeasure_steady
    | split

theorem bringStacks_steady {og : State} {s : State} {ok : BitVec 24} (hs : Steady og s) : Steady og (bringStacks s ok) := by
  unfold bringStacks
  repeat' first
    | with_reducible assumption
    | (intro z; refine (fun hz => ?_ : Steady og z → _) ?_; rotate_left; subst z; rotate_left; clear_value z)
    | (intro z; clear_value z)
    | intro _
    | with_reducible apply State.forAll_steady
    | with_reducible apply stackFails_steady
    | split
    | lift_lets -underBinder
    | simp -zeta only [Steady.mk]

theorem bringPort_steady {og : State} {s : State} {p : Nat} {w : Fin 4} (hs : Steady og s) : Steady og (bringPort s p w) := by
  unfold bringPort
  repeat' first
    | with_reducible assumption
    | with_reducible apply State.bump_steady
    | with_reducible apply State.setPort_steady
    | split

theorem retirePoisoned_steady {og : State} {p : Fin 2} {s : State} {f : BitVec 26} (hs : Steady og s) : Steady og (retirePoisoned p s f) := by
  unfold retirePoisoned
  repeat' first
    | with_reducible assumption
    | (intro z; clear_value z)
    | intro _
    | with_reducible apply count_steady
    | with_reducible apply takeFar_steady
    | with_reducible apply copyFails_steady
    | with_reducible apply foldl_steady
    | with_reducible apply foldl_fst_steady
    | split
    | lift_lets -underBinder
    | simp -zeta only [Steady.mk]
    | with_reducible refine Steady.fst ?_ ‹_ = (_, _)›
    | with_reducible refine OptSteadyP.of ?_ ‹_ = some (_, _)›

theorem bringCxl_steady {og : State} {s : State} {p : Fin 2} {w : Fin 4} {frames : Nat} {id : BitVec 64} {poison : List (BitVec 26)} (hs : Steady og s) : Steady og (bringCxl s p w frames id poison) := by
  unfold bringCxl
  repeat' first
    | with_reducible assumption
    | (intro z; refine (fun hz => ?_ : Steady og z → _) ?_; rotate_left; subst z; rotate_left; clear_value z)
    | (intro z; refine (fun hz => ?_ : Steady og z.1 → _) ?_; rotate_left; subst z; rotate_left; clear_value z)
    | (intro z; clear_value z)
    | intro _
    | with_reducible apply State.setCxl_steady
    | with_reducible apply portOut_steady
    | with_reducible apply State.modProt_steady
    | with_reducible apply retirePoisoned_steady
    | with_reducible apply foldl_steady
    | with_reducible apply foldl_fst_steady
    | split
    | lift_lets -underBinder
    | simp -zeta only [Steady.mk]
    | with_reducible refine Steady.fst ?_ ‹_ = (_, _)›
    | with_reducible refine OptSteadyP.of ?_ ‹_ = some (_, _)›

theorem regainTwins_steady {og : State} {s : State} (hs : Steady og s) : Steady og (regainTwins s) := by
  unfold regainTwins
  repeat' first
    | with_reducible assumption
    | intro _
    | with_reducible apply State.forAll_steady
    | with_reducible apply giveMirror_steady

theorem bringUnits_steady {og : State} {s : State} {r : BringupResult} (hs : Steady og s) : Steady og (bringUnits s r) := by
  unfold bringUnits
  repeat' first
    | with_reducible assumption
    | intro _
    | with_reducible apply State.forAll_steady
    | with_reducible apply flush_steady
    | with_reducible apply State.modPins_steady
    | with_reducible apply bringStacks_steady
    | with_reducible apply bringPort_steady
    | with_reducible apply bringCxl_steady
    | with_reducible apply regainTwins_steady

theorem execBringupEnd_steady {og : State} {r : BringupResult} {s : State} (hs : Steady og s) : OutSteady og (execBringupEnd r s) := by
  unfold execBringupEnd
  repeat' first
    | with_reducible assumption
    | (intro z; refine (fun hz => ?_ : Steady og z → _) ?_; rotate_left; subst z; rotate_left; clear_value z)
    | (intro z; clear_value z)
    | with_reducible apply OutSteady.next
    | with_reducible apply State.modPins_steady
    | with_reducible apply bootRom_steady
    | with_reducible apply bringUnits_steady
    | split
    | lift_lets -underBinder
    | simp -zeta only [Steady.mk]

/-! Machine/Idle. -/

theorem execIdleI2Entry_steady {og : State} {u : IdleUnit} {s : State} (hs : Steady og s) : OutSteady og (execIdleI2Entry u s) := by
  unfold execIdleI2Entry
  repeat' first
    | with_reducible assumption
    | with_reducible apply OutSteady.next
    | with_reducible apply State.setLevel_steady
    | split

theorem execIdleI3Entry_steady {og : State} {die : Fin 4} {s : State} (hs : Steady og s) : OutSteady og (execIdleI3Entry die s) := by
  unfold execIdleI3Entry
  repeat' first
    | with_reducible assumption
    | (intro z; clear_value z)
    | intro _
    | with_reducible apply OutSteady.next
    | with_reducible apply State.forAll_steady
    | with_reducible apply State.setLevel_steady
    | split
    | lift_lets -underBinder
    | simp -zeta only [Steady.mk]

theorem execIdleI4Entry_steady {og s : State} (hs : Steady og s) : OutSteady og (execIdleI4Entry s) := by
  unfold execIdleI4Entry
  split
  · exact OutSteady.next (hs.set rfl rfl rfl (fun _ => rfl) id id)
  · exact OutSteady.next hs

theorem execWakeSlot_steady {og : State} {u : IdleUnit} {s : State} (hs : Steady og s) : OutSteady og (execWakeSlot u s) := by
  unfold execWakeSlot
  repeat' first
    | with_reducible assumption
    | with_reducible apply OutSteady.next
    | with_reducible apply State.setWake_steady
    | split

theorem execWakeDone_steady {og : State} {u : IdleUnit} {s : State} (hs : Steady og s) : OutSteady og (execWakeDone u s) := by
  unfold execWakeDone
  repeat' first
    | with_reducible assumption
    | with_reducible apply OutSteady.next
    | with_reducible apply State.setLevel_steady
    | with_reducible apply State.setWake_steady
    | with_reducible apply resched_steady
    | split

theorem sendSmbus_steady {og : State} {s : State} {v : Option (BitVec 16)} (hs : Steady og s) : Steady og (sendSmbus s v) := by
  unfold sendSmbus
  repeat' first
    | with_reducible assumption
    | (intro z; clear_value z)
    | lift_lets -underBinder
    | simp -zeta only [Steady.mk]

theorem execSmbusRefresh_steady {og : State} {v : Telemetry} {s : State} (hs : Steady og s) : OutSteady og (execSmbusRefresh v s) := by
  unfold execSmbusRefresh
  repeat' first
    | with_reducible assumption
    | (intro z; clear_value z)
    | with_reducible apply OutSteady.next
    | split
    | lift_lets -underBinder
    | simp -zeta only [Steady.mk]

theorem execSmbusReadWord_steady {og : State} {cmd : BitVec 8} {s : State} (hs : Steady og s) : OutSteady og (execSmbusReadWord cmd s) := by
  unfold execSmbusReadWord
  repeat' first
    | with_reducible assumption
    | (intro z; clear_value z)
    | with_reducible apply OutSteady.next
    | with_reducible apply sendSmbus_steady
    | split
    | lift_lets -underBinder

theorem execSmbusAlertResponse_steady {og : State} {s : State} (hs : Steady og s) : OutSteady og (execSmbusAlertResponse s) := by
  unfold execSmbusAlertResponse
  repeat' first
    | with_reducible assumption
    | (intro z; clear_value z)
    | with_reducible apply OutSteady.next
    | with_reducible apply sendSmbus_steady
    | split
    | lift_lets -underBinder
    | simp -zeta only [Steady.mk]

theorem execSmbusWrite_steady {og : State} {s : State} (hs : Steady og s) : OutSteady og (execSmbusWrite s) := by
  unfold execSmbusWrite
  repeat' first
    | with_reducible assumption
    | with_reducible apply OutSteady.next
    | with_reducible apply sendSmbus_steady

theorem execLeakSensorWet_steady {og : State} {s : State} (hs : Steady og s) : OutSteady og (execLeakSensorWet s) := by
  unfold execLeakSensorWet
  repeat' first
    | with_reducible assumption
    | with_reducible apply OutSteady.next
    | with_reducible apply State.modPins_steady

theorem sendJtag_steady {og : State} {s : State} {v : Word64} (hs : Steady og s) : Steady og (sendJtag s v) := by
  unfold sendJtag
  repeat' first
    | with_reducible assumption
    | (intro z; clear_value z)
    | lift_lets -underBinder
    | simp -zeta only [Steady.mk]

theorem execJtagInstruction_steady {og : State} {internal : Bool} {x0 : BitVec 64} {s : State} (hs : Steady og s) : OutSteady og (execJtagInstruction internal x0 s) := by
  unfold execJtagInstruction
  repeat' first
    | with_reducible assumption
    | with_reducible apply OutSteady.next
    | with_reducible apply State.bump_steady
    | with_reducible apply sendJtag_steady
    | split

/-! Machine/Spdm. -/

theorem answerSpdm_steady {og : State} {s : State} {a : SpdmAnswer} (hs : Steady og s) : Steady og (answerSpdm s a) := by
  unfold answerSpdm
  repeat' first
    | with_reducible assumption
    | (intro z; clear_value z)
    | lift_lets -underBinder
    | simp -zeta only [Steady.mk]

theorem execGetVersion_steady {og : State} {s : State} (hs : Steady og s) : OutSteady og (execGetVersion s) := by
  unfold execGetVersion
  repeat' first
    | with_reducible assumption
    | with_reducible apply OutSteady.next
    | with_reducible apply answerSpdm_steady

theorem execGetCapabilities_steady {og : State} {s : State} (hs : Steady og s) : OutSteady og (execGetCapabilities s) := by
  unfold execGetCapabilities
  repeat' first
    | with_reducible assumption
    | with_reducible apply OutSteady.next
    | with_reducible apply answerSpdm_steady

theorem execNegotiateAlgorithms_steady {og : State} {s : State} (hs : Steady og s) : OutSteady og (execNegotiateAlgorithms s) := by
  unfold execNegotiateAlgorithms
  repeat' first
    | with_reducible assumption
    | with_reducible apply OutSteady.next
    | with_reducible apply answerSpdm_steady

theorem execGetDigests_steady {og : State} {s : State} (hs : Steady og s) : OutSteady og (execGetDigests s) := by
  unfold execGetDigests
  repeat' first
    | with_reducible assumption
    | with_reducible apply OutSteady.next
    | with_reducible apply answerSpdm_steady

theorem execGetCertificate_steady {og : State} {slot : Fin 8} {s : State} (hs : Steady og s) : OutSteady og (execGetCertificate slot s) := by
  unfold execGetCertificate
  repeat' first
    | with_reducible assumption
    | with_reducible apply OutSteady.next
    | with_reducible apply answerSpdm_steady

theorem execChallenge_steady {og : State} {slot : Fin 8} {nonce : BitVec 256} {s : State} (hs : Steady og s) : OutSteady og (execChallenge slot nonce s) := by
  unfold execChallenge
  repeat' first
    | with_reducible assumption
    | with_reducible apply OutSteady.next
    | with_reducible apply State.bump_steady
    | with_reducible apply signBytes_steady
    | with_reducible apply answerSpdm_steady
    | split

theorem execGetMeasurements_steady {og : State} {index : BitVec 8} {nonce : BitVec 256} {s : State} (hs : Steady og s) : OutSteady og (execGetMeasurements index nonce s) := by
  unfold execGetMeasurements
  repeat' first
    | with_reducible assumption
    | with_reducible apply OutSteady.next
    | with_reducible apply State.bump_steady
    | with_reducible apply signBytes_steady
    | with_reducible apply answerSpdm_steady
    | split

theorem setSession_steady {og : State} {s : State} {n : Fin 4} (hs : Steady og s) : Steady og (setSession s n) := by
  unfold setSession
  repeat' first
    | with_reducible assumption
    | with_reducible apply State.modProt_steady

theorem execKeyExchange_steady {og : State} {exchange : BitVec 768} {s : State} (hs : Steady og s) : OutSteady og (execKeyExchange exchange s) := by
  unfold execKeyExchange
  repeat' first
    | with_reducible assumption
    | with_reducible apply OutSteady.next
    | with_reducible apply signBytes_steady
    | with_reducible apply answerSpdm_steady
    | with_reducible apply setSession_steady
    | split

theorem execFinish_steady {og : State} {verified : Bool} {s : State} (hs : Steady og s) : OutSteady og (execFinish verified s) := by
  unfold execFinish
  repeat' first
    | with_reducible assumption
    | with_reducible apply OutSteady.next
    | with_reducible apply answerSpdm_steady
    | with_reducible apply setSession_steady
    | split

theorem inSession_steady {og : State} {s : State} {f : State → State} {a : SpdmAnswer} (hs : Steady og s) (hf : ∀ (a0 : State), Steady og a0 → Steady og (f a0)) : OutSteady og (inSession s f a) := by
  unfold inSession
  repeat' first
    | with_reducible assumption
    | with_reducible apply OutSteady.next
    | with_reducible apply answerSpdm_steady
    | with_reducible apply hf
    | split

theorem execKeyUpdate_steady {og : State} {s : State} (hs : Steady og s) : OutSteady og (execKeyUpdate s) := by
  unfold execKeyUpdate
  repeat' first
    | with_reducible assumption
    | intro _
    | with_reducible apply State.modProt_steady
    | with_reducible apply inSession_steady

theorem execHeartbeat_steady {og s : State} (hs : Steady og s) : OutSteady og (execHeartbeat s) :=
  inSession_steady hs fun _ h => h

theorem loseSession_steady {og : State} {s : State} (hs : Steady og s) : Steady og (loseSession s) := by
  unfold loseSession
  repeat' first
    | with_reducible assumption
    | (intro z; refine (fun hz => ?_ : Steady og z → _) ?_; rotate_left; subst z; rotate_left; clear_value z)
    | with_reducible apply setTdisp_steady
    | with_reducible apply setSession_steady
    | split
    | lift_lets -underBinder

theorem execEndSession_steady {og : State} {s : State} (hs : Steady og s) : OutSteady og (execEndSession s) := by
  unfold execEndSession
  repeat' first
    | with_reducible assumption
    | intro _
    | with_reducible apply inSession_steady
    | with_reducible apply loseSession_steady

theorem execUnsupportedSpdmRequest_steady {og : State} {x0 : BitVec 8} {s : State} (hs : Steady og s) : OutSteady og (execUnsupportedSpdmRequest x0 s) := by
  unfold execUnsupportedSpdmRequest
  repeat' first
    | with_reducible assumption
    | with_reducible apply OutSteady.next
    | with_reducible apply answerSpdm_steady

theorem execIdeKm_steady {og : State} {s : State} (hs : Steady og s) : OutSteady og (execIdeKm s) := by
  unfold execIdeKm
  repeat' first
    | with_reducible assumption
    | with_reducible apply OutSteady.next
    | with_reducible apply State.modProt_steady
    | split

theorem execLockInterface_steady {og : State} {s : State} (hs : Steady og s) : OutSteady og (execLockInterface s) := by
  unfold execLockInterface
  repeat' first
    | with_reducible assumption
    | with_reducible apply OutSteady.next
    | with_reducible apply setTdisp_steady
    | split

theorem execStartInterface_steady {og : State} {s : State} (hs : Steady og s) : OutSteady og (execStartInterface s) := by
  unfold execStartInterface
  repeat' first
    | with_reducible assumption
    | with_reducible apply OutSteady.next
    | with_reducible apply setTdisp_steady
    | split

theorem execStopInterface_steady {og : State} {s : State} (hs : Steady og s) : OutSteady og (execStopInterface s) := by
  unfold execStopInterface
  repeat' first
    | with_reducible assumption
    | with_reducible apply OutSteady.next
    | with_reducible apply setTdisp_steady
    | split

theorem execIdeIntegrityFailure_steady {og : State} {sessionLost : Bool} {s : State} (hs : Steady og s) : OutSteady og (execIdeIntegrityFailure sessionLost s) := by
  unfold execIdeIntegrityFailure
  repeat' first
    | with_reducible assumption
    | with_reducible apply OutSteady.next
    | with_reducible apply setTdisp_steady
    | with_reducible apply setSession_steady
    | split

end Sys2Proof.Machine
end

