-- ==== Sys2Proof/Tests/Slice0.lean ====
section
/-! SUPPORT. Tests: terms that are no commands, results that the manual gives, and for each statement a state and operands
that meet its hypotheses together. -/

namespace Sys2Proof.Tests

open Sys2Proof Sys2Proof.Machine

set_option Elab.async false

/-! Terms that are no commands. -/

def pkt0 : PktHdr := ⟨0, 2, 7, 5, 0, 0, 1, 0, 0, 0, false, 0, 0, true, 0⟩
def ring0 : RingHdr := ⟨3, 0, 1, 0, 0, 0x11⟩
def coll0 : CollMsg := ⟨9, 0, 0, 2, 0⟩

theorem test_wf_shard_step : (Instr.ringAck pkt0 ring0 (.shard 256 0 0)).wellFormed = false := by decide
theorem test_wf_shard_page : (Instr.ringAck pkt0 ring0 (.shard 0 65536 0)).wellFormed = false := by decide
theorem test_wf_shard_chunk : (Instr.ringAck pkt0 ring0 (.shard 0 0 65536)).wellFormed = false := by decide
theorem test_wf_query : (Instr.ringAck pkt0 ring0 (.query 65536)).wellFormed = false := by decide
theorem test_wf_part_head : (Instr.ringAck pkt0 ring0 (.part 256 0 0)).wellFormed = false := by decide
theorem test_wf_part_member : (Instr.ringAck pkt0 ring0 (.part 0 256 0)).wellFormed = false := by decide
theorem test_wf_part_chunk : (Instr.ringAck pkt0 ring0 (.part 0 0 65536)).wellFormed = false := by decide
theorem test_wf_output_head : (Instr.ringAck pkt0 ring0 (.output 256 0)).wellFormed = false := by decide
theorem test_wf_output_chunk : (Instr.ringAck pkt0 ring0 (.output 0 65536)).wellFormed = false := by decide
theorem test_wf_chunk_empty : (Instr.ringChunkArrival pkt0 ring0 (.query 0) none []).wellFormed = false := by decide
theorem test_wf_chunk_long : (Instr.ringChunkArrival pkt0 ring0 (.query 0) none (List.replicate 65537 0)).wellFormed = false := by
  simp only [Instr.wellFormed, List.length_replicate]; decide
theorem test_wf_first_kv : (Instr.ringChunkArrival pkt0 ring0 (.query 0) (some ⟨0, 0, 0, 0, 0, 5, 0, 1, false, 0, 0, 0, 0⟩) [0]).wellFormed = false := by decide
theorem test_wf_first_heads : (Instr.ringChunkArrival pkt0 ring0 (.query 0) (some ⟨0, 0, 0, 0, 1, 5, 0, 0, false, 0, 0, 0, 0⟩) [0]).wellFormed = false := by decide
theorem test_wf_loop : (Instr.loop ⟨0, 0, false, false, 0⟩ 0 false 0 0 1 1).wellFormed = false := by decide
theorem test_wf_sync_request : (Instr.syncRequest (2 ^ 32)).wellFormed = false := by decide
theorem test_wf_request_complete : (Instr.streamRequestComplete 0 65535).wellFormed = false := by decide
theorem test_wf_stage_low : (Instr.collAck pkt0 { coll0 with stage := 0 } 0).wellFormed = false := by decide
theorem test_wf_stage_high : (Instr.nak pkt0 { coll0 with stage := 5 } 0).wellFormed = false := by decide
theorem test_wf_piece : (Instr.abandon pkt0 { coll0 with piece := 4096 } 0).wellFormed = false := by decide
theorem test_wf_coll_ack : (Instr.collAck pkt0 coll0 65536).wellFormed = false := by decide
theorem test_wf_nak : (Instr.nak pkt0 coll0 65536).wellFormed = false := by decide
theorem test_wf_grant_first : (Instr.grant pkt0 coll0 65536 1 none).wellFormed = false := by decide
theorem test_wf_grant_count : (Instr.grant pkt0 coll0 0 65536 none).wellFormed = false := by decide
theorem test_wf_coll_empty : (Instr.collChunkArrival pkt0 0 []).wellFormed = false := by decide
theorem test_wf_coll_long : (Instr.collChunkArrival pkt0 0 (List.replicate 65537 0)).wellFormed = false := by
  simp only [Instr.wellFormed, List.length_replicate]; decide
theorem test_wf_resend_ring : (Instr.chunkResendTimer (.ring 0 0 (.query 65536))).wellFormed = false := by decide
theorem test_wf_resend_stage : (Instr.chunkResendTimer (.coll 0 0 0 5 0 0)).wellFormed = false := by decide
theorem test_wf_resend_piece : (Instr.chunkResendTimer (.coll 0 0 0 2 4096 0)).wellFormed = false := by decide
theorem test_wf_resend_chunk : (Instr.chunkResendTimer (.coll 0 0 0 2 0 65536)).wellFormed = false := by decide
theorem test_wf_write_empty : (Instr.write pkt0 []).wellFormed = false := by decide
theorem test_wf_write_long : (Instr.write pkt0 (List.replicate 257 0)).wellFormed = false := by decide +kernel
theorem test_wf_credit_none : (Instr.creditReturn 0 0 0).wellFormed = false := by decide
theorem test_wf_credit_many : (Instr.creditReturn 0 0 65536).wellFormed = false := by decide
theorem test_wf_time_request : (Instr.timeRequest pkt0 (2 ^ 64)).wellFormed = false := by decide
theorem test_wf_time_reply : (Instr.timeReply pkt0 ⟨0, 0, 0, 2 ^ 64, 0, 0, true, true, 10⟩).wellFormed = false := by decide
theorem test_wf_descriptor : (Instr.descriptorReadDone 0 (some (0, List.replicate 1048577 0))).wellFormed = false := by
  simp only [Instr.wellFormed, argBytes, List.length_replicate]; decide
theorem test_wf_register_off : (Instr.registerWrite (.bar0 (2 ^ 26) 8 0)).wellFormed = false := by decide
theorem test_wf_register_size : (Instr.registerWrite (.bar0 0 0 0)).wellFormed = false := by decide
theorem test_wf_register_wide : (Instr.registerWrite (.bar0 0 513 0)).wellFormed = false := by decide
theorem test_wf_register_stq : (Instr.registerWrite (.stq 0 64 0)).wellFormed = false := by decide
theorem test_wf_bar2_read_none : (Instr.bar2Read 0 0).wellFormed = false := by decide
theorem test_wf_bar2_read_long : (Instr.bar2Read 0 4097).wellFormed = false := by decide
theorem test_wf_bar2_read_far : (Instr.bar2Read (2 ^ 48) 1).wellFormed = false := by decide
theorem test_wf_bar2_write_none : (Instr.bar2Write 0 []).wellFormed = false := by decide
theorem test_wf_bar2_write_long : (Instr.bar2Write 0 (List.replicate 513 0)).wellFormed = false := by decide +kernel
theorem test_wf_bar2_write_far : (Instr.bar2Write (2 ^ 48) [0]).wellFormed = false := by decide
theorem test_wf_bar2_timeout : (Instr.bar2HoldTimeout 65536).wellFormed = false := by decide
theorem test_wf_maint : (Instr.maintInstanceEnd 1 ⟨true, 0, [], List.replicate 25 (0, 0)⟩).wellFormed = false := by decide
theorem test_wf_power : (Instr.powerMeasure 65536).wellFormed = false := by decide
theorem test_wf_bringup : (Instr.bringupEnd ⟨true, false, true, true, 0, [], [0, 0], [0, 0], [0, 0], [[], []]⟩).wellFormed = false := by decide
theorem test_wf_bringup_cxl : (Instr.bringupEnd ⟨true, false, true, true, 0, List.replicate 8 0, [0], [0, 0], [0, 0], [[], []]⟩).wellFormed = false := by decide
theorem test_wf_bringup_frames : (Instr.bringupEnd ⟨true, false, true, true, 0, List.replicate 8 0, [0, 0], [0], [0, 0], [[], []]⟩).wellFormed = false := by decide
theorem test_wf_bringup_id : (Instr.bringupEnd ⟨true, false, true, true, 0, List.replicate 8 0, [0, 0], [0, 0], [], [[], []]⟩).wellFormed = false := by decide
theorem test_wf_bringup_poison : (Instr.bringupEnd ⟨true, false, true, true, 0, List.replicate 8 0, [0, 0], [0, 0], [0, 0], [[]]⟩).wellFormed = false := by decide
theorem test_wf_copy_error : (Instr.uncorrectableError 7 ⟨0, 0, List.replicate 68 (0, 1)⟩).wellFormed = false := by decide
theorem test_wf_channel : (Instr.channelCrcFail 0 0 0 (some (0, List.replicate 65 0)) 0).wellFormed = false := by decide
theorem test_wf_rail_down : (Instr.diePowerRateDown 0 65536).wellFormed = false := by decide
theorem test_wf_rail_up : (Instr.diePowerRateUp 0 65536).wellFormed = false := by decide
theorem test_wf_telemetry : (Instr.smbusRefresh ⟨0, 0, 0, 0, 0, [0, 0, 0], 0⟩).wellFormed = false := by decide
theorem test_wf_horizon : (Instr.prefetchHorizonReached 0 0 65536).wellFormed = false := by decide
theorem test_wf_good : (Instr.write pkt0 [1]).wellFormed = true ∧ (Instr.collAck pkt0 coll0 0).wellFormed = true ∧
    (Instr.bringupEnd ⟨true, false, true, true, 0, List.replicate 8 0, [0, 0], [0, 0], [0, 0], [[], []]⟩).wellFormed = true := by decide

/-! Small states. -/

/-- The next state of an outcome. -/
def after : Outcome → State
  | .next t => t
  | _ => State.reset

/-- Places sections behind their directory at byte 256. -/
def placeSecs : List (Nat × List Nat) → Nat → Nat → Nat → Nat
  | [], _, _, acc => acc
  | (ty, es) :: r, k, off, acc =>
    placeSecs r (k + 1) (off + secSize ty * es.length)
      (es.zipIdx.foldl (fun a x => a + x.1 * 2 ^ (8 * (off + secSize ty * x.2))) acc + (ty + off * 2 ^ 64 + es.length * 2 ^ 192) * 2 ^ (8 * (256 + 32 * k)))

/-- An image with header bits `hdr` and some sections, each a type and its entries; no digest. -/
def image (hdr : Nat) (secs : List (Nat × List Nat)) : Nat :=
  placeSecs secs 0 (256 + 32 * secs.length) (hdr + secs.length * 2 ^ 96 + 256 * 2 ^ 192)

/-- Eight words of CODE, and the objects and bindings of tile 0 and AE 0: vids 0, 1 and 2 of their contexts 0 name
objects 0, 1 and 2. -/
def imgCode : Nat := image 0 [(1, List.replicate 8 0), (6, [0, 0, 0]), (7, [0, 2 ^ 32 + 2 ^ 48, 2 * 2 ^ 32 + 2 * 2 ^ 48,
  0x8000, 0x8000 + 2 ^ 32 + 2 ^ 48])]

def launch1 : Launch := { number := 1, domain := 5, spinLimit := 4096, creditWatch := 100000, shapes := [] }

/-- Image `img` loaded in slot 0 and launched under the open domain 5. -/
def launched (img : Nat) : State :=
  { State.reset with
    slots := [(0, { loaded := true, generation := 1, image := img, length := 4096, domain := 5, launch := some launch1 })]
    cmd := { State.reset.cmd with module := 1, domains := [5] }, launchNo := 1 }

/-- Tile 0 runs its context 0 of that launch. -/
def runs (img : Nat) (x : Ctx) : State :=
  ((launched img).setCtx 0 0 { x with st := .running, slot := some 0 }).setTile 0 { loaded := some 0 }

def sRun : State := runs imgCode {}
def u0 : Issue := ⟨0, 0, false, false, 0⟩

/-! Tile instructions. -/

theorem witness_issues : Issues sRun u0 := by unfold Issues; decide +kernel

theorem witness_scalar_salu : saluFn 0 ((sRun.ctx 0 0).getS 1) (scalarSrc (sRun.ctx 0 0) (.imm 7)) = some 7 := by decide +kernel
theorem witness_scalar_scmp : scmpFn 0 ((sRun.ctx 0 0).getS 1) (scalarSrc (sRun.ctx 0 0) (.reg 0)) = some true := by decide +kernel
theorem witness_scalar_sget : sgetSrc sRun u0 (sRun.ctx 0 0) (8 : BitVec 6).toNat = some 0 := by decide +kernel
theorem test_sli : ((after (exec (.sli u0 3 42) sRun)).ctx 0 0).getS 3 = 42 := by decide +kernel
theorem test_sli_pc : ((after (exec (.sli u0 3 42) sRun)).ctx 0 0).pc = 16 := by decide +kernel
theorem test_salu_sub : saluFn 1 5 7 = some (-2) := by decide +kernel
theorem test_aadd : ((after (exec (.aadd u0 2 true 0 0 (-1)) sRun)).ctx 0 0).getA 2 = -1 := by decide +kernel
theorem test_last_word_faults : ((after (exec (.nop u0) (runs imgCode { pc := 112 }))).ctx 0 0).st = .faulted := by decide +kernel

def memOp : ScalarMem := ⟨4, 3, 0, 0, 8⟩
theorem witness_scalar_memory : Issues sRun u0 ∧ inRegion memOp.region.toNat (effOff (sRun.ctx 0 0) memOp.region memOp.areg 8) 8 = true ∧
    effOff (sRun.ctx 0 0) memOp.region memOp.areg 8 % 8 = 0 ∧ readHeld sRun 0 8 8 = false ∧ writeHeld sRun 0 8 8 = false := by
  unfold Issues; decide +kernel
/-- An MXU instruction that reads the first 4 KiB of the resident region. -/
def mmaOp : UnitOp := .mma 1 0 0 ⟨0, false, true, 4, 4, 0, 0, ⟨0, 0, 0⟩, ⟨0, 0, 0⟩⟩ 0 0 128 128 32 false
theorem witness_scalar_held : writeHeld (sRun.setTile 0 { loaded := some 0, mxu := [mmaOp] }) 0 8 8 = true := by decide +kernel
/-- A ROWSTAT that writes the statistics region, which a load of those bytes waits for. -/
def statOp : UnitOp := .vec 1 0 0 .rowstat ⟨0, 0, 0, 0, 0, 0, 0, 0, ⟨0, 0, 0⟩, ⟨0, 0, 0⟩, ⟨0, 0, 0⟩⟩ 0 4096 0 4 4 128 8 0 0
theorem witness_scalar_read_held : readHeld (sRun.setTile 0 { loaded := some 0, vxu := [statOp] }) 0 8 8 = true := by decide +kernel
theorem test_sts : (after (exec (.sts u0 memOp) (runs imgCode { sregs := [(4, 0x1122)] }))).sram = [(8, 0x22), (9, 0x11)] := by decide +kernel
theorem test_lds : ((after (exec (.lds u0 ⟨5, 0, 0, 0, 8⟩ true) { sRun with sram := [(8, 0x80)] })).ctx 0 0).getS 5 = 0xFFFFFFFFFFFFFF80 := by decide +kernel

theorem witness_control_br : canIssue sRun u0 = true ∧ predTrue (sRun.ctx 0 0) u0 = true ∧
    ((sRun.ctx 0 0).pc + 7 * 16).toNat < codeLen sRun 0 0 := by decide +kernel
theorem witness_control_loop : (3 : Word32) ≠ 0 ∧ (3 : Word32).toNat ≤ (3 : BitVec 32).toNat ∧
    ((sRun.ctx 0 0).pc.toNat + 16) % 2 ^ 32 < codeLen sRun 0 0 := by decide +kernel
theorem witness_control_loop_none : (leaveWord ((sRun.ctx 0 0).pc.toNat + 16 * (6 : BitVec 16).toNat) (sRun.ctx 0 0).nest (sRun.ctx 0 0).loops).1 % 2 ^ 32 <
    codeLen sRun 0 0 := by decide +kernel
theorem witness_control_blkcnt : (sRun.ctx 0 0).slot = some 0 ∧ boundZero (sRun.ctx 0 0) 0 = false ∧ boundZero (sRun.ctx 0 0) 1 = true := by decide +kernel
theorem witness_control_end : outstanding sRun 0 0 = false ∧
    outstanding (sRun.setTile 0 { loaded := some 0, mxu := [.mma 0 0 0 ⟨0, false, true, 4, 4, 0, 0, ⟨0, 0, 0⟩, ⟨0, 0, 0⟩⟩ 0 0 128 128 32 false] }) 0 0 = true := by decide +kernel
theorem test_loop_again : ((after (exec (.nop u0) (runs imgCode { pc := 32, nest := [⟨0, 16, 32, 3⟩] }))).ctx 0 0).pc = 16 := by decide +kernel
theorem test_loop_ends : ((after (exec (.nop u0) (runs imgCode { pc := 32, nest := [⟨0, 16, 32, 3⟩], loops := [(0, 2)] }))).ctx 0 0).pc = 48 := by decide +kernel
theorem test_end : ((after (exec (.end_ u0) sRun)).ctx 0 0).st = .empty := by decide +kernel
theorem test_blkcnt : (after (exec (.blkcnt u0 2 0) sRun)).blocks = [(2, 1)] := by decide +kernel

theorem witness_predicated : issuer (.nop ⟨0, 0, true, false, 3⟩) = some ⟨0, 0, true, false, 3⟩ ∧ canIssue sRun ⟨0, 0, true, false, 3⟩ = true ∧
    predTrue (sRun.ctx 0 0) ⟨0, 0, true, false, 3⟩ = false ∧ canIssue State.reset u0 = false := by decide +kernel

def mmaF : MmaFields := ⟨0, false, true, 4, 4, 0, 0, ⟨1, 0, 0⟩, ⟨0, 0, 0⟩⟩
theorem witness_units_mma : fmtMatrix mmaF.fmtA.toNat = true ∧ fmtMatrix mmaF.fmtB.toNat = true ∧ boundZero (sRun.ctx 0 0) mmaF.bnd = false ∧
    boundZero (sRun.ctx 0 0) 1 = true ∧ mmaF.opa.region.toNat ≤ 2 ∧ mmaF.opb.region.toNat ≤ 2 ∧
    inRegion mmaF.opa.region.toNat (opOff (sRun.ctx 0 0) mmaF.opa) (1 * groupBytes mmaF.fmtA.toNat) = true ∧
    inRegion mmaF.opb.region.toNat (opOff (sRun.ctx 0 0) mmaF.opb) (1 * groupBytes mmaF.fmtB.toNat) = true ∧
    (sRun.tile 0).mxu.length < 8 ∧ 8 ≤ (List.replicate 8 mmaOp).length := by decide +kernel
def xVec : Ctx := { sregs := [(1, 4), (2, 8)], slot := some 0, st := .running }
def vopF : VecFields := ⟨0, 2, 2, 2, 0, 1, 0, 2, ⟨0, 0, 0⟩, ⟨0, 0, 0⟩, ⟨0, 0, 0⟩⟩
def statF : VecFields := ⟨0, 0, 2, 0, 0, 1, 0, 2, ⟨0, 0, 0⟩, ⟨0, 0, 0⟩, ⟨0, 0, 0⟩⟩
theorem witness_units_vector : vecLegal sRun xVec .vop vopF = true ∧ vecLegal sRun xVec .sfn vopF = true ∧ vecLegal sRun xVec .rowstat statF = true ∧
    boundZero xVec 0 = false ∧ (xVec.getS 1).toNat ≠ 0 ∧ (xVec.getS 0).toNat = 0 ∧
    vecInRegion .vop vopF (opOff xVec vopF.opd) (opOff xVec vopF.opa) (opOff xVec vopF.opb) 4 8 = true ∧
    vecInRegion .sfn vopF (opOff xVec vopF.opd) (opOff xVec vopF.opa) (opOff xVec vopF.opb) 4 8 = true ∧
    vecInRegion .rowstat statF (opOff xVec statF.opd) (opOff xVec statF.opa) (opOff xVec statF.opb) 4 8 = true := by decide +kernel
theorem test_mma_queue : ((after (exec (.mma u0 mmaF) sRun)).tile 0).mxu.length = 1 := by decide +kernel
theorem test_vop_queue : ((after (exec (.vop u0 vopF) (runs imgCode xVec))).tile 0).vxu.length = 1 := by decide +kernel

def vopOp : UnitOp := .vec 0 0 0 .vop vopF 0 0 0 1 1 128 8 0 0
def sVop : State := sRun.setTile 0 { loaded := some 0, vxu := [vopOp], sfu := [.vec 0 0 0 .sfn vopF 0 0 0 1 1 128 8 0 0] }
theorem witness_vector_results : (sVop.tile 0).vxu = vopOp :: [] ∧ unitReady sVop 0 vopOp = true ∧
    unitReady sVop 0 (.vec 0 0 0 .sfn vopF 0 0 0 1 1 128 8 0 0) = true := by decide +kernel
def sMma : State := sRun.setTile 0 { loaded := some 0, mxu := [mmaOp] }
theorem witness_mxu_check : (sMma.tile 0).mxu = mmaOp :: [] ∧ unitReady sMma 0 mmaOp = true ∧ (sMma.tile 0).mxuRuns = 0 := by decide +kernel
theorem witness_mxu_third : ((sMma.setTile 0 { loaded := some 0, mxu := [mmaOp], mxuRuns := 2 }).tile 0).mxuRuns = 2 := by decide +kernel
theorem test_mxu_third_fails : ((after (exec (.mxuBlockCheck 0 (some (1, 2))) (sMma.setTile 0 { loaded := some 0, mxu := [mmaOp], mxuRuns := 2 }))).tile 0).failed = true := by decide +kernel

/-! Sync instructions, Strings and contexts. -/

def obj0 : Nat := 0xFF0000000000
def obj1 : Nat := 0xFF0000000010
def obj2 : Nat := 0xFF0000000020

theorem witness_sync_instructions : canIssue sRun u0 = true ∧ predTrue (sRun.ctx 0 0) u0 = true ∧ ctxVid sRun 0 0 (1 : BitVec 16).toNat = some obj1 := by decide +kernel
theorem test_waitc_spins : ((after (exec (.waitc u0 0 0 7) sRun)).ctx 0 0).st = .spinning := by decide +kernel
theorem test_sigc_request : (after (exec (.sigc u0 1 0 7) sRun)).sync.reqs = [⟨obj1, .sigc 0 0 7, 0, 0⟩] := by decide +kernel

/-- Channel 3 of the launch, with tiles 0 and 1. -/
def sStr (latches map : Nat) : State := sRun.setChan 3 { slot := some 0, tileMap := map, latches := latches }
theorem witness_string_more : (sStr 0 3).chan 3 = { slot := some 0, tileMap := 3 } ∧ canIssue (sStr 0 3) u0 = true ∧
    openSmts (sStr 0 3) 0 0 = 0 ∧ ¬ (3 &&& (0 ||| 2 ^ 0) = 3) := by decide +kernel
theorem witness_string_last : (sStr 2 3).chan 3 = { slot := some 0, tileMap := 3, latches := 2 } ∧ canIssue (sStr 2 3) u0 = true ∧
    (2 : Nat).testBit 0 = false ∧ (3 &&& (2 ||| 2 ^ 0) = 3) ∧ ∀ e : Fin 32, (0 : Nat).testBit e.val = true → aeArrived (sStr 2 3) e 0 = true := by decide +kernel
theorem witness_string_held : let s := { sStr 0 3 with streams := { sRun.streams with smts := [{ tile := 0, ctx := 0, slot := 0, pc := 0, toDevice := false, sram := 16, dev := 0x100, len := 4, issued := 0 }] } }
    Issues s u0 ∧ canIssue s u0 = true ∧ openSmts s 0 0 ≠ 0 ∧ (s.chan 3).abandoned = false ∧ (s.chan 3).slot = (s.ctx 0 0).slot := by unfold Issues; decide +kernel
theorem witness_string_busy : ((sStr 1 3).chan 3).latches.testBit 0 = true ∧ canIssue (sStr 1 3) u0 = true := by decide +kernel
theorem witness_string_faults : (sRun.chan 3).slot = none ∧ let s := sRun.setChan 3 { slot := some 0, tileMap := 3, abandoned := true }
    (s.chan 3).abandoned = true ∧ (s.chan 3).slot = (s.ctx 0 0).slot ∧ (s.chan 3).tileMap.testBit 0 = true ∧ canIssue s u0 = true := by decide +kernel
theorem test_string_unclaimed : ((after (exec (.str u0 3 true) sRun)).ctx 0 0).st = .faulted := by decide +kernel
set_option maxRecDepth 20000 in
theorem test_string_fires : ((after (exec (.str u0 3 false) (sStr 2 3))).chan 3).gen = 1 := by decide +kernel
theorem test_string_waits : ((after (exec (.str u0 3 false) (sStr 0 3))).ctx 0 0).st = .spinning := by decide +kernel

def wTake : Wait := ⟨obj1, .take 4, some (.met 9)⟩
def sMet : State := (launched imgCode).setCtx 0 0 { st := .spinning, slot := some 0, wait := some wTake }
theorem witness_wait_met : (sMet.ctx 0 0).wait = some ⟨wTake.obj, wTake.kind, some (.met 9)⟩ ∧ (sMet.ctx 0 0).pre = .none ∧
    (following (sMet.ctx 0 0)).1 % 2 ^ 32 < codeLen sMet 0 0 := by decide +kernel
theorem test_wait_met : ((after (exec (.waitMet 0 0) sMet)).ctx 0 0).getS 4 = 9 := by decide +kernel
def sSpin (st : CtxSt) : State := ((launched imgCode).setCtx 0 0 { st := .spinning, slot := some 0, wait := some ⟨obj1, .take 4, none⟩ }).setCtx 0 1 { st := st, slot := some 0 }
theorem witness_spin_limit : ((sSpin .ready).ctx 0 0).st = .spinning ∧ (∀ d : Fin 4, d ≠ 0 → ((sSpin .ready).ctx 0 d).st ≠ .spinning ∧ ((sSpin .ready).ctx 0 d).st ≠ .running) ∧
    (∃ d : Fin 4, d ≠ 0 ∧ ((sSpin .ready).ctx 0 d).st = .ready) := by decide +kernel
theorem witness_spin_limit_alone : ∀ d : Fin 4, ((sSpin .empty).ctx 0 d).st ≠ .ready := by decide +kernel
theorem test_spin_parks : ((after (exec (.spinLimitReached 0 0) (sSpin .ready))).ctx 0 0).st = .parked := by decide +kernel
def sSwitch : State := ((launched imgCode).setCtx 0 1 { st := .ready, slot := some 0 }).setTile 0 { switching := some 1, loaded := some 0 }
theorem witness_switch : (sSwitch.tile 0).switching = some 1 ∧ sSwitch.level 0 = 0 ∧ (sSwitch.ctx 0 1).st = .ready ∧ (sSwitch.ctx 0 1).pre = .none := by decide +kernel
theorem test_switch : ((after (exec (.contextSwitchDone 0 1) sSwitch)).ctx 0 1).st = .running := by decide +kernel

def sCancel : State := (launched imgCode).setCtx 0 0 { st := .spinning, slot := some 0, wait := some ⟨obj1, .take 4, none⟩, pre := .cancel }
theorem witness_cancel : (sCancel.ctx 0 0).pre = .cancel ∧ (sCancel.ctx 0 0).wait = some ⟨obj1, .take 4, none⟩ := by decide +kernel
theorem witness_cancel_kind : ∀ ch g, WaitKind.take 4 ≠ .string ch g := by intro ch g h; cases h
def sDrain : State := (launched imgCode).setCtx 0 0 { st := .running, slot := some 0, pre := .drain }
theorem witness_drain : (sDrain.ctx 0 0).pre = .drain ∧ outstanding sDrain 0 0 = false ∧ queuesStopped sDrain 0 0 = true ∧
    (sDrain.ctx 0 0).ending = false ∧ (sDrain.ctx 0 0).st ≠ .faulted := by decide +kernel
def sSave : State := (launched imgCode).setCtx 0 0 { st := .running, slot := some 0, pre := .save }
theorem witness_save : (sSave.ctx 0 0).pre = .save := by decide +kernel
theorem test_save : ((after (exec (.contextSaveDone 0 0) sSave)).ctx 0 0).st = .halted := by decide +kernel
def sRestore : State := { (launched imgCode).setCtx 0 0 { st := .halted, slot := some 0, pre := .restore } with saves := [(0, [(8, [7])])] }
theorem witness_restore : (sRestore.ctx 0 0).pre = .restore ∧ ownedQueues sRestore 0 0 = [] := by decide +kernel
theorem test_restore : (after (exec (.contextRestoreDone 0 0) sRestore)).sram = [(8, 7)] := by decide +kernel

/-! Sync homes. -/

def reqs2 : List SyncReq := [⟨obj1, .sigc 0 0 1, 0, 0⟩, ⟨obj1, .sigc 0 0 2, 0, 0⟩]
theorem witness_request_free : (reqs2[0]?) = some ⟨obj1, .sigc 0 0 1, 0, 0⟩ ∧ ∀ q ∈ reqs2.take 0, q.obj = obj1 → q.act.unit ≠ (SyncAct.sigc 0 0 1).unit := by decide +kernel
theorem witness_request_behind : (reqs2[1]?) = some ⟨obj1, .sigc 0 0 2, 0, 0⟩ ∧ ¬ ∀ q ∈ reqs2.take 1, q.obj = obj1 → q.act.unit ≠ (SyncAct.sigc 0 0 2).unit := by decide +kernel
theorem witness_request_served : ∀ a ∈ [SyncAct.sigc 0 0 1, .release (.stream 2 0)], let s := { (launched imgCode).setObj obj1 { st := 0, value := 1 } with
      sync := { ((launched imgCode).setObj obj1 { st := 0, value := 1 }).sync with reqs := [⟨obj1, a, 0, 0⟩] } }
    s.sync.reqs[0]? = some ⟨obj1, a, 0, 0⟩ ∧ s.colls.active = [] ∧ s.rings.binds = [] ∧ (s.obj obj1).st = 0 ∧ (s.obj obj1).kind = 0 ∧
      (s.obj obj1).waits = [] ∧ (s.obj obj1).takers = [] ∧ s.sync.notifs = [] ∧ (s.ctx 0 0).ending = false := by decide +kernel
theorem test_wait_met_ahead : waitMet 0x7FFFFFFF 0 = true ∧ waitMet 0x80000000 0 = false ∧ waitMet 2 0xFFFFFFFF = true := by
  refine ⟨?_, ?_, ?_⟩ <;> simp [waitMet]

def sHome (o : SyncObj) (k : WaitKind) : State :=
  ((launched imgCode).setObj obj1 o).setCtx 0 0 { st := .spinning, slot := some 0, wait := some ⟨obj1, k, none⟩ }
theorem witness_home_waitc : let s := sHome { st := 0, value := 5 } (.waitc 5)
    (s.obj obj1).waits = [] ∧ (s.obj obj1).takers = [] ∧ (∀ n ∈ s.sync.notifs, n.obj ≠ obj1) ∧ (s.obj obj1).st = 0 ∧ waitsFor s 0 0 obj1 = true ∧
      (s.obj obj1).kind ≠ 1 ∧ waitMet (s.obj obj1).count 5 = true ∧ waitMet (s.obj obj1).count 6 = false := by decide +kernel
theorem witness_home_word : let s := sHome { st := 1, kind := 1, full := true, value := 5 } (.take 4)
    (s.obj obj1).st = 1 ∧ waitsFor s 0 0 obj1 = true ∧ (s.obj obj1).kind = 1 ∧ (s.obj obj1).full = true ∧ (s.ctx 0 0).st = .spinning := by decide +kernel
theorem witness_home_word_empty : let s := sHome { st := 0, kind := 1 } (.put 4)
    waitsFor s 0 0 obj1 = true ∧ (s.obj obj1).kind = 1 ∧ (s.obj obj1).full = false := by decide +kernel
theorem witness_home_faa : let s := sHome { st := 0, kind := 2, value := 5 } (.faa 4)
    (s.ctx 0 0).wait = some ⟨obj1, .faa 4, none⟩ ∧ (s.obj obj1).kind = 2 := by decide +kernel
def xCredit : Xfer := { desc := 0, slot := 0, tile := 0, ctx := 0, pc := 0, aSrc := 0, aDst := 0, zero := false, issued := 7, credit := .waiting }
theorem witness_home_credit : let s := (sHome { st := 0, value := 1 } (.waitc 5)).setQueue 2 { enable := true, state := 1, active := some xCredit }
    (s.obj obj1).kind ≠ 1 ∧ (s.obj obj1).count ≠ 0 ∧ (s.queue 2).active = some xCredit ∧ xCredit.issued = 7 ∧ xCredit.credit = .waiting := by decide +kernel
theorem test_faa_draws : ((applyReq (sHome { st := 0, kind := 2, value := 5 } (.faa 4)) ⟨obj1, .faa 0 0 3, 0, 0⟩).ctx 0 0).getS 4 = 5 := by decide +kernel
theorem test_counter_wraps : ((applyReq (sHome { st := 0, value := 0xFFFFFFFF } (.waitc 5)) ⟨obj1, .sigc 0 0 2, 0, 0⟩).obj obj1).value = 1 := by decide +kernel

/-! Streams and small transfers. -/

def counts (n : Nat) : Nat := n * 2 ^ 48 + 2 ^ 64 + 2 ^ 80 + 2 ^ 96 + 2 ^ 112
/-- Bf16 from offset 0 to offset 0x200000 of tile 0, four elements, no objects. -/
def dCopy : Nat := 16 + 64 + 2 * 256 + 2 * 4096 + 0xFFFFFFFF * 2 ^ 16 + counts 4 + 0x200000 * 2 ^ 416
def dDrain : Nat := dCopy + 8
/-- It consumes and releases vid 1. -/
def dSelf : Nat := 16 + 64 + 2 * 256 + 2 * 4096 + 0x10001 * 2 ^ 16 + counts 4 + 0x200000 * 2 ^ 416
def imgStr : Nat := image 0 [(1, List.replicate 8 0), (4, [dCopy, dDrain, dSelf]), (6, [0, 0, 0]), (7, [0, 2 ^ 32 + 2 ^ 48])]
def sStrm (r : StQueue) : State := (runs imgStr {}).setQueue 2 { r with enable := true, owner := some 0 }
def xNew (desc : BitVec 16) : Xfer := { desc := desc, slot := 0, tile := 0, ctx := 0, pc := 0, aSrc := 0, aDst := 0, zero := false, issued := 0 }
def xGo : Xfer := { xNew 0 with credit := .granted }
def xRun : Xfer := { xGo with started := true }
theorem witness_sqis : let s := sStrm {}
    Issues s u0 ∧ (s.ctx 0 0).slot = some 0 ∧ (s.queue 2).enable = true ∧ (s.queue 2).owner = some 0 ∧ (s.queue 2).ownerTile.toNat = 0 ∧
      (s.queue 2).ownerCtx.toNat = 0 ∧ 1 < secCount (s.slot 0).image 4 ∧ (s.queue 2).active = none ∧ sdDrain (streamDesc s 0 0) = false ∧
      xferConsume s (xNew 0) = none ∧ sdDrain (streamDesc s 0 1) = true ∧ 2 < secCount (s.slot 0).image 4 ∧
      xferConsume s (xNew 2) = some obj1 ∧ sdDrain (streamDesc s 0 2) = false := by unfold Issues; decide +kernel
theorem witness_sqis_shadow : let s := sStrm { state := 2, active := some xRun }
    Issues s u0 ∧ (s.queue 2).active = some xRun ∧ (s.queue 2).shadow = none := by unfold Issues; decide +kernel
theorem witness_sqis_full : let s := sStrm { state := 2, active := some xRun, shadow := some (xNew 1) }
    Issues s u0 ∧ (s.queue 2).active = some xRun ∧ (s.queue 2).shadow = some (xNew 1) := by unfold Issues; decide +kernel
theorem test_sqis_full : ((after (exec (.sqis u0 0 2 none none 0) (sStrm { state := 2, active := some xRun, shadow := some (xNew 1) }))).queue 2).rearmRefused = true := by decide +kernel

def fSmt (dir : Bool) : SmtFields := ⟨dir, 255, 0, 0, 0, 0, 0⟩
theorem witness_smt : (sRun.ctx 0 0).slot = some 0 ∧ inRegion 0 (effOff (sRun.ctx 0 0) 0 0 0) 256 = true ∧ openSmts sRun 0 0 < 8 := by decide +kernel
def smt0 (dir : Bool) : Smt := { tile := 0, ctx := 0, slot := 0, pc := 0, toDevice := dir, sram := 16, dev := 0x100, len := 4, issued := 0 }
theorem witness_smt_ninth : let s := { sRun with streams := { sRun.streams with smts := List.replicate 8 (smt0 false) } }
    Issues s u0 ∧ 8 ≤ openSmts s 0 0 := by unfold Issues; decide +kernel
/-- Grain 0 is near memory of domain 5, not cacheable. -/
def sSmt (dir : Bool) : State :=
  let s := (launched imgCode).setGrain 0 { st := 2, domain := 5 }
  { s with streams := { s.streams with smts := [smt0 dir] }, dev := [(256, 9)], sram := [(16, 7)] }
theorem witness_smt_moves : ∀ dir, let s := sSmt dir
    s.streams.smts.find? (fun m => m.tile == 0 && m.ctx == 0) = some (smt0 dir) ∧ smtReady s (smt0 dir) = true ∧ mayServe s (smt0 dir).issued = true ∧ inGrains 0x100 = true ∧
      inKvArena (grainOf 0x100) = false ∧ inListArena (grainOf 0x100) = false ∧ grainOf 0x100 = 0 ∧ grainOf 0x103 = 0 ∧
      (s.grain 0).st = 2 ∧ (s.grain 0).cacheable = false ∧ (s.grain 0).domain.toNat = slotDomain s 0 := by decide +kernel
def sSmtOf (m : Smt) : State := { sSmt true with streams := { (sSmt true).streams with smts := [m] } }
theorem witness_smt_window : let m := { smt0 true with dev := seqWindow, len := 32 }
    smtReady (sSmtOf m) m = true ∧ mayServe (sSmtOf m) m.issued = true ∧ (sSmtOf m).streams.smts.find? (fun m => m.tile == 0 && m.ctx == 0) = some m := by decide +kernel
theorem witness_smt_waits : smtReady (sSmtOf { smt0 false with fills := [3] }) { smt0 false with fills := [3] } = false := by decide +kernel
theorem test_smt_window : ((after (exec (.smtComplete 0 0) (sSmtOf { smt0 true with dev := seqWindow, len := 32 }))).seqs.records.map (·.pass)) = [false] := by decide +kernel
theorem test_smt_reads : (after (exec (.smtComplete 0 0) (sSmt false))).sram = [(16, 9)] := by decide +kernel
theorem test_smt_writes : (after (exec (.smtComplete 0 0) (sSmt true))).dev = [(256, 7)] := by decide +kernel

def sXfer (x : Xfer) (st : Fin 8) : State := { sStrm { state := st, active := some x, limit := 4 } with sram := [(0, 1), (1, 2)] }
theorem witness_transfer_start : let s := sXfer xGo 2
    (s.queue 2).active = some xGo ∧ xGo.started = false ∧ xGo.credit = .granted ∧ ctxStopped s 0 0 = false ∧ xGo.zero = false := by decide +kernel
def xZero : Xfer := { xNew 2 with credit := .granted, zero := true }
theorem witness_transfer_zero : let s := sXfer xZero 2
    (s.queue 2).active = some xZero ∧ xZero.started = false ∧ sdIsRemote (streamDesc s 0 2) = false ∧ xZero.back = none ∧ xZero.inflight = [] ∧
      xZero.remote = none ∧ (s.queue 2).shadow = none ∧ ctxStopped s 0 0 = false ∧ xferRelease s xZero = some obj1 := by decide +kernel
theorem test_transfer_zero : ((after (exec (.transferStart 2) (sXfer xZero 2))).queue 2).active = none := by decide +kernel
theorem witness_transfer_issue : let s := sXfer xRun 2
    let d := streamDesc s 0 0
    slotGrant s (queueDie 2) = some 2 ∧ slotGrant (sXfer xRun 3) (queueDie 2) = none ∧ xRun.remote = none ∧ sdKindDst d = 1 ∧ sdFmtSrc d = sdFmtDst d ∧ sdFmtSrc d ≠ 6 ∧ sdKindSrc d = 1 ∧
      sramMeet 2 (xBaseSrc d xRun) (xSrc d xRun 0) (runLength d xRun 0 * unitBytes d (sdFmtSrc d)) false = true ∧
      sramMeet 2 (xBaseDst d xRun) (xDst d xRun 0) (runLength d xRun 0 * unitBytes d (sdFmtSrc d)) true = true ∧
      readHeld s (tileOf (xSrc d xRun 0)) (saOff (xSrc d xRun 0)) (runLength d xRun 0 * unitBytes d (sdFmtSrc d)) = false ∧
      runLength d xRun 0 = 4 := by decide +kernel
def rq0 : StreamReq := { pos := 0, count := 4, dst := 0x200000, bytes := [1, 2, 0, 0, 0, 0, 0, 0] }
theorem witness_transfer_complete : let s := sXfer { xRun with pos := 4, inflight := [rq0] } 2
    (s.queue 2).active = some { xRun with pos := 4, inflight := [rq0] } ∧ rq0.fills = [] ∧ rq0.packets = [] ∧ rq0.scales = [] ∧
      sdKindDst (streamDesc s 0 0) = 1 ∧ landHeld s 2 (streamDesc s 0 0) rq0 = false ∧ mayServe s rq0.ord = true := by decide +kernel
theorem witness_transfer_complete_more : let s := sXfer { xRun with pos := 3, inflight := [{ rq0 with count := 3 }] } 2
    3 < sdUnits (streamDesc s 0 0) ∧ landHeld s 2 (streamDesc s 0 0) { rq0 with count := 3 } = false := by decide +kernel
/-- A VXU instruction reads the destination. -/
theorem witness_transfer_land_held : let s := (sXfer { xRun with pos := 4, inflight := [rq0] } 2).setTile 0 { loaded := some 0, vxu := [.vec 0 0 0 .vop vopF 0 0x200000 0 1 1 128 8 0 0] }
    landHeld s 2 (streamDesc s 0 0) rq0 = true := by decide +kernel
theorem test_transfer_copies : (after (exec (.streamRequestComplete 2 0) (after (exec (.streamRequestIssue 2) (sXfer xRun 2))))).sram =
    [(0, 1), (1, 2), (0x200000, 1), (0x200001, 2)] := by decide +kernel
theorem witness_transfer_resume : let s := sXfer xRun 3
    (s.queue 2).state = 3 ∧ ctxStopped s 0 0 = false ∧ xRun.haltAt = none := by decide +kernel
theorem witness_transfer_drain_consumes : let s := sXfer (xNew 2) 4
    (s.queue 2).state = 4 ∧ ctxStopped s 0 0 = false ∧ xferConsume s (xNew 2) = some obj1 := by decide +kernel
theorem witness_transfer_drain : let s := sXfer (xNew 1) 4
    (s.queue 2).active = some (xNew 1) ∧ (s.queue 2).state = 4 ∧ ctxStopped s 0 0 = false ∧ xferConsume s (xNew 1) = none ∧ s.streams.smts = [] ∧
      (∀ p : Fin 256, ∀ y ∈ (s.queue p).xfers, y.issued = 0) := by decide +kernel

def sLate : State := (runs imgStr {}).setQueue 2 { enable := true, owner := some 0, state := 2, active := some xRun, deadlineAt := 1 }
theorem witness_deadline : (sLate.queue 2).active = some xRun ∧ xRun.started = true ∧ (sLate.queue 2).deadlineAt ≠ 0 ∧ xRun.missed = false ∧
    ((sXfer xRun 2).queue 2).deadlineAt = 0 := by decide +kernel
def xSelf : Xfer := { xNew 2 with credit := .waiting }
theorem witness_credit_cycle : let s := sXfer xSelf 1
    (s.queue 2).active = some xSelf ∧ inCycle s 2 xSelf = true ∧
      cycleVictim s (chainFrom s (waitingXfers s) ((waitingXfers s).length + 1) [(2, false, xSelf)] (2, false, xSelf)) = some (2, false, xSelf) ∧
      xferRelease s xSelf = some obj1 ∧ (s.ctx 0 0).slot = some 0 := by decide +kernel
theorem witness_credit_no_cycle : let s := sXfer { xGo with credit := .waiting } 1
    inCycle s 2 { xGo with credit := .waiting } = true ∧
      cycleVictim s (chainFrom s (waitingXfers s) ((waitingXfers s).length + 1) [(2, false, { xGo with credit := .waiting })] (2, false, { xGo with credit := .waiting })) = none := by decide +kernel
theorem test_credit_cycle : ((after (exec (.creditWatchExpiry 2) (sXfer xSelf 1))).queue 2).state = 5 := by decide +kernel
def fill0 : TunFill := { die := 0, line := 3, domain := 5, waiters := 1 }
def sFill : State :=
  let s := (launched imgCode).setGrain 0 { st := 2, domain := 5, cacheable := true }
  { s with streams := { s.streams with fills := [fill0] } }
theorem witness_fill : sFill.streams.fills.find? (fun f => f.die == 0 && f.line == 3) = some fill0 ∧ fill0.stale = false ∧ mayServe sFill fill0.ord = true ∧
    (sFill.grain ((3 : BitVec 38).toNat / 64)).st = 2 := by decide +kernel

/-! Attention engines. -/

/-- One row, one segment, bf16, scale 1: row in scratch SRAM at 0x500000, output at 0x500400, tables in grain 0. -/
def dAtt : Nat := 0x500000 * 2 ^ 464 + 0x500400 * 2 ^ 416 + 0x1100 * 2 ^ 368 + 0x1000 * 2 ^ 320 + 0x3F800000 * 2 ^ 240 + 0xFFFFFFFF * 2 ^ 208 +
  2 ^ 200 + 2 ^ 192 + 2 ^ 168 + 0x2222 * 2 ^ 144 + 3 * 2 ^ 128
/-- The same, consuming and releasing vid 1. -/
def dAttVid : Nat := dAtt - 0xFFFEFFFE * 2 ^ 208
/-- Another kind of descriptor. -/
def dMerge : Nat := dAtt + 2 ^ 140
def imgAe : Nat := image 0 [(1, List.replicate 8 0), (6, [0, 0, 0]), (7, [0, 0x8000, 0x8000 + 2 ^ 32 + 2 ^ 48]), (12, [dAtt, dAttVid, dMerge])]
def sIssAe (l : List AeIssue) : State := (runs imgAe {}).setAeCtx 0 0 { queue := l, owner := some 0 }
def iAe (desc : BitVec 16) : AeIssue := { desc := desc, slot := 0, tile := 0, ctx := 0, pc := 0, issued := 0, mLive := 128, zero := false }
def iZero : AeIssue := { iAe 0 with zero := true }
theorem witness_aeq : ∀ l ∈ [[], List.replicate 16 (iAe 0)], let s := sIssAe l
    (s.ctx 0 0).slot = some 0 ∧ (s.ae 0).failed = false ∧ (s.aeCtx 0 0).owner = some 0 ∧ 2 < secCount (s.slot 0).image 0xC := by decide +kernel
theorem witness_aeq_faults : ((sIssAe []).setAe 0 { failed := true } |>.ae 0).failed = true ∧ ¬ 9 < secCount ((sIssAe []).slot 0).image 0xC := by decide +kernel
theorem test_aeq_faults : ((after (exec (.aeq u0 9 0 0 0) (sIssAe []))).ctx 0 0).st = .faulted := by decide +kernel
theorem witness_aeq_issues : ∀ l ∈ [[], List.replicate 16 (iAe 0)], Issues (sIssAe l) u0 := by
  intro l h; unfold Issues; revert l; decide +kernel

/-- Sequence 1 without positions, and a candidate block in grain 1 whose value at node 0 begins with one. -/
def sAe (x : AeCtx) : State :=
  let s := (((launched imgAe).setGrain 0 { st := 2, domain := 5 }).setGrain 1 { st := 2, domain := 5 }).setSeq 1
    { st := 1, domain := 5, kvHeads := 1, fmtK := 2, fmtV := 2, layerCount := 1, pageGrains := 1 }
  { s.setAeCtx 0 0 x with
    dev := memWrite (memWrite (memWrite (memWrite [] 0x1000 (leBytes 32 (1 + 2 ^ 80 + 0x1200 * 2 ^ 160 + 0x10000 * 2 ^ 208))) 0x1100 (leBytes 8 0))
      0x1200 [0xFF]) 0x18000 [0x80, 0x3F] }
def xAe (desc : BitVec 16) : AeCtx := { queue := [iAe desc], owner := some 0 }
def isOk {α : Type} : AeMeets α → Bool
  | .ok _ => true
  | _ => false
theorem witness_ae_start : let s := sAe (xAe 0)
    let w := enterAe s 0 0
    (s.aeCtx 0 0).queue = [iAe 0] ∧ (s.aeCtx 0 0).run = none ∧ (s.aeCtx 0 0).stopping = false ∧ (s.aeCtx 0 0).saved = false ∧ (s.ae 0).failed = false ∧
      s.level (aeUnit 0) = 0 ∧ s.sync.reqs = [] ∧ aeObj s 0 0 (iAe 0) (adConsume (aeDesc s 0 0)) = none ∧ adKind (aeDesc s 0 0) = 0 ∧
      (tabGet {} s.seqs.walkers (aeWalker 0 0)).epoch = none ∧ isOk (attendEntry w 0 (iAe 0) (w.aeCtx 0 0).entered (aeDesc s 0 0)).2 = true := by decide +kernel
theorem witness_ae_start_kind : let s := sAe (xAe 2)
    adKind (aeDesc s 0 2) ≠ 0 ∧ aeObj s 0 0 (iAe 2) (adConsume (aeDesc s 0 2)) = none ∧ (s.aeCtx 0 0).queue = [iAe 2] := by decide +kernel
theorem witness_ae_start_credit : ∀ c ∈ [CreditSt.notTaken, .waiting, .granted, .abandoned], let s := sAe { xAe 1 with credit := c }
    aeObj s 0 0 (iAe 1) (adConsume (aeDesc s 0 1)) = some obj1 ∧ (s.aeCtx 0 0).credit = c ∧ (s.aeCtx 0 0).queue = [iAe 1] := by decide +kernel
theorem witness_ae_start_zero : ((sAe { queue := [iZero], owner := some 0 }).aeCtx 0 0).queue = [iZero] ∧ iZero.zero = true := by decide +kernel

/-- The run of that descriptor. -/
def run0 : AeRun :=
  { versions := [(1, 0)], segs := [1 + 2 ^ 80 + 0x1200 * 2 ^ 160 + 0x10000 * 2 ^ 208], rowTab := [0], trees := [0xFF :: List.replicate 63 0], queries := [List.replicate 256 0], groups := [⟨0, 0x10000, 0, 0, true⟩], rows := [{}] }
theorem test_ae_start : (((after (exec (.aeDescriptorStart 0 0) (sAe (xAe 0)))).aeCtx 0 0).run) = some run0 := by decide +kernel
def sGroup : State := sAe { xAe 0 with run := some run0 }
theorem witness_ae_group : (sGroup.ae 0).failed = false ∧ (sGroup.ae 0).group = none ∧ aeOrder sGroup 0 = [0] ∧ isOk (tryGroup sGroup 0 0).2 = true := by decide +kernel
def row1 : RowState := { anchor := some 0, keg := 2 ^ 64, num := [0x3F80000000000000] }
def sCheck (k : Nat) : State := (sAe { xAe 0 with run := some { run0 with awaiting := some ([row1], 0) } }).setAe 0 { group := some 0, last := 0, runs := k }
theorem witness_ae_check : ∀ k ∈ [0, 1, 2], ((sCheck k).ae 0).group = some 0 ∧ ((sCheck k).ae 0).runs = k ∧ ((sCheck k).aeCtx 0 0).queue = [iAe 0] ∧
    ((sCheck k).aeCtx 0 0).run = some { run0 with awaiting := some ([row1], 0) } := by decide +kernel
theorem witness_ae_check_skips : let r := { run0 with awaiting := some ([row1], 0), badScores := true }
    r.badScores = true ∧ r.badValues = false ∧ r.groups = [⟨0, 0x10000, 0, 0, true⟩] := by decide +kernel
theorem test_ae_check_thrice : ((after (exec (.aeGroupCheck 0 false false true) (sCheck 2))).ae 0).failed = true := by decide +kernel
theorem witness_ae_end : let s := sAe { queue := [iZero], owner := some 0, run := some {} }
    (s.aeCtx 0 0).queue = [iZero] ∧ (s.aeCtx 0 0).run = some {} := by decide +kernel
def sAeEnd : State := sAe { xAe 0 with run := some { run0 with groups := [], rows := [row1] } }
theorem witness_ae_end_rows : adKind (aeDesc sAeEnd 0 0) = 0 ∧ adOutSram (aeDesc sAeEnd 0 0) = true ∧
    aeSram 0 (adOut (aeDesc sAeEnd 0 0)) (finishRows (aeDesc sAeEnd 0 0) [row1]).length = true ∧ finishRows (aeDesc sAeEnd 0 0) [row1] ≠ [] ∧
    writeHeld sAeEnd 0 0x500400 (finishRows (aeDesc sAeEnd 0 0) [row1]).length = false ∧ tileOf (adOut (aeDesc sAeEnd 0 0)) = 0 ∧
    saOff (adOut (aeDesc sAeEnd 0 0)) = 0x500400 := by decide +kernel
theorem witness_ae_end_held : let s := sAeEnd.setTile 0 { loaded := some 0, vxu := [.vec 0 0 0 .vop vopF 0 0x500400 0 1 1 128 8 0 0] }
    writeHeld s 0 0x500400 (finishRows (aeDesc s 0 0) [row1]).length = true := by decide +kernel
theorem witness_ae_save : let s := sAe { xAe 0 with run := some run0, stopping := true }
    (s.aeCtx 0 0).stopping = true ∧ (s.ae 0).group ≠ some 0 ∧ (s.aeCtx 0 0).run = some run0 := by decide +kernel
theorem test_keg_shift : (raise' (2 ^ 95) [] 96).1 = 0 ∧ (raise' 3 [] 1).1 = 1 := by decide +kernel

/-! Sequences. -/

def sq0 : State := ((createSeq ((launched imgCode).setCtx 0 0 { st := .ready, slot := some 0 }) 1
  { domain := 5, kvHeads := 1, fmtK := 2, fmtV := 2, layerCount := 1, pageGrains := 1, capacity := 256 }).getD State.reset)
/-- A record of tile 0, context 0 for sequence 1. -/
def rSeq (op value : Nat) : WindowRec := ⟨0, 0, false, 0, 5, BitVec.ofNat 1024 (1 + op * 2 ^ 24 + value * 2 ^ 128), 0⟩
def withRec (s : State) (r : WindowRec) : State := { s with seqs := { s.seqs with records := [r] } }
/-- Ten positions in one page. -/
def sq1 : State := after (exec (.extend 0 0) (withRec sq0 (rSeq 1 10)))
/-- The items of the list arena that an EXTEND by n needs can be had. -/
def itemsFor (s : State) (n : Nat) : Bool :=
  (takeItems s 1 ((newLists s 1 (extendNeeds s 1 n).1 ((s.seq 1).length + n)).countP id)).isSome
theorem witness_extend : let s := withRec sq0 (rSeq 1 10)
    recRefusal s (rSeq 1 10) = stOk ∧ oldestRec s 0 0 1 = some (rSeq 1 10) ∧ (rSeq 1 10).handle = 1 ∧ (extendNeeds s 1 10).1 = [] ∧
      (extendNeeds s 1 10).2.length ≤ slotsFree s ∧ itemsFor s 10 = true := by decide +kernel
/-- A second sequence holds the page too. -/
def sqShared : State := addRef sq1 0
theorem witness_extend_copies : let s := withRec sqShared (rSeq 1 10)
    recRefusal s (rSeq 1 10) = stOk ∧ oldestRec s 0 0 1 = some (rSeq 1 10) ∧ (extendNeeds s 1 10).1 ≠ [] ∧
      (extendNeeds s 1 10).1.length + (extendNeeds s 1 10).2.length ≤ slotsFree s ∧ itemsFor s 10 = true := by decide +kernel
theorem witness_truncate : let s := withRec sq1 (rSeq 2 4)
    recRefusal s (rSeq 2 4) = stOk ∧ oldestRec s 0 0 2 = some (rSeq 2 4) ∧ (truncSeq s 1 4).isSome = true := by decide +kernel
theorem witness_enter_leave : ∀ op ∈ [3, 4], let s := withRec sq1 (rSeq op 0)
    recRefusal s (rSeq op 0) = stOk ∧ oldestRec s 0 0 op = some (rSeq op 0) ∧ (s.ctx 0 0).st ≠ .empty ∧ (s.ctx 0 0).st ≠ .faulted := by decide +kernel
theorem test_extend : (sq1.seq 1).length = 10 ∧ (sq1.seq 1).version = 2 ∧ (sq1.page 0).refs = 1 := by decide +kernel

def sqCopying : State := after (exec (.extend 0 0) (withRec sqShared (rSeq 1 10)))
def yCopy : SeqCopy := ⟨1, [(0, 0, 1)], [], 20, rSeq 1 10, [16492674613248], 16492674678784⟩
theorem witness_copy_poisoned : let s := sqCopying.setGrain (pageGrain 0) { st := 9, domain := 5 }
    s.seqs.copies.find? (fun y => y.handle == (1 : BitVec 17).toNat) = some yCopy ∧
      (∃ g ∈ (neededCopies s yCopy).flatMap (fun x => pageGrains s x.2.1), (s.grain g).st = 9) := by decide +kernel
def sqCopyDone : State := sqCopying.setGrain (pageGrain 0) { st := 2, domain := 5 }
theorem witness_copy_done : let s := sqCopyDone
    let e := s.seq 1
    let gs := (neededCopies s yCopy).flatMap (fun x => pageGrains s x.2.1)
    let met := gs.foldl (fun (p : State × Bool) g =>
      let m := meetGrain p.1 g e.domain.toNat false true (e.homeDie.castLE (by omega))
      (m.1, p.2 && decide (m.2 = .served))) (s, true)
    s.seqs.copies.find? (fun y => y.handle == (1 : BitVec 17).toNat) = some yCopy ∧ (∀ g ∈ gs, (s.grain g).st ≠ 9) ∧ met.2 = true := by decide +kernel
def sqFork : State := (startFork sq1 0 1 2 10 0).getD State.reset
theorem witness_fork : sqFork.seqs.forks.find? (fun f => f.handle == (2 : BitVec 17).toNat) = some ⟨0, 1, 2⟩ := by decide +kernel
theorem test_fork : ((after (exec (.forkPublished 2) sqFork)).seq 2).version = 1 := by decide +kernel
theorem witness_reclaim : tabWf {} sq1.seqs.pages = true ∧ tabWf {} sqShared.seqs.pages = true := by decide +kernel
theorem test_epoch_tick : (after (exec .epochTick sq1)).seqs.epoch = 1 ∧ (after (exec .epochTick (after (exec .epochTick sq1)))).seqs.epoch = 1 := by decide +kernel
theorem test_walker_blocks : walkerBlocks { sq1 with seqs := { sq1.seqs with walkers := [(0, { epoch := some 5 })] } } 5 = true ∧
    walkerBlocks { sq1 with seqs := { sq1.seqs with walkers := [(0, { epoch := some 5 })] } } 4 = false := by decide +kernel

/-! The fabric's base: slice 7, this module is member 0 and master, members 1 and 2 are reached on every plane. -/

def route0 : Route := { configId := 1, version := 1, slice := 7, master := 0, backup := 1, stepLog2 := 10, sealAll := false,
                        entries := [(0, 0xC000), (1, 0x80FF), (2, 0x80FF)] }
def net (s : State) : State :=
  { s with fabric := { s.fabric with route := some route0, ports := (List.range 8).map (fun p => (p, { st := 0, width := 4 })) } }
theorem witness_ingress : (ingress (net sRun) pkt0 0).2 = true ∧ (ingress (net sRun) { pkt0 with slice := 6 } 0).2 = false ∧
    ingressOk (net sRun) { pkt0 with slice := 6 } 0 = false := by decide +kernel

/-! Rings: sequence 1 is bound with tag 1 to ring 3 of members 0 and 2. -/

def ringE : RingEntry := { st := 1, id := 3, members := [0, 2], index := 0, maxShard := 256, breakUs := 100 }
def withRing (s : State) (p : Option Pass) : State :=
  { net s with rings := { table := [(0, ringE)], binds := [(4, { used := true, ring := 3, tag := 1, handle := 1, visitor0 := 2, visitor1 := 3, visitor2 := 4, pass := p })] } }
/-- Records of both operations: arrival counter vid 1, done counter vid 2, step 0; 16 bytes of query rows at 0x100, one head. -/
def dRot : BitVec 1024 := BitVec.ofNat 1024 (1 + 0x11 * 2 ^ 24 + obj1 * 2 ^ 976 + obj2 * 2 ^ 928)
def dCirc : BitVec 1024 := BitVec.ofNat 1024 (1 + 0x12 * 2 ^ 24 + obj1 * 2 ^ 976 + obj2 * 2 ^ 928 + 0x100 * 2 ^ 880 + 16 * 2 ^ 496 + 1056 * 2 ^ 472 + 2 ^ 440 + 2 ^ 432)
def recOf (d : BitVec 1024) : WindowRec := ⟨0, 0, true, 0, 5, d, 0⟩
theorem witness_pass_record : ∀ d ∈ [(dRot, 0x11), (dCirc, 0x12)], let s := withRec (withRing sq1 none) (recOf d.1)
    s.seqs.records.find? (fun w => w.tile == 0 && w.ctx == 0 && w.pass) = some (recOf d.1) ∧ prOp (recOf d.1).num = d.2 ∧
      passRefusal { s with seqs := { s.seqs with records := s.seqs.records.erase (recOf d.1) } } (recOf d.1) = stOk ∧
      bindOfSeq s 1 = some 4 ∧ prHandle (recOf d.1).num = 1 ∧ ringOf s (s.bind 4).ring = some ringE := by decide +kernel
theorem witness_pass_refused : ∀ b : Bool, let d := if b then dRot else dCirc
    let s := withRec (net sq1) (recOf d)
    s.seqs.records.find? (fun w => w.tile == 0 && w.ctx == 0 && w.pass) = some (recOf d) ∧
      passRefusal { s with seqs := { s.seqs with records := s.seqs.records.erase (recOf d) } } (recOf d) = stBadArg := by decide +kernel
theorem test_rotate_accepted : ((after (exec (.rotate 0 0) (withRec (withRing sq1 none) (recOf dRot)))).bind 4).pass.isSome = true := by decide +kernel

def passOn (d : BitVec 1024) : Pass := { data := d, tile := 0, ctx := 0, slot := 0, domain := 5, walker := 896, version := 0, a0 := 0, d0 := 0 }
theorem witness_pass_begin : let s := withRing sq1 (some (passOn dRot))
    (s.bind 4).pass = some (passOn dRot) ∧ (passOn dRot).begun = none ∧ stepReached s (prG (passOn dRot).num) = true := by decide +kernel
theorem witness_pass_early : stepReached (withRing sq1 (some (passOn dRot))) 1 = false ∧
    prG { passOn dRot with data := dRot + BitVec.ofNat 1024 (2 ^ 592) }.num = 1 := by decide +kernel

def ringC : RingHdr := { ring0 with op := 0x12 }
def sCirc : State := (withRing sq1 (some (passOn dCirc))).setGrain 0 { st := 2, domain := 5 }
theorem witness_ring_message : let s := sCirc
    (∀ i ∈ [admitPacket s pkt0 4, ingress s pkt0 4], (ringMsg i pkt0 ringC).2 = some ringE ∧ passOf (ringMsg i pkt0 ringC).1 ringC = some 4 ∧
      ((ringMsg i pkt0 ringC).1.bind 4).pass = some (passOn dCirc)) ∧
      chunkKnown s ringE (s.bind 4) (passOn dCirc) (.query 0) 16 = true ∧
      (moverWrite s (passOn dCirc) (moverDie s (s.bind 4)) (.query 0) 0x100 5 (List.replicate 16 7)).2 = .served ∧
      (chunkPlace s (s.bind 4) (passOn dCirc) 2 true (.query 0)).1 = 0x100 := by decide +kernel
theorem witness_ring_message_held : let s := withRing sq1 (some (passOn dCirc))
    (ringMsg (admitPacket s pkt0 4) pkt0 ringC).2 = some ringE ∧ (moverWrite s (passOn dCirc) (moverDie s (s.bind 4)) (.query 0) 0x100 5 (List.replicate 16 7)).2 = .held := by decide +kernel
theorem test_ring_chunk : (after (exec (.ringChunkArrival pkt0 ringC (.query 0) none (List.replicate 16 7)) sCirc)).devRead 0x100 2 = [7, 7] := by decide +kernel
def first0 : RingFirst := ⟨0, 0, 2, 2, 1, 9, 0, 0, false, 0, 0, 0, 0⟩
theorem witness_ring_mismatch : ringOf sCirc (sCirc.bind 4).ring = some ringE ∧ firstCheck sCirc (sCirc.bind 4) (passOn dCirc) first0 ≠ stOk ∧
    (first0.domain ≠ (sCirc.seq (sCirc.bind 4).handle).domain) := by decide +kernel
theorem test_ring_mismatch : ((after (exec (.ringChunkArrival pkt0 ringC (.query 0) (some first0) (List.replicate 16 7)) sCirc)).bind 4).pass = none := by decide +kernel

def pBegun (rot : Bool) (t : Nat) : Pass := { passOn (if rot then dRot else dCirc) with begun := some t }
theorem witness_ring_due : ∀ rot, let s := withRing sq1 (some (pBegun rot 0))
    (s.bind 4).pass = some (pBegun rot 0) ∧ ringOf s (s.bind 4).ring = some ringE ∧ (pBegun rot 0).begun = some 0 ∧
      (if (pBegun rot 0).rotates then (pBegun rot 0).due < ringE.n else (pBegun rot 0).due = 0) ∧ (dueState s (pBegun rot 0) 0).2.2.1 = false := by decide +kernel
theorem witness_ring_due_met : ∀ rot, let p := { pBegun rot 0 with reached := 4, d0 := 0xFFFFFFFF }
    (dueState (withRing sq1 (some p)) p 0).2.2.1 = true ∧ (if p.rotates then p.due < ringE.n else p.due = 0) := by decide +kernel
theorem witness_ring_break : let s := withRing sq1 (some (pBegun true 0))
    (s.bind 4).used = true ∧ ringIx s 3 = some 0 ∧ (s.bind 4).ring = ringE.id ∧ (pBegun true 0).heldBy = [] := by decide +kernel
theorem witness_ring_hold_stands : ((withRing sq1 (some { pBegun true 0 with heldBy := [2] })).bind 4).pass = some { pBegun true 0 with heldBy := [2] } := by decide +kernel
theorem test_ring_break : ((after (exec (.ringBreakTimer 4) (withRing sq1 (some (pBegun true 0))))).ring 0).st = 2 := by decide +kernel
theorem test_broken_message : ((after (exec (.brokenMessage pkt0 ring0) (withRing sq1 (some (pBegun true 0))))).ring 0).st = 2 := by decide +kernel

/-! Collectives: group 9 of members 0 and 2. -/

/-- A sum of 16 elements of f32, consuming vid 1. -/
def plan0 : Nat := 16 * 2 ^ 240 + 0xFFFF * 2 ^ 224 + 2 ^ 208 + 0xFFFF * 2 ^ 192 + 9 * 2 ^ 180 + 2 ^ 168
def imgColl : Nat := image 0 [(1, List.replicate 8 0), (6, [0, 0, 0]), (7, [0, 2 ^ 32 + 2 ^ 48]), (13, [plan0])]
def grp0 : GroupEntry := { set := true, nextSeq := 1, members := [0, 2], self := 0, stallUs := 100 }
def coll1 (g : Nat) (q : Word32) : Coll := { group := g, seq := q, plan := BitVec.ofNat 512 plan0, slot := 0, tile := 0, ctx := 0, domain := 5, src := 0, dst := 0 }
def sColl (l : List Coll) : State := let s := net (runs imgColl {})
                                     { s with colls := { groups := [(9, grp0)], active := l } }
theorem witness_coll : let s := sColl []
    (s.ctx 0 0).slot = some 0 ∧ 0 < secCount (s.slot 0).image 0xD ∧ cpGroup (collPlan s 0 0) = 9 ∧ (s.group 9).set = true ∧
      cpConsume (collPlan s 0 0) ≠ 0xFFFF ∧ ctxVid s 0 0 (cpConsume (collPlan s 0 0)) = some obj1 ∧ s.colls.early = [] := by decide +kernel
theorem witness_coll_issues : Issues (sColl []) u0 := by unfold Issues; decide +kernel
def collFull : State := sColl ((List.range 256).map (fun k => coll1 8 (BitVec.ofNat 32 k)))
theorem witness_coll_full : 256 ≤ collFull.colls.active.length ∧ (∀ j ∈ collFull.colls.active, ¬ (j.group = 9 ∧ j.seq = 1)) := by decide +kernel
theorem witness_coll_full_issues : Issues collFull u0 := by unfold Issues; decide +kernel

def part0 : CollPart := ⟨1, 2, 0, 0⟩
def cGo : Coll := { coll1 9 0 with begun := true, granted := [part0], unacked := [⟨part0, 0, 1⟩], sent := [part0] }
theorem witness_coll_message : let s := sColl [cGo]
    let m := collMsg (ingress s pkt0 5) pkt0 9 0 0
    m.2 = true ∧ collOf m.1 9 0 = some cGo ∧ (m.1.group 9).index 2 = some 1 ∧ cGo.unacked.find? (fun u => u.part == part0) = some ⟨part0, 0, 1⟩ := by decide +kernel
theorem test_abandon : collOf (after (exec (.abandon pkt0 coll0 0) (sColl [cGo]))) 9 0 = none := by decide +kernel

def payload0 : List Byte := [1, 2, 3, 4]
def headerOf (len : Nat) : BitVec 512 :=
  let h := chunkHeader { grp0 with self := 1 } cGo part0 len
  BitVec.ofNat 512 (h + (chunkCrc h payload0).toNat * 2 ^ 448)
theorem witness_chunk : let h := (headerOf 4).toNat
    CollPart.mk (chSender h) (chStage h) (chPiece h) (chChunk h) = part0 ∧ chGroup h = 9 ∧ chSeq h = 0 ∧ chCheck h = 0 ∧
      chCrc h = (chunkCrc (h % 2 ^ 448) payload0).toNat ∧ payload0.length = chLength h := by decide +kernel
theorem witness_chunk_bad : let h := (headerOf 5).toNat
    CollPart.mk (chSender h) (chStage h) (chPiece h) (chChunk h) = part0 ∧ ¬ (payload0.length = chLength h) ∧ cGo.crcFails = [] := by decide +kernel
theorem witness_chunk_instance : let s := sColl [cGo]
    let m := chunkMsg (admitPacket s pkt0 5) pkt0 (headerOf 4)
    m.2 = true ∧ collOf m.1 9 0 = some cGo ∧ (m.1.group 9).id 1 = (2 : BitVec 12).toNat ∧ cGo.gathers = false ∧ part0 ∈ cGo.granted ∧ part0 ∉ cGo.got := by decide +kernel
/-- An all-gather of the same pieces to address 0 of near memory. -/
def cGather : Coll := { cGo with plan := BitVec.ofNat 512 (plan0 + 2 ^ 164) }
theorem witness_chunk_gathers : cGather.gathers = true ∧
    (match collPut ((sColl [cGather]).setGrain 0 { st := 2, domain := 5 }) cGather 0 (piecePlace cGather 0) payload0 id with
      | .go _ => true
      | _ => false) = true := by decide +kernel
theorem witness_chunk_again : part0 ∈ { cGo with got := [part0] }.got ∧ ({ cGo with granted := [] }.granted = []) := by decide +kernel
theorem test_chunk_nak : ((collOf (after (exec (.collChunkArrival pkt0 (headerOf 5) payload0) (sColl [cGo]))) 9 0).map (·.crcFails)) = some [(part0, 1)] := by decide +kernel
theorem test_crc64 : crc64 [0x31, 0x32, 0x33, 0x34, 0x35, 0x36, 0x37, 0x38, 0x39] = 0x995DC9BBDF1939FA := by decide +kernel
theorem witness_coll_stalled : collOf (sColl [{ cGo with stalled := true }]) 9 0 = some { cGo with stalled := true } ∧ cGo.stalled = false := by decide +kernel
theorem witness_resend_ring : let p := { pBegun true 0 with unacked := [⟨2, .shard 1 0 0, 0, 1⟩] }
    ((withRing sq1 (some p)).bind 4).pass = some p ∧ p.unacked.find? (fun v => v.dst == 2 && v.data == .shard 1 0 0) = some ⟨2, .shard 1 0 0, 0, 1⟩ := by decide +kernel

/-! The fabric. -/

def nf : State := net ((launched imgCode).setGrain 0 { st := 2, domain := 5 })
def pW : PktHdr := { pkt0 with address := 0x100 }
theorem witness_write : (admitPacket nf pW 0).2 = true ∧ completed (admitPacket nf pW 0).1 pW = false ∧ inGrains 0x100 = true ∧
    inKvArena (grainOf 0x100) = false ∧ inListArena (grainOf 0x100) = false ∧ ((admitPacket nf pW 0).1.grain (grainOf 0x100)).st = 2 ∧
    ((admitPacket nf pW 0).1.grain (grainOf 0x100)).domain = pW.domain := by decide +kernel
theorem witness_write_meets : ∀ e ∈ [(({ st := 1, domain := 5 } : Grain), Access.held), ({ st := 9, domain := 5 }, .refused stPoisoned)],
    let i := admitPacket (nf.setGrain 0 e.1) pW 0
    i.2 = true ∧ completed i.1 pW = false ∧ (devMeet i.1 0x100 1 5 true (die5 0)).2 = e.2 := by decide +kernel
def nfDone : State := { nf with fabric := { nf.fabric with complete := [(2, [1])] } }
theorem witness_write_complete : (admitPacket nfDone pW 0).2 = true ∧ completed (admitPacket nfDone pW 0).1 pW = true ∧
    (ingress nfDone pW 1).2 = true ∧ completed (ingress nfDone pW 1).1 pW = true := by decide +kernel
theorem witness_signal : (ingress nf { pW with aux := 1 } 1).2 = true ∧ (inXfer nf pW).got.length < ({ pW with aux := 1 } : PktHdr).aux.toNat % 2 ^ 24 := by decide +kernel
theorem test_write_stores : (after (exec (.write pW [7]) nf)).devRead 0x100 1 = [7] := by decide +kernel
theorem test_write_complete : (after (exec (.write pW [7]) nfDone)).dev = [] ∧ ((after (exec (.write pW [7]) nfDone)).counter 0x1400).value = 1 := by decide +kernel

/-- A transfer to module 2 with number 1. -/
def dRemote : Nat := 16 + 2 * 64 + 2 * 256 + 2 * 4096 + 0xFFFFFFFF * 2 ^ 16 + counts 4 + 2 * 2 ^ 240 + 0x100 * 2 ^ 416
def imgRem : Nat := image 0 [(1, List.replicate 8 0), (4, [dRemote]), (6, [0, 0, 0]), (7, [0, 2 ^ 32 + 2 ^ 48])]
def nfRem : State := net ((runs imgRem {}).setQueue 2 { enable := true, owner := some 0, state := 2, active := some { xRun with remote := some 1 } })
theorem witness_deny : (ingress nfRem pkt0 3).2 = true ∧ queueOf (ingress nfRem pkt0 3).1 pkt0.src.toNat pkt0.xfer = some 2 ∧
    ((ingress nfRem pkt0 3).1.queue 2).active = some { xRun with remote := some 1 } := by decide +kernel
theorem witness_ack : ∀ k ∈ [2, 7, 8, 9], (ingress nf pkt0 k).2 = true := by decide +kernel
def kW : Packet := { kind := 0, dst := 2, cls := 0, domain := 5, xfer := 1, payload := [7] }
def nfSent : State := { nf with fabric := { nf.fabric with sent := [⟨2, kW, 1⟩] } }
theorem witness_packet_resend : nfSent.fabric.sent.find? (fun e => e.packet.dst == 2 && e.packet.xfer == 1 && e.packet.index == (0 : BitVec 24).toNat) = some ⟨2, kW, 1⟩ := by decide +kernel
theorem test_ack : (after (exec (.ack { pkt0 with aux := 1 }) nfSent)).fabric.sent = [] ∧ (after (exec (.ack { pkt0 with index := 1, aux := 1 }) nfSent)).fabric.sent ≠ [] := by decide +kernel
def nfStall (b : BitVec 2) : State :=
  { nf with fabric := { nf.fabric with waiting := [kW], ports := [(0, { st := 0, width := 4, data0 := 0, shared := 0, stalled := b })] } }
theorem witness_credit_stall : kW ∈ (nfStall 0).fabric.waiting ∧ 0 ∈ effSet (nfStall 0) 2 ∧ ((nfStall 0).port 0).free 0 < kW.units ∧
    ((nfStall 0).port 0).stalled.getLsbD 0 = false ∧ ((nfStall 1).port 0).stalled.getLsbD 0 = true := by decide +kernel
theorem test_credit_return : (after (exec (.creditReturn 0 0 1) (nfStall 0))).fabric.waiting = [] := by decide +kernel

/-! Fabric time. -/

def withTime (s : State) (t : TimeUnit) : State := { s with time := t }
/-- The table of a follower: the master is module 2, the backup module b. -/
def netF (s : State) (b : BitVec 12) : State := let n := net s
                                               { n with fabric := { n.fabric with route := some { route0 with master := 2, backup := b } } }
def nt (b : BitVec 12) (t : TimeUnit) : State := withTime (netF (launched imgCode) b) t
theorem witness_time_request : ∀ v, let s := withTime nf { serving := v }
    (ingress s pkt0 6).2 = true ∧ (ingress s pkt0 6).1.time.serving = v := by decide +kernel
theorem witness_time_exchange : timeSource (nt 1 {}) = some 2 ∧ 2 ≠ moduleId (nt 1 {}) ∧ (nt 1 {}).time.serving = false := by decide +kernel
def reply0 : TimeReply := ⟨0, 100, 100, 200, 0, 0, true, true, 10⟩
theorem witness_time_reply : ∀ l ∈ [[], [(0 : Int)]], let s := nt 1 { st := .locked, delays := l }
    (ingress s pkt0 6).2 = true ∧ selfMaster (ingress s pkt0 6).1 = false ∧ isMaster (ingress s pkt0 6).1 2 = true ∧
      (ingress s pkt0 6).1.time.st = .locked ∧ exRejected (ingress s pkt0 6).1 reply0 = !l.isEmpty := by decide +kernel
theorem test_time_delay : exTheta reply0 = 0 ∧ exDelay reply0 = 100 ∧ exTheta ⟨0, 120, 120, 200, 0, 0, true, true, 10⟩ = 20 := by decide +kernel
theorem witness_time_takeover : let s := nt 0 { everLocked := true }
    selfMaster s = false ∧ s.time.serving = false ∧ selfBackup s = true ∧ s.time.everLocked = true ∧ s.time.stuck = false := by decide +kernel
theorem witness_time_follow_backup : let s := nt 1 { st := .holdover }
    selfMaster s = false ∧ s.time.serving = false ∧ selfBackup s = false ∧ s.time.st = .holdover := by decide +kernel
theorem witness_time_probe : (nt 1 { followBackup := true }).fabric.route = some { route0 with master := 2, backup := 1 } ∧ (nt 1 { followBackup := true }).time.followBackup = true := by decide +kernel
theorem witness_time_startup : selfMaster nf = true ∧ nf.time.startup = true ∧ nf.time.serving = false ∧ nf.time.stuck = false := by decide +kernel
theorem test_holdover : (after (exec .holdoverTimer (nt 1 { st := .locked }))).time.st = .holdover ∧ (after (exec .holdoverExpiry (nt 1 { st := .holdover }))).time.st = .free := by decide +kernel

/-! Halts, notices, sessions, ports. -/

def sHalt : State := net State.reset
theorem witness_halt : (ingress sHalt pkt0 7).2 = true ∧ (∀ n : Fin 16, (ingress sHalt pkt0 7).1.launch n = none) ∧
    (∀ m : Fin 8, ((ingress sHalt pkt0 7).1.mbx m).taken = none) := by decide +kernel
def sHalted : State := { sHalt with fabric := { sHalt.fabric with halts := [0] } }
theorem witness_halt_again : (ingress sHalted pkt0 7).2 = true ∧ (pkt0.aux.truncate 32) ∈ (ingress sHalted pkt0 7).1.fabric.halts := by decide +kernel
theorem test_notice : effSet (after (exec (.noticeDown { pkt0 with aux := 3 }) nf)) 2 = [0, 1, 2, 4, 5, 6, 7] := by decide +kernel
theorem witness_unreachable : chunksTo (sColl [cGo]) 2 = true ∧ 2 ∉ (sColl [cGo]).fabric.unreachable := by decide +kernel
theorem witness_unreachable_tried : let e : Sent := { queue := 1, packet := kW, tried := 0xFF }
    let s := { nf with fabric := { nf.fabric with sent := [e] } }
    e ∈ s.fabric.sent ∧ e.packet.dst = 2 ∧ ∀ k ∈ effSet s 2, e.tried.getLsbD k = true := by decide +kernel
def sess0 (x : Session) : State := net State.reset |>.setSess 2 x
def msg0 : SessionMsg := ⟨true, 1, 1, true, false, 9⟩
theorem witness_session : let s := sess0 { st := 1 }
    (ingress s pkt0 9).2 = true ∧ sessionOk (ingress s pkt0 9).1 pkt0 msg0 = true ∧ ((ingress s pkt0 9).1.sess 2).st = 1 ∧ s.fabric.waiting = [] := by decide +kernel
theorem witness_session_refused : sessionOk (ingress (sess0 {}) pkt0 9).1 pkt0 { msg0 with verified := false, answer := false } = false := by decide +kernel
theorem witness_session_rekey : ((sess0 { st := 2 }).sess (2 : BitVec 12).toNat).st = 2 ∧ ((sess0 { st := 2 }).sess (2 : BitVec 12).toNat).rekey = false := by decide +kernel
theorem witness_session_old : ∀ v, ((sess0 { st := 2, newSeen := v }).sess (2 : BitVec 12).toNat).newSeen = v := by decide +kernel
theorem test_session_opens : ((after (exec (.session pkt0 msg0) (sess0 { st := 1 }))).sess 2).st = 2 := by decide +kernel
theorem witness_sealed : let x := (sess0 { st := 2, high := 5000, seen := [5000] }).sess pkt0.src.toNat
    x.st = 2 ∧ pkt0.keyGen = x.gen ∧ 0 + 4096 ≤ x.high ∧ 5000 ∈ x.seen ∧ x.high < 5001 + 4096 ∧ 5001 ∉ x.seen ∧ pkt0.tagOk = true := by decide +kernel
theorem test_replay : (openSealed (sess0 { st := 2, high := 5000, seen := [5000] }) { pkt0 with sealed := true, ctr := 904 }).2 = false ∧
    (openSealed (sess0 { st := 2, high := 5000, seen := [5000] }) { pkt0 with sealed := true, ctr := 905 }).2 = true := by decide +kernel
theorem witness_lanes : let s := net State.reset
    (s.port 0).st ≠ 2 ∧ (s.port 0).failed ||| 1 ≠ 15 ∧ (s.port 0).failed ||| 15 = 15 ∧ s.fabric.waiting = [] := by decide +kernel
theorem witness_retrain : (((net State.reset).setPort 0 { st := 1 }).port 0).st = 1 := by decide +kernel
def sFlit (k : Nat) : State := { State.reset with fabric := { State.reset.fabric with flitFails := tabPut 0 [] 3 k } }
theorem witness_flit : tabGet 0 (sFlit 7).fabric.flitFails (Fin.val (n := 10) 3) = 7 ∧ tabGet 0 (sFlit 2).fabric.flitFails (Fin.val (n := 10) 3) + 1 ≠ 8 := by decide +kernel
theorem test_flit_eighth : (after (exec (.flitCrcFail 3 true) (sFlit 7))).cmd.module = 3 := by decide +kernel
theorem test_lane_widths : ((after (exec (.portRetrainDone 0) ((net State.reset).setPort 0 { st := 1, failed := 1 }))).port 0).width = 2 := by decide +kernel

/-! The host link. -/

/-- The interface is trusted and BAR2 under domain 5; grain 0 is in state g. -/
def sHost (g : Grain) (p : HostPort) : State :=
  let s := (launched imgCode).setGrain 0 g
  { s with host := { p with bar2Domain := 5 }, prot := { State.reset.prot with tdisp := .run, keyed := true } }
def gNear : Grain := { st := 2, domain := 5 }
def gHeld : Grain := { st := 1, domain := 5 }
def gPoison : Grain := { st := 9, domain := 5 }
theorem witness_doorbell : (sHost gNear {}).host.held = [] ∧ (sHost gNear {}).host.pokeOp = 0 ∧ (sHost gNear { pokeOp := 1 }).host.pokeOp = 1 ∧
    (sHost gNear { pokeOp := 2 }).host.pokeOp = 2 := by decide +kernel
theorem witness_doorbell_behind : let s := sHost gHeld { held := [.access (.write 256 [7])] }
    s.host.held = [.access (.write 256 [7])] ∧ (Bar2Access.write 256 [7]).meet s = .held ∧ (∀ g ∈ rangeGrains 256 1, (s.grain g).st ≠ 0) := by decide +kernel
def sPoke (o : SyncObj) : State := (sHost gNear { pokeAddr := 0xFF0000000010 }).setObj obj1 o
theorem witness_poke : ∀ k ∈ [(0 : Fin 4), 1], let o : SyncObj := { st := 0, kind := k, hostVisible := true, value := 5 }
    let s := sPoke o
    (s.obj obj1).waits = [] ∧ (s.obj obj1).takers = [] ∧ s.sync.notifs = [] ∧ (s.obj obj1).hostVisible = true ∧ (s.obj obj1).st = 0 ∧
      (s.obj obj1).kind = k ∧ (s.obj obj1).full = false ∧ pokeRead s = some 5 := by decide +kernel
theorem witness_poke_abandoned : ((sPoke { st := 2, hostVisible := true }).obj obj1).st = 2 ∧ ((sPoke { st := 2, hostVisible := true }).obj obj1).hostVisible = true ∧
    ((sPoke { st := 0, kind := 1, full := true, hostVisible := true }).obj obj1).full = true ∧ pokeRead (sPoke {}) = none := by decide +kernel
theorem test_poke_add : ((after (exec (.pokeAdd 7) (sPoke { st := 0, hostVisible := true, value := 0xFFFFFFFF }))).obj obj1).value = 6 := by decide +kernel

def sMbx (x : Mailbox) : State := (launched imgCode).setMbx 1 x
theorem witness_mailbox : ((sMbx {}).mbx 1).enable = false ∧ ((sMbx { enable := true }).mbx 1).enable = true := by decide +kernel
def mbxGo : Mailbox := { enable := true, tail := 1 }
theorem witness_mailbox_take : let s := sMbx mbxGo
    s.cmd.module ≠ 0 ∧ (s.mbx 1).enable = true ∧ (s.mbx 1).stopped = false ∧ (s.mbx 1).taken = none ∧ (s.mbx 1).head ≠ (s.mbx 1).tail ∧
      activating s = false := by decide +kernel
/-- A descriptor with a code and nothing else. -/
def dAct (op : Nat) : BitVec 512 := BitVec.ofNat 512 (op * 2 ^ 288)
theorem witness_descriptor : badDescriptor { desc := dAct 0x0802, args := [], order := 0 } = false ∧ badDescriptor { desc := dAct 0x0999, args := [], order := 0 } = true := by decide +kernel
theorem test_descriptor_failed : ((after (exec (.descriptorReadDone 1 none) (sMbx mbxGo))).mbx 1).error = 1 := by decide +kernel

def sEvq (q : EvQueue) : State := (launched imgCode).setEvq 0 q
theorem witness_evq : ((sEvq {}).evq 0).enable = false ∧ 6 ≤ ((sEvq {}).evq 0).log2 ∧ ((sEvq {}).evq 0).log2 ≤ 16 ∧ ((sEvq {}).evq 0).timing = false := by decide +kernel
theorem witness_moderation : let s := (sEvq { enable := true, timing := true }).setMsix 0 { control := 0 }
    (s.evq 0).enable = true ∧ (s.evq 0).armed = true ∧ (s.evq 0).irqMask = false ∧ (s.evq 0).timing = true ∧ (s.msix 0).control.getLsbD 0 = false := by decide +kernel
theorem witness_cons : let x := (sEvq { enable := true, prod := 3, cons := 1 }).evq 0
    ((2 : BitVec 32) - x.cons).toNat ≤ (x.prod - x.cons).toNat ∧ (x.prod - x.cons).toNat < ((4 : BitVec 32) - x.cons).toNat := by decide +kernel
theorem test_cons_refused : (after (exec (.evqConsWrite 0 4) (sEvq { enable := true, prod := 3, cons := 1 }))).host.error = 1 := by decide +kernel
def ev0 : Ev := { type := 0x2001, severity := 2, scope := 6 }
theorem witness_event : let q := (sEvq { enable := true }).evq 0
    q.enable = true ∧ q.lossFlag = false ∧ ev0.records ≤ 2 ^ q.log2 - q.waiting ∧ ev0.type < 2 ^ 16 ∧ ev0.status < 2 ^ 8 ∧ ev0.severity < 8 ∧ ev0.scope < 8 := by decide +kernel
theorem witness_event_lost : let q := (sEvq { enable := true, prod := 64 }).evq 0
    q.enable = true ∧ q.lossFlag = false ∧ 2 ^ q.log2 - q.waiting < ev0.records := by decide +kernel

theorem witness_bar2 : bar2Meet (sHost gNear {}) 256 4 false = .served ∧ bar2Meet (sHost gHeld {}) 256 4 false = .held ∧
    bar2Meet (sHost gPoison {}) 256 4 false = .poisoned ∧ bar2Meet (sHost { st := 2, domain := 6 } {}) 256 4 false = .refused ∧
    (sHost gNear {}).idle.module = false ∧ (sHost gNear {}).host.bar2Base.toNat + 256 = 256 := by decide +kernel
theorem witness_bar2_untrusted : bar2Meet { sHost gNear {} with prot := { State.reset.prot with tdisp := .error } } 256 4 false = .untrusted := by decide +kernel
theorem witness_bar2_write : bar2Meet (sHost gNear {}) 256 1 true = .served ∧ bar2Meet (sHost { st := 2, domain := 6 } {}) 256 1 true = .refused ∧
    grainOf 256 = grainOf (256 + 1 - 1) ∧ ((sHost gNear {}).grain (grainOf 256)).releasing = false := by decide +kernel
theorem witness_bar2_timeout : (sHost gHeld { held := [.access (.read 256 4)] }).host.held = [.access (.read 256 4)] := by decide +kernel
theorem test_bar2_crosses : ((after (exec (.bar2Write 65535 [1, 2]) ((sHost gNear {}).setGrain 1 gNear))).devRead 65535 2) = [1, 2] := by decide +kernel

theorem witness_registers : (launched imgCode).prot.tdisp = .unlocked ∧ (2 ^ 36 : BitVec 64).toNat % 2 ^ 48 % 2 ^ (launched imgCode).host.bar2Log2 = 0 ∧
    (2 ^ 36 : BitVec 64).toNat % 2 ^ 48 + 2 ^ (launched imgCode).host.bar2Log2 ≤ 0x100000000000 ∧
    ¬ ((4 : Nat) = 8 ∧ (2 : Nat) % 8 = 0) ∧ ¬ ((4 : Nat) = 4 ∧ (2 : Nat) % 4 = 0) ∧ (0 : BitVec 64).getLsbD 0 = false := by decide +kernel
theorem witness_frozen : ∀ t ∈ [Tdisp.locked, .run], ({ launched imgCode with prot := { State.reset.prot with tdisp := t } }).prot.tdisp = t := by decide +kernel
theorem witness_retrained : (launched imgCode).host.trainedRate = 64 ∧ (launched imgCode).host.trainedWidth = 16 := by decide +kernel
theorem test_frozen : (after (exec (.frozenRegisterWrite .bar2Base 0x1000000000) { launched imgCode with prot := { State.reset.prot with tdisp := .run } })).prot.tdisp = .error := by decide +kernel

/-! Memory tiers. -/

def withCxl (s : State) : State := s.setCxl 0 { inService := true, width := 3, frames := 1000 }
def sTier (x : Grain) : State := withCxl ((launched imgCode).setGrain 7 x)
def sNoNear : State := let s := sTier { st := 1, domain := 5 }
                       { s with tiers := { s.tiers with stacksUp := 0 } }
theorem witness_nothing_held : NothingHeld State.reset := ⟨rfl, rfl, rfl, rfl, fun _ => rfl⟩
theorem witness_backing_waits : let s := sNoNear.setGrain 9 { st := 2, domain := 5 }
    nearAlloc s 7 = none ∧ victims s ≠ [] ∧ (s.grain 7).st = 1 := by decide +kernel
theorem witness_backing : let s := sTier { st := 1, domain := 5 }
    (s.grain (7 : BitVec 28).toNat).st = 1 ∧ nearAlloc s (7 : BitVec 28).toNat = some (7, nearFirst) := by decide +kernel
theorem witness_backing_far : nearAlloc sNoNear 7 = none ∧ victims sNoNear = [] ∧ (giveFar sNoNear 7).2 = true ∧ (sNoNear.grain 7).st = 1 := by decide +kernel
def gFar : Grain := { st := 4, domain := 5, farHeld := true, farPort := 0 }
def sPend : State := let s := sTier { gFar with pending := true }
                     { s with tiers := { s.tiers with pend := [{ cls := 1, grain := 7 }] } }
theorem witness_promotion : nextPend sPend = some { cls := 1, grain := 7 } ∧ inKvArena 7 = false ∧ (sPend.grain 7).st = 4 ∧ (sPend.grain 7).pending = true ∧
    0 < nearFreeAll sPend ∧ (nearAlloc (dropMet sPend) 7).isSome = true ∧ nextPend (dropMet sPend) = some { cls := 1, grain := 7 } := by decide +kernel
theorem test_promotion : ((after (exec .promotionStart sPend)).grain 7).st = 5 := by decide +kernel
theorem witness_promotion_done : let x : Grain := { gFar with st := 5, target := some (7, 9) }
    ((sTier x).grain (7 : BitVec 28).toNat).st = 5 ∧ ((sTier x).grain (7 : BitVec 28).toNat).target = some (7, 9) ∧ x.releasing = false := by decide +kernel
theorem witness_scan : (({ st := 2, pins := 1 } : Grain).pins ≠ 0) ∧
    decide (nearFreeAll (sTier {}) < 131072) = false ∧ decide (nearFreeAll sNoNear < 131072) = true := by decide +kernel
theorem witness_eviction : ((sTier { gFar with st := 6 }).grain (7 : BitVec 28).toNat).st = 6 ∧ ({ gFar with st := 6 } : Grain).releasing = false ∧
    (giveFarAll (sTier { gFar with st := 6 }) 7).2 = true ∧ (giveFarAll ((launched imgCode).setGrain 7 { st := 6, domain := 5 }) 7).2 = false := by decide +kernel
theorem witness_move : let x : Grain := { st := 7, domain := 5, before := 2, target := some (1, 9) }
    ((sTier x).grain (7 : BitVec 28).toNat).st = 7 ∧ ((sTier x).grain (7 : BitVec 28).toNat).target = some (1, 9) ∧ x.releasing = false ∧ x.retire = false := by decide +kernel
theorem witness_horizon : let e := sq1.seq 1
    let list := leNat (sq1.hubRead (e.versionAddr.toNat + 64) 6)
    e.st = 1 ∧ e.layerFirst ≤ 0 ∧ 0 < e.layerCount.toNat ∧ 0 < cdiv (e.length - e.base) 128 ∧ bitAt (leNat (sq1.hubRead list 8)) 63 = true := by decide +kernel
theorem witness_horizon_far : let s := sq1.setGrain (pageGrain 0) gFar
    pageGrain 0 ∈ grainGroup s (pageGrain 0) ∧ (s.grain (pageGrain 0)).st = 4 := by decide +kernel

/-- Two errors in one codeword. -/
def eNear : CopyError := ⟨0, 0, [(0, 1), (1, 1)]⟩
theorem witness_error_sectors : let s := sTier gNear
    readSector s 7 ⟨0, 0, []⟩ = .clean ∧ readSector s 7 eNear = .uncorrectable ∧ hasCopy (s.grain 7) 2 = false ∧
      (match readSector s 7 ⟨0, 0, [(66, 9)]⟩ with
        | .corrected pos _ => pos == 66
        | _ => false) = true := by decide +kernel
theorem test_error_corrected : ((after (exec (.uncorrectableError 7 ⟨0, 0, [(66, 9)]⟩) (sTier gNear))).grain 7).st = 2 := by decide +kernel
theorem witness_error_poison : let s := sTier gNear
    hasCopy (s.grain 7) 0 = true ∧ (s.grain 7).st = 2 ∧ sourceMeans s (s.grain 7) = 0 ∧ hasCopy (s.grain 7) 1 = false := by decide +kernel
theorem witness_error_rebuild : let s := sTier { gNear with restorable := true, source := 0x50000 }
    (s.grain 7).st = 2 ∧ sourceMeans s (s.grain 7) = 4 := by decide +kernel
theorem witness_error_far : let s := sTier { gFar with st := 3 }
    (s.grain 7).st = 3 ∧ farMeans s (s.grain 7) = 1 ∧ (s.grain 7).mirrored = false ∧ (s.grain 7).farHeld = true := by decide +kernel
theorem test_error_poison : ((after (exec (.uncorrectableError 7 eNear) (sTier gNear))).grain 7).st = 9 := by decide +kernel
theorem witness_restore_grain : ∀ b ∈ [(3 : Fin 16), 4], let x : Grain := { gFar with st := 8, before := b, means := 1, target := if b = 3 then some (7, 9) else none }
    let s := sTier x
    (s.grain (7 : BitVec 28).toNat).st = 8 ∧ x.releasing = false ∧ (rebuiltBytes s 7 x).isSome = true ∧ x.farHeld = true ∧ x.mirrored = false := by decide +kernel
theorem witness_stack : let s := sTier { gNear with stack := 3 }
    stackUp s 3 = true ∧ tabWf {} s.tiers.dir = true ∧ hasCopy (s.grain 7) 0 = true ∧ (s.grain 7).stack.val = 3 ∧ hasCopy (s.grain 8) 0 = false ∧
      sourceMeans s (s.grain 7) = 0 := by decide +kernel
theorem test_stack : ((after (exec (.stackUnresponsive 3) (sTier { gNear with stack := 3 }))).grain 7).st = 9 := by decide +kernel
theorem witness_cxl_timeout : let s := sTier gNear
    (s.cxl 0).inService = true ∧ (s.cxl 0).timeouts = 0 ∧ (s.grain 7).st ≠ 4 ∧ (s.grain 7).st ≠ 5 ∧
      1 ≤ ((s.setCxl 0 { inService := true, timeouts := 1 }).cxl 0).timeouts := by decide +kernel
theorem witness_cxl_down : ∀ b ∈ [(3 : Fin 16), 4], let s := sTier { gFar with st := b }
    (s.cxl 0).inService = true ∧ tabWf {} s.tiers.dir = true ∧ (s.grain 7).farHeld = true ∧ (s.grain 7).mirrorHeld = false ∧ (s.grain 7).farPort = 0 ∧
      (s.grain 7).st = b := by decide +kernel
theorem witness_cxl_down_mirror : let s := sTier { gFar with mirrored := true, mirrorHeld := true }
    (s.grain 7).farHeld = true ∧ (s.grain 7).mirrorHeld = true ∧ (s.grain 7).st ≠ 8 ∧ (s.grain 7).st ≠ 9 ∧ (s.grain 8).farHeld = false ∧ (s.grain 8).mirrorHeld = false := by decide +kernel
theorem test_cxl_down : ((after (exec (.cxlLinkDown 0) (sTier gFar))).grain 7).st = 9 ∧ ((after (exec (.cxlLinkDown 0) (sTier { gFar with st := 3 }))).grain 7).st = 2 := by decide +kernel

/-! Mailbox commands: mailbox 1 has taken one. -/

def taken (op args : Nat) (ext : List Byte) : Taken := { desc := BitVec.ofNat 512 (op * 2 ^ 288 + args), args := ext, order := 1 }
def cmdOf (s : State) (op args : Nat) (ext : List Byte := []) : State :=
  { s with cmd := { s.cmd with module := 1, bound := true } }.setMbx 1 { enable := true, taken := some (taken op args ext) }
/-- Mailbox 1 holds a command that runs. -/
def runsNow (s : State) (op args : Nat) (ext : List Byte := []) : Bool :=
  let t := cmdOf s op args ext
  let k := taken op args ext
  (t.mbx 1).taken == some k && k.op == op && !k.working && k.waits.isEmpty && !k.silent && !cmdWaits t 1 k && gateOk t k

/-- DOMAIN_OPEN of domain 6 behind a DOMAIN_CLOSE of it that mailbox 0 took before. -/
def sWaits : State := (cmdOf (launched imgCode) 0x0103 6).setMbx 0 { enable := true, taken := some { taken 0x0104 6 [] with order := 0 } }
theorem witness_command_waits : mailboxRow (.domainOpen 1) = some (1, 0x0103, anyAction) ∧ (sWaits.mbx 1).taken = some (taken 0x0103 6 []) ∧
    (taken 0x0103 6 []).op = 0x0103 ∧ anyAction (taken 0x0103 6 []) = true ∧ cmdWaits sWaits 1 (taken 0x0103 6 []) = true := by
  refine ⟨rfl, ?_⟩; decide +kernel
def sService : State := { cmdOf (launched imgCode) 0x0103 6 with cmd := { module := 2, domains := [5] } }
theorem witness_command_refused : cmdWaits sService 1 (taken 0x0103 6 []) = false ∧ gateOk sService (taken 0x0103 6 []) = false ∧
    (sService.mbx 1).taken = some (taken 0x0103 6 []) := by decide +kernel
theorem test_command_refused : ((after (exec (.domainOpen 1) sService)).mbx 1).status = BitVec.ofNat 8 stConflict := by decide +kernel
/-- It asks for a response of 64 bytes at 0x1000 and for no event. -/
def kResp : Taken := taken 0x0103 (6 + 0x1000 * 2 ^ 448 + 64 * 2 ^ 320 + 2 ^ 280) []
theorem witness_response : kResp.silent = false ∧ kResp.quiet = true ∧ 16 + [(1 : Byte)].length ≤ kResp.respLen ∧ kResp.respAddr = 0x1000 ∧
    { kResp with silent := true }.silent = true := by decide +kernel
theorem test_response : (finish ((launched imgCode).setMbx 1 { taken := some kResp }) 1 stOk [7]).hostRead 0x1010 1 = [7] := by decide +kernel

/-! A whole image: CODE with one END, the context 0 of tile 0, one buffer range, and the digest. -/

def dirOf (type start count : Nat) : Nat := type + start * 2 ^ 64 + secSize type * count * 2 ^ 128 + count * 2 ^ 192 + secSize type * 2 ^ 224
def rawImage : Nat :=
  0x49534C4E + 2 ^ 32 + 3 * 2 ^ 96 + 1040 * 2 ^ 128 + 256 * 2 ^ 192 + 2 ^ 512 +
    (dirOf 1 512 1 + dirOf 2 768 1 * 2 ^ 256 + dirOf 3 1024 1 * 2 ^ 512) * 2 ^ 2048 + 0x10 * 2 ^ (120 + 8 * 512) + 256 * 2 ^ (96 + 8 * 1024)
def imgGood : Nat := rawImage +
  0xd0ec8e01d3ffff72f07137b4631f889d1e8a104299ee6165dfe11764603214e659ae5af24c58e855c48acc3bd288d697 * 2 ^ 768
def imageBytes : List Byte := leBytes 1040 imgGood
/-- The image stands at 0x10000, in a grain of domain 5; every slot is free. -/
def sLoad : State :=
  let s := ({ launched imgCode with slots := [] }).setGrain 1 gNear
  cmdOf { s with dev := imageBytes.zipIdx.filterMap (fun p => if p.1 = 0 then none else some (0x10000 + p.2, p.1)) } 0x0201 (0x10000 + 1040 * 2 ^ 64 + 5 * 2 ^ 96)
def readOk (r : List Byte ⊕ Option Nat) (l : List Byte) : Bool :=
  match r with
  | .inl x => x == l
  | .inr _ => false
set_option maxRecDepth 20000 in
theorem witness_load : runsNow { launched imgCode with slots := [] } 0x0201 (0x10000 + 1040 * 2 ^ 64 + 5 * 2 ^ 96) = true ∧
    (taken 0x0201 (0x10000 + 1040 * 2 ^ 64 + 5 * 2 ^ 96) []).arg 47 0 % 256 = 0 ∧ (taken 0x0201 (0x10000 + 1040 * 2 ^ 64 + 5 * 2 ^ 96) []).arg 95 64 = 1040 ∧
    domainOpen sLoad 5 = true ∧ readOk (readImage 5 (1040 / 65536 + 2) sLoad 0x10000 1040).2 imageBytes = true ∧
    allSlots.find? (fun i => !(sLoad.slot i).loaded) = some 0 := by decide +kernel
set_option maxRecDepth 20000 in
theorem witness_image : loadRefusal sLoad imageBytes = none := by decide +kernel

/-- The image loaded in slot 0, launched or not; its handle is 16. -/
def sLoaded (l : Option Launch) : State :=
  { launched imgGood with slots := [(0, { loaded := true, generation := 1, image := imgGood, length := 1040, domain := 5, launch := l })] }
theorem witness_unload : runsNow (sLoaded none) 0x0202 16 = true ∧ handleSlot (sLoaded none) ((taken 0x0202 16 []).arg 15 0) = some 0 ∧
    (sLoaded none).launch 0 = none := by decide +kernel
def launchArgs : List Byte := leBytes 16 (16 + 5 * 2 ^ 16)
theorem witness_launch : let s := sLoaded none
    let k := taken 0x0203 0 launchArgs
    runsNow s 0x0203 0 launchArgs = true ∧ bits (k.ext % 2 ^ 128) 31 26 = 0 ∧ bits (k.ext % 2 ^ 128) 63 56 = 0 ∧ bits (k.ext % 2 ^ 128) 127 96 = 0 ∧
      bits (k.ext % 2 ^ 128) 95 64 ≤ 1000000 ∧ domainOpen s (BitVec.ofNat 10 (bits (k.ext % 2 ^ 128) 25 16)) = true ∧
      handleSlot s (bits (k.ext % 2 ^ 128) 15 0) = some 0 ∧ overPlan imgGood (launchX k) = none ∧ needsFailed s imgGood = false ∧
      launchBusy s 0 imgGood = false ∧ badGroups s imgGood = false ∧ (ctxEntries imgGood).length = 1 := by decide +kernel
theorem test_launch : ((after (exec (.schedLaunch 1) (cmdOf (sLoaded none) 0x0203 0 launchArgs))).launch 0).map (·.number) = some 2 := by decide +kernel
theorem witness_stop : ∀ op ∈ [0x0204, 0x0205], runsNow (sLoaded (some launch1)) op 16 = true ∧
    handleSlot (sLoaded (some launch1)) ((taken op 16 []).arg 15 0) = some 0 ∧ (sLoaded (some launch1)).launch 0 = some launch1 ∧ launch1.halted = false := by decide +kernel
theorem witness_preempt : ∀ st ∈ [CtxSt.running, .ready, .spinning, .parked], let s := (sLoaded (some launch1)).setCtx 0 0 { st := st, slot := some 0 }
    (s.ctx 0 0).slot = some 0 ∧ (s.ctx 0 0).pre = .none ∧ (s.ctx 0 0).st = st ∧ runsNow s 0x0205 16 = true := by decide +kernel
theorem test_preempt : ((after (exec (.schedPreempt 1) (cmdOf ((sLoaded (some launch1)).setCtx 0 0 { st := .running, slot := some 0 }) 0x0205 16))).ctx 0 0).pre = .drain := by decide +kernel
def sHaltedLaunch : State := (sLoaded (some { launch1 with halted := true })).setCtx 0 0 { st := .halted, slot := some 0 }
theorem witness_resume : runsNow sHaltedLaunch 0x0206 16 = true ∧ handleSlot sHaltedLaunch ((taken 0x0206 16 []).arg 15 0) = some 0 ∧
    sHaltedLaunch.launch 0 = some { launch1 with halted := true } ∧ (sHaltedLaunch.ctx 0 0).slot = some 0 ∧ (sHaltedLaunch.ctx 0 0).st = .halted := by decide +kernel
theorem witness_halt_commands : runsNow (sLoaded none) 0x0102 7 = true ∧ bitAt (taken 0x0102 7 []).num 32 = false ∧
    runsNow (sLoaded none) 0x0102 (7 + 2 ^ 32) = true ∧ bitAt (taken 0x0102 (7 + 2 ^ 32) []).num 32 = true ∧ (∀ n : Fin 16, (sLoaded none).launch n = none) ∧
    (sLoaded none).fabric.halts = [] := by decide +kernel

/-! Sequence, ring and group commands. -/

def aCreate : Nat := 256 * 2 ^ 32 + 2 ^ 72 + 2 ^ 80 + 2 * 2 ^ 86 + 2 * 2 ^ 90 + 5 * 2 ^ 104
theorem witness_seq_create : let k := taken 0x0301 aCreate []
    let s := cmdOf (launched imgCode) 0x0301 aCreate
    runsNow (launched imgCode) 0x0301 aCreate = true ∧ badSeq k = false ∧ domainOpen s (BitVec.ofNat 10 (k.arg 113 104)) = true ∧ freeHandle s = some 0 ∧
      (createSeq s 0 (newSeq k)).isSome = true := by decide +kernel
def aSeq (p : Nat) : Nat := 1 + 5 * 2 ^ 32 + p * 2 ^ 64
theorem witness_seq_fork : let k := taken 0x0302 (aSeq 10) []
    let s := cmdOf sq1 0x0302 (aSeq 10)
    let e := s.seq 1
    runsNow sq1 0x0302 (aSeq 10) = true ∧ k.arg 16 0 = 1 ∧ e.st = 1 ∧ isVisitor s 1 = false ∧ k.arg 41 32 = e.domain.toNat ∧ e.base ≤ k.arg 95 64 ∧
      k.arg 95 64 ≤ e.length ∧ k.arg 127 96 = 0 ∧ k.arg 95 64 - e.base ≤ e.capacity ∧ freeHandle s = some 0 ∧ (startFork s 1 1 0 10 e.capacity).isSome = true := by decide +kernel
theorem witness_seq_truncate_free : runsNow sq1 0x0303 (aSeq 4) = true ∧ (truncSeq (cmdOf sq1 0x0303 (aSeq 4)) 1 4).isSome = true ∧
    runsNow sq1 0x0304 (aSeq 0) = true ∧ ((cmdOf sq1 0x0304 (aSeq 0)).seq 1).st = 1 := by decide +kernel
theorem test_seq_free : ((after (exec (.seqFree 1) (cmdOf sq1 0x0304 (aSeq 0)))).seq 1).st = 2 := by decide +kernel

/-- FORM of ring 3 with members 0 and 2; the further actions on ring 3, sequence 1 and tag 1. -/
def aForm : Nat := 3 * 2 ^ 8 + 256 * 2 ^ 32 + 2 * 2 ^ 176
def members2 : List Byte := [0, 0, 2, 0]
def nr : State := net (launched imgCode)
set_option maxRecDepth 20000 in
theorem witness_ring_form : let k := taken 0x0305 aForm members2
    let s := cmdOf nr 0x0305 aForm members2
    runsNow nr 0x0305 aForm members2 = true ∧ s.cmd.bound = true ∧ k.arg 7 0 = 0 ∧ k.arg 19 8 = 3 ∧ ringN k = 2 ∧ badMembers s (memberArgs k 2) = false ∧
      k.arg 63 32 = 256 ∧ k.arg 95 64 = 0 ∧ ringIx s 3 = none ∧ (memberArgs k 2).all (hasRoute s) = true ∧ pipelineClash s 2 = false ∧
      firstUnused 0 64 s.rings.table = some 0 := by decide +kernel
def aRing (a : Nat) : Nat := a + 3 * 2 ^ 8 + 2 ^ 96 + 5 * 2 ^ 128 + 2 ^ 144
def sqRing : State := { net sq1 with rings := { table := [(0, ringE)], binds := [] } }
theorem witness_ring_dissolve : let s := cmdOf sqRing 0x0305 (1 + 3 * 2 ^ 8)
    runsNow sqRing 0x0305 (1 + 3 * 2 ^ 8) = true ∧ ringIx s 3 = some 0 ∧ ringBound s 3 = 0 := by decide +kernel
theorem witness_ring_bind : let k := taken 0x0305 (aRing 2) []
    let s := cmdOf sqRing 0x0305 (aRing 2)
    runsNow sqRing 0x0305 (aRing 2) = true ∧ k.arg 7 0 = 2 ∧ k.arg 19 8 = 3 ∧ k.arg 112 96 = 1 ∧ k.arg 159 144 = 1 ∧ ringOf s 3 = some ringE ∧ (s.seq 1).st = 1 ∧
      isVisitor s 1 = false ∧ k.arg 137 128 = (s.seq 1).domain.toNat ∧ bindOfSeq s 1 = none ∧ bindOfTag s 3 1 = none ∧ ringE.st ≠ 2 ∧
      firstUnused 0 16384 s.rings.binds = some 0 ∧ 3 ≤ freeHandles s ∧ 3 * cdiv ringE.maxShard 128 * (s.seq 1).layerCount.toNat ≤ slotsFree s ∧
      (makeBinding s 3 1 1 0 (cdiv ringE.maxShard 128)).isSome = true := by decide +kernel
theorem witness_ring_unbind : let s := cmdOf (withRing sq1 none) 0x0305 (aRing 3)
    runsNow (withRing sq1 none) 0x0305 (aRing 3) = true ∧ ringOf s 3 = some ringE ∧ bindOfSeq s 1 = some 4 ∧ (s.bind 4).ring = 3 ∧ (s.bind 4).pass = none := by decide +kernel
def aGroup : Nat := 9 * 2 ^ 8 + 2 * 2 ^ 64
theorem witness_group_set : let k := taken 0x0306 aGroup members2
    let s := cmdOf nr 0x0306 aGroup members2
    runsNow nr 0x0306 aGroup members2 = true ∧ k.arg 7 0 = 0 ∧ k.arg 19 8 = 9 ∧ groupN k = 2 ∧ badMembers s (memberArgs k 2) = false ∧ k.arg 63 32 = 0 ∧
      (memberArgs k 2).all (hasRoute s) = true ∧ (s.group 9).set = false := by decide +kernel
theorem witness_group_clear : let s := cmdOf (sColl []) 0x0306 (1 + 9 * 2 ^ 8)
    runsNow (sColl []) 0x0306 (1 + 9 * 2 ^ 8) = true ∧ (s.group 9).set = true ∧ groupActive s 9 = 0 := by decide +kernel

/-! Placement hints on grains 7 and 8. -/

def aHint (a v : Nat) : Nat := a + 5 * 2 ^ 8 + 0x70000 * 2 ^ 64 + 0x20000 * 2 ^ 128 + v * 2 ^ 192
def sHint (a v : Nat) (g : Grain) : State := cmdOf (((launched imgCode).setGrain 7 g).setGrain 8 g) 0x0401 (aHint a v)
theorem witness_hints : ∀ a ∈ List.range 9, let k := taken 0x0401 (aHint a 0) []
    runsNow ((launched imgCode).setGrain 7 gNear) 0x0401 (aHint a 0) = true ∧ k.arg 3 0 = a ∧ k.arg 17 8 = 5 ∧ inHint k 7 = true ∧ inHint k 8 = true ∧
      inHint k 9 = false ∧ hintCount k = 2 := by decide +kernel
theorem witness_hint_ok : let k := taken 0x0401 (aHint 0 0) []
    let s := sHint 0 0 gNear
    domainOpen s (BitVec.ofNat 10 (k.arg 17 8)) = true ∧ k.arg 111 64 % 65536 = 0 ∧ k.arg 175 128 % 65536 = 0 ∧ k.arg 175 128 ≤ 64 * 2 ^ 30 ∧
      k.arg 111 64 + k.arg 175 128 ≤ 0x100000000000 ∧ (∀ e ∈ s.tiers.dir, inHint k e.1 = true → e.2.st = 0 ∨ e.2.domain.toNat = k.arg 17 8) := by decide +kernel
theorem witness_pin_unpin : let k := taken 0x0401 (aHint 3 0) []
    (∀ e ∈ hintEntries (sHint 3 0 gNear) k, e.2.pins ≠ 255) ∧
      pinnedGrains (sHint 3 0 gNear) + hintCount k - ((hintEntries (sHint 3 0 gNear) k).filter (fun e => e.2.pins != 0)).length ≤ pinLimit ∧
      ((hintEntries (sHint 4 0 { gNear with pins := 1 }) k).filter (fun e => e.2.pins != 0)).length = hintCount k := by decide +kernel
def sMirror : State := ((sHint 5 0 gNear).setCxl 0 { inService := true, width := 3, frames := 1000 }).setCxl 1 { inService := true, width := 3, frames := 1000 }
theorem witness_mirror : let k := taken 0x0401 (aHint 5 0) []
    (sMirror.cxl 0).inService = true ∧ (sMirror.cxl 1).inService = true ∧ mirrorNeed sMirror k 0 ≤ farFree sMirror 0 ∧ mirrorNeed sMirror k 1 ≤ farFree sMirror 1 := by decide +kernel
theorem witness_source : let k := taken 0x0401 (aHint 7 0x50000) []
    k.arg 239 192 % 65536 = 0 ∧ k.arg 239 192 + k.arg 175 128 ≤ 0x100000000000 := by decide +kernel
theorem witness_release : let k := taken 0x0401 (aHint 8 0) []
    (∀ e ∈ hintEntries (sHint 8 0 gNear) k, e.2.pins = 0 ∧ e.2.cacheable = false) ∧ overlaps (hintStart k) (hintCount k) 0x08000000 0x07000000 = false ∧
      (sHint 8 0 gNear).host.held = [] ∧ ((sHint 8 0 gNear).grain 7).st.val < 5 := by decide +kernel
theorem witness_horizon_command : runsNow (launched imgCode) 0x0401 (9 + 200 * 2 ^ 192) = true ∧ (taken 0x0401 (9 + 200 * 2 ^ 192) []).arg 3 0 = 9 ∧
    (taken 0x0401 (9 + 200 * 2 ^ 192) []).arg 239 192 = 200 := by decide +kernel
theorem test_pin : ((after (exec (.pin 1) (sHint 3 0 gNear))).grain 8).pins = 1 ∧ ((after (exec (.pin 1) (sHint 3 0 gNear))).grain 9).pins = 0 := by decide +kernel

/-! Notifications and the wake tolerance. -/

theorem witness_tolerance : runsNow (launched imgCode) 0x0501 50 = true ∧ (taken 0x0501 50 []).arg 31 0 = 50 := by decide +kernel
/-- Host-visible objects at 0x100, and SYNC_SIGNAL action op on them with queue 1 and value 3. -/
def aSignal (op : Nat) : Nat := op + 2 ^ 8 + 0x100 * 2 ^ 64 + 3 * 2 ^ 128
def sSignal (op : Nat) (o : SyncObj) : State := cmdOf ((launched imgCode).setObj 0x100 { o with hostVisible := true }) 0x0402 (aSignal op)
theorem witness_signal_command : ∀ op ∈ List.range 6, let k := taken 0x0402 (aSignal op) []
    runsNow (launched imgCode) 0x0402 (aSignal op) = true ∧ k.arg 111 64 = 0x100 ∧ k.arg 3 0 = op ∧ k.arg 15 8 ≤ 3 := by decide +kernel
theorem witness_signal_objects : (∀ kind ∈ [(0 : Fin 4), 1, 2, 3], ∀ st ∈ [(0 : Fin 4), 1, 2], ∀ full ∈ [true, false],
    let o := (sSignal 0 { kind := kind, st := st, full := full }).obj 0x100
    o.hostVisible = true ∧ o.kind = kind ∧ o.st = st ∧ o.full = full ∧ o.waits = []) ∧ (sSignal 5 {}).sync.notifs = [] := by decide +kernel
theorem test_signal_set : ((after (exec (.syncSignalSet 1) (sSignal 1 { kind := 0, st := 0 }))).obj 0x100).count = 3 ∧
    ((after (exec (.notify 1) (sSignal 5 { kind := 0, st := 0 }))).sync.notifs.map (·.threshold)) = [3] := by decide +kernel

/-! Maintenance and counters. -/

theorem witness_maintenance : ∀ a ∈ [1, 2, 3, 4, 7], let s := cmdOf (launched imgCode) 0x0502 (a + 2 ^ 9)
    let t := if a = 4 then 0 else (taken 0x0502 (a + 2 ^ 9) []).arg 15 8
    runsNow (launched imgCode) 0x0502 (a + 2 ^ 9) = true ∧ (taken 0x0502 (a + 2 ^ 9) []).arg 7 0 = a ∧ maintTargetOk a t = true ∧ s.cmd.maint = [] ∧
      collides s a t = none := by decide +kernel
def withMaint (s : State) (l : List Maint) : State := { s with cmd := { s.cmd with maint := l } }
theorem witness_maintenance_collides : ∀ a ∈ [(1 : Fin 8), 2, 3, 4, 7],
    let s := withMaint (launched imgCode) [{ inst := 1, activity := a, target := if a = 4 then 0 else 2, started := 0 }]
    runsNow s 0x0502 (a.val + 2 ^ 9) = true ∧ (collides (cmdOf s 0x0502 (a.val + 2 ^ 9)) a.val (if a.val = 4 then 0 else 2)).isSome = true := by decide +kernel
theorem witness_maintenance_ends : ∀ a ∈ [(1 : Fin 8), 2, 4],
    (withMaint (launched imgCode) [{ inst := 1, activity := a, target := 0, started := 0 }]).cmd.maint.find? (fun x => x.inst == 1 && x.activity != 6) =
      some { inst := 1, activity := a, target := 0, started := 0 } := by decide +kernel
theorem witness_maintenance_status : let s := cmdOf (withMaint (launched imgCode) [{ inst := 1, activity := 1, target := 0, started := 0 }]) 0x0503 1
    runsNow (launched imgCode) 0x0503 0xFFFFFFFF = true ∧ (taken 0x0503 0xFFFFFFFF []).arg 31 0 = 0xFFFFFFFF ∧
      (∃ x ∈ s.cmd.maint ++ s.cmd.ended, x.inst = BitVec.ofNat 32 ((taken 0x0503 1 []).arg 31 0)) := by decide +kernel
theorem witness_counter_read : ∀ sp ∈ [0, 1, 2, 3, 4, 6], ∀ b ∈ [0, 1], let a := sp + (if sp = 0 then b else 0) * 2 ^ 8 + 5 * 2 ^ 64 + 2 ^ 96
    let k := taken 0x0601 a []
    runsNow (launched imgCode) 0x0601 a = true ∧ k.arg 7 0 = sp ∧ k.arg 95 64 = 5 ∧ k.arg 111 96 = 1 ∧ (spaceOf sp).any (fun e => decide (6 ≤ e.1)) = true ∧
      k.respLen = 0 ∧ (sp = 0 → bitAt k.num 8 = (b == 1)) := by decide +kernel

/-! Protection records.  The keys are 11·G, 22·G, 33·G and 44·G of P-384, every signature has the same r. -/

def kOp : Nat :=
  0xbbe0c53881ba5d7d35ffaa6312d5665425a3521bf493ff43fd63c3dfd8eec46f39e0c54a5405856896ab304e230c4c2ed8ddb4553b6f3526d681fb3a6eb649478c3f2d8914fdc95674c33758ed35e97fc5164890c2ee1eda98b9a77de2569009
def kCu : Nat :=
  0x59d0d6b31075b9a85d2788006b70002d4294d799173c14bcf2af80db1a3dc4f89d0959b805a2c0711039492d215c49e337a3adf9cc75f331584a207748352de4de0636f5cb430ec092413cf34b9020c36b6544fe206b7448d8291dfb4dbc3a1a
def kNewO : Nat :=
  0xbb33d32667069a597043bfaba75e14d32795bda9abf2867bf1f51165714af5ef0fd37383147ea7128918f84d69268c822a802c48ec7ffdaee23fdd7ad9ae1e630dc9be703f6b24afbd549f8715274955c9b63b77f25827a9bc1bc23882d5db38
def kNewC : Nat :=
  0xe330a0b8cafa13d7a1d7b1257da8ee68e0609efca31bf3d32c31215a143e85733d05d9a5d9c1aa25d4292282b47476c8c029f5535d348d22e69ee220b9cdcf8241fc892cb375be0a4c792d8aa2347675941f9ad6b65a7c461a80f9e937a3673a
def sigs (s t : Nat) : Nat :=
  let r := 0x3969a6e53f5cd6bf137a6765d37aeaae87c96789aaa9a4f5650a8307e3e4dc73e25c691696fd69c37bf4e2b8557ea1d8
  r + s * 2 ^ 384 + r * 2 ^ 768 + t * 2 ^ 1152
def sigEnroll : Nat := sigs 0xf404ab0c34ccd6bb3548200e457bb03c14c887673d17919a251a5f5d1f155ddf5b0ed20224849555b64075f0232d41b0
  0x8f4cd5c90e42bf66422d4a2086c3b688464185343550fad0ab2db6c872c9e84c8ba2235c60e821dcb1616adfb93d28b9
def sigUnbind : Nat := sigs 0x3ac78f8aa6dbe841a3569723cbcfa2c3e7791657b25f214d452a3a487cc793162a6402b69ff216a317a8ccf3a2b24405
  0xd50eba478151d1ecaf3bc1350c18a90f1af31324aa988a83cb3d91b3cf7b1f8459f8530fdc56a32913c9c1e238c32b0e
def sigFw : Nat := sigs 0x499dd491ef8ebcdfb57ab5a35d415cf30b9ca60346feb7ab3f22709a864efaeb76227c8135776a41b7b5b9bf602babae
  0xe4e4fe4eca04a58ac25fdfb59e89623f3e15a4d03d3721e2c535c705da028659a6b6cdda71dbf6c7b2d6aeaef63b92b7
def sigRotate : Nat := sigs 0x538637a4d8f649a0ec88df3996cab569cd2beea112362029b8fe081d28085b0eeffd72211c837408c60868a06796c02d
  0xeecd6161b36c324bf96d094cd712bcb5ffa4eb6e0a6f895f3e1260887bbce67b1e92c47a58e7008fc1295d8ffda6a736
def sigStep : Nat := sigs 0x9f910ab248b39e6c1f110b9dfe7fb9bac69b325b41c613e0a99407b63ee3215f17003e74b9f34ca7e09a508edb92fd29
  0x3ad9346f232987172cf634af3fc8bf06f914302839ff7c1630a85e219297adcc46948fcdf557d92ddcbb457d71a3e432
def sigTrace : Nat := sigs 0x6c9a8205bd1be43ad40ab0345ce660b0a1da1a9402596c2d372cdf0420c9f0f26754103a16dd106c8424ce8146739d80
  0x7e2acc29791cce5e0efd9469d2e67fcd3531861fa91d563bd3f3670737d7c6097e8619352419df27f45c370dc838489
def sigMem : Nat := sigs 0x3d20ed6d49dead3270445aa0276664732a21850cf9be7af809ca7809a80f32228013c58eaf585496a50be238c1fd4c86
  0xd867172b245496dd7c2984b268ae6abf5c9a82d9f0f7e32e90ddcf74fbc3bd8fafa716e8ebbce01ca12cd727570e348f
def sigService : Nat := sigs 0xdb54727eb407dfbb3acc581f86404af9a976c39b815df334b1b22e49f4bc6179703f767abdfeb58d0eefa726c06c74a7
  0x769c9c3b8f7dc76647b18231c7885045dcefc06879965c6b37c685b44771ede69fd3c7d3f96242140a109d15567d5bb0
def sigBind : Nat := sigs 0x1cd2e719fbb37282c02a69011419583b74c9872c29100e4274a4537b2fedca7d4a1032c99854725cfcf4bf97d504b35c
  0xb71912d7d5295b2dcd0f931355615e87a64285f920497778fab7aae682a156eb79a48322d5b8fee2f715b5866b159a65
def sigRoute : Nat := sigs 0x8e252312376d750f78e592e95aa69fc7f054af49912fbd2f6575c103c8afbe128080d79297a211a724f5b21bca020043
  0x296d4dcf11e35dba84cabcfb9beea51323ceac1689682666eb88186f1b644a80af1429ecd3069e2d2016a80a6013e74b
def sigPolicy : Nat := sigs 0x82b478767a5d8db065a0f842e33bfefe742883599b0c51645237b1a2d27e85108b6c004f62252301c7eff62804db06c7
  0x1dfca23355d3755b728522552484044ba7a180269345ba9ad84a080e2633117eba0052a89e89af87c210ec179aebedcf
/-- Proofs of the two new keys. -/
def proofs : Nat := sigs 0x1ab1704464cb6e51e22121769c1c784fb0f71e973ee1dbe3be8496b44d84fe88638b0241c56b8b24e46c8c1d277b05ab
  0xb5f89a013f4157fcee064b88dd647e9be2701c64361a451a4598ed1fa1388af6921f549a01d017abdf8d810cbd8becb3

def record (kind : Nat) (body : List Byte) (sig : Nat) : List Byte :=
  leBytes 64 (0x544F5250 + 2 ^ 32 + kind * 2 ^ 48 + body.length * 2 ^ 192 + 7 * 2 ^ 224 + 0xABCDEF * 2 ^ 256) ++ body ++ leBytes 192 sig
/-- The nonce 0xABCDEF is current under number 7, the keys are enrolled, the module is bound to slice 7 or not. -/
def withKeys (s : State) (bound : Bool) : State :=
  { s with prot := { s.prot with nonce := some (0xABCDEF, 7, 0), enrolled := some (BitVec.ofNat 768 kOp, BitVec.ofNat 768 kCu) }
           cmd := { s.cmd with bound := bound, slice := if bound then 7 else 0 } }
def recCmd (s : State) (op args : Nat) (r : List Byte) : State :=
  { s with cmd := { s.cmd with module := 1 } }.setMbx 1 { enable := true, taken := some (taken op (args + r.length * 2 ^ 352) r) }
/-- Mailbox 1's command runs, and its record passes every check. -/
def passes (s : State) (op args : Nat) (r : List Byte) (carried : Nat → Bool) : Bool :=
  let t := recCmd s op args r
  let k := taken op (args + r.length * 2 ^ 352) r
  k.op == op && !cmdWaits t 1 k && gateOk t k && (protCheck t k carried).2.isNone
def recTaken (op args : Nat) (r : List Byte) : Taken := taken op (args + r.length * 2 ^ 352) r

def rEnroll : List Byte := record 1 (leBytes 96 kOp ++ leBytes 96 kCu) sigEnroll
def sOpen : State := withKeys { launched imgCode with slots := [] } false
theorem witness_enroll : let s := { sOpen with prot := { sOpen.prot with enrolled := none } }
    passes s 0x0702 0 rEnroll applyKinds = true ∧ (recordOf (recTaken 0x0702 0 rEnroll)).kind = 1 := by decide +kernel
def rFw : List Byte := record 6 (leBytes 200 (1 + 2 ^ 32 + 7 * 2 ^ 64)) sigFw
theorem witness_fw_policy : passes sOpen 0x0702 0 rFw applyKinds = true ∧ (recordOf (recTaken 0x0702 0 rFw)).kind = 6 ∧
    bits (leNat (recordOf (recTaken 0x0702 0 rFw)).body) 63 32 = 1 := by decide +kernel
def rRotate : List Byte := record 7 (leBytes 8 3 ++ leBytes 96 kNewO ++ leBytes 96 kNewC ++ leBytes 192 proofs) sigRotate
theorem witness_key_rotate : let r := recordOf (recTaken 0x0702 0 rRotate)
    passes sOpen 0x0702 0 rRotate applyKinds = true ∧ r.kind = 7 ∧ rotWhich r = 3 := by decide +kernel
theorem witness_key_rotate_proved : rotUnproved (recordOf (recTaken 0x0702 0 rRotate)) = false := by decide +kernel
def rService : List Byte := record 9 [] sigService
theorem witness_service : passes sOpen 0x0702 0 rService applyKinds = true ∧ (recordOf (recTaken 0x0702 0 rService)).kind = 9 ∧
    sOpen.prot.service = false ∧ sOpen.cmd.bound = false := by decide +kernel
def rUnbind : List Byte := record 3 (leBytes 8 7) sigUnbind
def sBound : State := withKeys { launched imgCode with slots := [] } true
theorem witness_unbind : passes sBound 0x0101 1 rUnbind (fun n => n == 3) = true ∧ (recTaken 0x0101 1 rUnbind).arg 7 0 = 1 ∧
    bits (leNat (recordOf (recTaken 0x0101 1 rUnbind)).body) 11 0 = sBound.cmd.slice.toNat := by decide +kernel

/-- A grant of one scope: 4,096 bytes at host 0x1000, 64 bytes at 0x40000, one step, tile 3, domain 5. -/
def grantBody (sc : Nat) : Nat := 0x1000 * 2 ^ 464 + 4096 * 2 ^ 432 + 0x40000 * 2 ^ 384 + 64 * 2 ^ 352 + (if sc = 1 then 2 ^ 320 else 0) + 3 * 2 ^ 240 + 5 * 2 ^ 230 + sc * 2 ^ 216
theorem witness_grants : ∀ g ∈ [(1, sigStep), (2, sigTrace), (3, sigMem)], let r := record 8 (leBytes 64 (grantBody g.1)) g.2
    passes sOpen 0x0704 0 r (fun n => n == 8) = true ∧ grantScope (recTaken 0x0704 0 r) = g.1 := by decide +kernel

/-- A table of slice 7: self 0 is master, module 1 backup, modules 1 and 2 reached over planes 0 and 1. -/
def routeBody : List Byte := leBytes 8256 (5 * 2 ^ 448 + 2 ^ 416 + 7 * 2 ^ 404 + 2 ^ 380 + 20 * 2 ^ 375 + 0xC000 * 2 ^ 512 + 0x8003 * 2 ^ 528 + 0x8003 * 2 ^ 544)
def rBind : List Byte := record 2 routeBody sigBind
theorem witness_bind : passes sOpen 0x0101 0 rBind (fun n => n == 2) = true ∧ (recTaken 0x0101 0 rBind).arg 7 0 = 0 := by decide +kernel
theorem witness_bind_table : (routeRows sOpen (recordOf (recTaken 0x0101 0 rBind)).body).find? (·.1) = none := by decide +kernel
def rRoute : List Byte := record 4 routeBody sigRoute
def sRouted : State := { sBound with fabric := { sBound.fabric with route := some (routeOf' routeBody) } }
theorem witness_route : passes sRouted 0x0702 0 rRoute applyKinds = true ∧ (recordOf (recTaken 0x0702 0 rRoute)).kind = 4 := by decide +kernel
theorem witness_route_table : let r := recordOf (recTaken 0x0702 0 rRoute)
    (routeRows sRouted r.body).find? (·.1) = none ∧ sRouted.cmd.bound = true ∧
      sRouted.fabric.route.any (fun o => o.slice == (routeOf' r.body).slice && o.configId == (routeOf' r.body).configId) = true := by decide +kernel
def rPolicy : List Byte := record 5 ((List.range 1024).flatMap (fun d => leBytes 4 (if d = 5 then 1 else 3))) sigPolicy
theorem witness_policy : passes sOpen 0x0702 0 rPolicy applyKinds = true := by decide +kernel
theorem witness_policy_domains : (recordOf (recTaken 0x0702 0 rPolicy)).kind = 5 ∧
    ∀ d ∈ sOpen.cmd.domains, (tabGet (3 : Word32) (policyOf (recordOf (recTaken 0x0702 0 rPolicy)).body) d.toNat).getLsbD 0 = true := by decide +kernel

/-! The checks that fail. -/

def sNoNonce : State := { sOpen with prot := { sOpen.prot with nonce := none } }
theorem witness_record_denied : let k := recTaken 0x0702 0 rFw
    badRecord k applyKinds = false ∧ sNoNonce.prot.enrolled ≠ none ∧ nonceCurrent sNoNonce (recordOf k) = false := by decide +kernel
/-- Keys enrolled the other way round fail the Operator's signature, and the Operator's key twice the Custodian's. -/
def sKeys (o c : Nat) : State := { sOpen with prot := { sOpen.prot with enrolled := some (BitVec.ofNat 768 o, BitVec.ofNat 768 c) } }
theorem witness_record_operator : let r := recordOf (recTaken 0x0702 0 rService)
    nonceCurrent (sKeys kCu kOp) r = true ∧ ecdsaVerifies (recordKeys (sKeys kCu kOp) r).1 r.signed r.operator = false := by decide +kernel
theorem witness_record_custodian : let r := recordOf (recTaken 0x0702 0 rFw)
    nonceCurrent (sKeys kOp kOp) r = true ∧ ecdsaVerifies (recordKeys (sKeys kOp kOp) r).1 r.signed r.operator = true ∧ operatorAlone r = false ∧
      ecdsaVerifies (recordKeys (sKeys kOp kOp) r).2 r.signed r.custodian = false := by decide +kernel
theorem witness_record_alone : let r := recordOf (recTaken 0x0704 0 (record 8 (leBytes 64 (grantBody 2)) sigTrace))
    badRecord (recTaken 0x0704 0 (record 8 (leBytes 64 (grantBody 2)) sigTrace)) (fun n => n == 8) = false ∧ operatorAlone r = true ∧ nonceCurrent sOpen r = true := by decide +kernel
theorem witness_record_failed : ∀ e ∈ [(1, rEnroll), (4, rRoute), (5, rPolicy), (6, rFw), (7, rRotate)], let k := recTaken 0x0702 0 e.2
    (recordOf k).kind = e.1 ∧ (protCheck (recCmd sNoNonce 0x0702 0 e.2) k applyKinds).2 = some (stDenied, []) ∧ gateOk (recCmd sNoNonce 0x0702 0 e.2) k = true ∧
      cmdWaits (recCmd sNoNonce 0x0702 0 e.2) 1 k = false := by decide +kernel

/-! Domains, the nonce, the evidence. -/

theorem witness_domain_commands : runsNow sOpen 0x0103 6 = true ∧ 6 ∉ sOpen.cmd.domains ∧ (policyWord sOpen 6).getLsbD 0 = true ∧ runsNow sOpen 0x0104 5 = true ∧
    5 ∈ sOpen.cmd.domains ∧ domainBusy (cmdOf sOpen 0x0104 5) 5 = false ∧ collides (cmdOf sOpen 0x0104 5) 6 5 = none := by decide +kernel
theorem witness_domain_image : ((sLoaded none).slot 0).loaded = true ∧ ((sLoaded none).slot 0).domain = 5 ∧ domainBusy (sLoaded none) 5 = false := by decide +kernel
theorem test_domain_close : (after (exec (.domainClose 1) (cmdOf (sLoaded none) 0x0104 5))).cmd.closing = [5] ∧
    ((after (exec (.domainClose 1) (cmdOf (sLoaded none) 0x0104 5))).slot 0).loaded = false := by decide +kernel
theorem witness_nonce_attest : runsNow sOpen 0x0701 0 = true ∧ runsNow sOpen 0x0703 9 = true ∧ (taken 0x0703 9 []).respLen = 0 := by decide +kernel

/-! Grants. -/

def grantIn (sc : Nat) (h r : Bool) : State :=
  { State.reset with prot := { State.reset.prot with grants := [{ number := 1, body := BitVec.ofNat 512 (grantBody sc), since := 0, holds := h, ready := r }] } }
theorem witness_step_tile : (grantOf (grantIn 1 false false) 1).any (fun g => g.scope == 1 && !g.holds && tileFree (grantIn 1 false false) g.tile) = true ∧
    (grantOf (grantIn 1 true true) 1).any (fun g => g.scope == 1 && g.holds && g.ready) = true ∧
    (∀ sc ∈ [2, 3], (grantOf (grantIn sc false false) 1).any (fun g => g.scope == sc && !g.holds) = true) := by decide +kernel
theorem test_grant_expiry : (after (exec (.grantExpiry 1) (grantIn 2 false false))).prot.grants = [] := by decide +kernel

/-! Firmware: an image of four bytes and its trailer, signed by the enrolled Operator's key that the policy names. -/

def fwImage : List Byte :=
  [1, 2, 3, 4] ++ leBytes 256 (0x4C525446 + 3 * 2 ^ 32 + 2 ^ 64 + 5 * 2 ^ 80 +
    0x5c7f32e2b2fb46cc66a3812d76d7bad282ada305b9593177049747dcdc411d6edc04393333e4ba3e258c0a43627d665a * 2 ^ 96 +
    kOp * 2 ^ 480 + 0x3969a6e53f5cd6bf137a6765d37aeaae87c96789aaa9a4f5650a8307e3e4dc73e25c691696fd69c37bf4e2b8557ea1d8 * 2 ^ 1280 +
    0x925779fba5af60dab7942b3ba6e8f8a4fc805aaab587144a913189f5121a71a061b9022e39822104ed55fcb367a688a2 * 2 ^ 1664)
def sFw : State := { sOpen with prot := { sOpen.prot with fwPolicy := some { minVersion := 3, keys := [
  0xaa3442b7c9ae5319df16aba35eb11c520223f4f42e443f244798562caef8d87e6686c156f005066db3fefb7d65fc5938] } } }
def aStage (off last : Nat) : Nat := off + 260 * 2 ^ 32 + last * 2 ^ 64
theorem witness_fw_stage : ∀ last ∈ [0, 1], let k := taken 0x0801 (aStage 0 last) fwImage
    runsNow sFw 0x0801 (aStage 0 last) fwImage = true ∧ k.arg 31 0 = 0 ∧ k.arg 63 32 = 260 ∧ collides (cmdOf sFw 0x0801 (aStage 0 last) fwImage) 5 0 = none ∧
      bitAt k.num 64 = (last == 1) := by decide +kernel
def judged (v : Nat) : Option (Nat × Nat × Nat) ⊕ Nat :=
  match judgeImage { sFw with prot := { sFw.prot with fwPolicy := sFw.prot.fwPolicy.map (fun p => { p with minVersion := BitVec.ofNat 32 v }) } } fwImage 260 with
  | .inl x => .inl (some (x.major.toNat, x.minor.toNat, x.version.toNat))
  | .inr st => .inr st
theorem witness_fw_accepted : judged 3 = .inl (some (1, 5, 3)) := by decide +kernel
theorem witness_fw_refused : judged 4 = .inr stDenied := by decide +kernel
def sAccepted : State := { sOpen with prot := { sOpen.prot with accepted := some { major := 1, minor := 5, version := 3, digest := 9 } } }
theorem witness_fw_activate : runsNow sAccepted 0x0802 0 = true ∧ activateBusy (cmdOf sAccepted 0x0802 0) = false ∧ othersDone (cmdOf sAccepted 0x0802 0) 1 = true ∧
    othersDone ((cmdOf sAccepted 0x0802 0).setMbx 2 { enable := true, taken := some (taken 0x0703 0 []) }) 1 = false ∧
    cmdWaits ((cmdOf sAccepted 0x0802 0).setMbx 2 { enable := true, taken := some (taken 0x0703 0 []) }) 1 (taken 0x0802 0 []) = false := by decide +kernel
theorem witness_fw_ready : (firmwareReset sAccepted { major := 1, minor := 5, version := 3, digest := 9 }).prot.replaced ≠ none := by decide +kernel

/-! Scrubs. -/

def scrubOf (k : Nat) : Scrub := { kind := k, inst := 1, mbx := 1, domain := 5, slice := 7, nonceNo := 7, start := 0 }
def sScrub (k : Nat) (g : Grain) : State := { (launched imgCode).setGrain 9 g with prot := { State.reset.prot with scrub := some (scrubOf k) } }
theorem witness_scrub : ∀ k ∈ [1, 2, 3], (sScrub k {}).prot.scrub = some (scrubOf k) ∧ (sScrub k {}).host.held = [] ∧
    taggedGrains (vacateDomain (sScrub k {}) 5) 5 = [] := by decide +kernel
theorem witness_scrub_waits : taggedGrains (vacateDomain (sScrub 1 { gNear with st := 5, target := some (1, 9) }) 5) 5 ≠ [] := by decide +kernel

/-! SPDM and TDISP. -/

def sSession (n : Fin 4) (t : Tdisp) : State := { State.reset with prot := { State.reset.prot with session := n, keyed := true, tdisp := t } }
theorem witness_spdm_session : ∀ n ∈ [(0 : Fin 4), 1, 2], ∀ t ∈ [Tdisp.unlocked, .locked, .run, .error],
    (sSession n t).prot.session = n ∧ (sSession n t).prot.tdisp = t ∧ (sSession n t).prot.keyed = true := by decide +kernel
theorem witness_measurements : (measBlocks State.reset 0).isSome = true ∧ (measBlocks State.reset 6).isSome = true ∧ (measBlocks State.reset 0xFF).isSome = true := by decide +kernel
theorem test_end_session : (after (exec .endSession (sSession 2 .run))).prot.tdisp = .error ∧ (after (exec .startInterface (sSession 2 .locked))).prot.tdisp = .run := by decide +kernel

/-! Power, pins and resets. -/

def withPower (p : Power) : State := { State.reset with power := p }
theorem witness_rates : State.reset.power.moduleRate = 16 ∧ (withPower { watts := 2600, moduleRate := 9 }).power.watts = 2600 ∧
    (withPower { watts := 2399, moduleRate := 15 }).power.moduleRate = 15 ∧ (∀ d : Fin 4, State.reset.dieRate d.val = 16 ∧ State.reset.thermRate d.val = 16) := by decide +kernel
theorem witness_rails : 460 < 461 ∧ 439 < 440 ∧ 0 < State.reset.dieRate 2 ∧ State.reset.dieRate 2 ≤ 16 := by decide +kernel
theorem test_rail_kept : (after (exec (.diePowerRateDown 2 460) State.reset)).dieRate 2 = 16 ∧ tabGet 0 (after (exec (.diePowerRateDown 2 460) State.reset)).power.rails 2 = 460 := by decide +kernel
theorem test_rates : (after (exec (.powerMeasure 2901) State.reset)).power.moduleRate = 8 ∧ (after (exec (.powerMeasure 2900) State.reset)).power.moduleRate = 16 ∧
    (after (exec .moduleRateDown (withPower { watts := 2501 }))).power.moduleRate = 15 ∧ (after (exec .moduleRateDown (withPower { watts := 2500 }))).power.moduleRate = 16 ∧
    (after (exec (.diePowerRateDown 2 461) State.reset)).dieRate 2 = 15 := by decide +kernel
theorem test_thermal_trip : (after (exec (.thermalTrip 1) (sLoaded (some launch1)))).cmd.module = 3 := by decide +kernel

def withPins (p : Pins) : State := { State.reset with pins := p }
theorem witness_pins : ∀ i ∈ [true, false], ∀ g ∈ [true, false], ∀ p ∈ [(0 : Fin 8), 3],
    (withPins { input := i, pwrGood := g, phase := p }).pins.input = i ∧ (withPins { input := i, pwrGood := g, phase := p }).pins.pwrGood = g ∧
      (withPins { input := i, pwrGood := g, phase := p }).pins.phase = p := by decide +kernel
theorem test_pins : (after (exec (.pwrGoodRise 9) State.reset)).geo = 9 ∧ (after (exec (.pwrGoodRise 9) (withPins { coldRst := false }))).pins.phase = 0 ∧
    (after (exec (.coldRstRelease 9) (withPins { pwrGood := true, coldRst := false }))).pins.phase ≠ 0 := by decide +kernel
def bringup (ok : Bool) : BringupResult := ⟨ok, false, true, true, 0xFFFFFF, List.replicate 8 3, [3, 3], [0, 0], [0, 0], [[], []]⟩
theorem witness_warm : ∀ p ∈ [(2 : Fin 8), 7], ∀ w ∈ [true, false], ∀ r ∈ [true, false], let s := withPins { phase := p, warm := w, perst := r }
    s.pins.phase ≠ 0 ∧ (p = 2 → s.pins.phase ≠ 7) ∧ s.pins.warm = w ∧ s.pins.perst = r := by decide +kernel
theorem test_bringup : (after (exec (.bringupEnd (bringup true)) (withPins { phase := 2 }))).cmd.module = 1 ∧
    (after (exec (.bringupEnd (bringup false)) (withPins { phase := 2 }))).cmd.module = 3 ∧
    (after (exec .perst { sLoaded (some launch1) with pins := { phase := 7, perst := true } })).launch 0 = none := by decide +kernel

/-! Idle levels: every unit at I1, or waking in phase 1 or 2. -/

def units : List Nat := List.range 224
def sIdle (level : Fin 4) (tol : Nat) (dies : BitVec 4) : State :=
  { State.reset with idle := { levels := units.map (fun u => (u, level)), dies := dies }, cmd := { State.reset.cmd with tolerance := tol } }
def sWake (p : Fin 4) : State := { State.reset with idle := { waking := units.map (fun u => (u, p)) } }
theorem witness_idle : ∀ u ∈ [IdleUnit.tile 5, .ae 31], (sIdle 1 20000 0).level (unitIx u) = 1 ∧ (sIdle 1 20000 0).wakePhase (unitIx u) = 0 ∧
    permitted (sIdle 1 20000 0) = 2 ∧ permitted (sIdle 1 19999 0) = 1 ∧ (sWake 1).wakePhase (unitIx u) = 1 ∧ (sWake 2).wakePhase (unitIx u) = 2 ∧
    (sWake 0).wakePhase (unitIx u) = 0 := by decide +kernel
theorem witness_idle_die : let s := sIdle 1 400000 0
    permitted s = 3 ∧ (∀ d : Fin 4, (∀ u ∈ dieUnits d, s.level u ≠ 0 ∧ s.wakePhase u = 0) ∧ enginesIdle s d = true) ∧ launchRuns s = false ∧ s.cmd.maint = [] := by decide +kernel
theorem witness_idle_module : let s := sIdle 2 30000000 15
    permitted s = 4 ∧ s.idle.dies = 15 ∧ (∀ n, (s.slot n).loaded = false) ∧ s.rings.table = [] ∧ s.colls.groups = [] ∧ s.cmd.maint = [] := by decide +kernel
theorem test_idle : (after (exec (.idleI2Entry (.tile 5)) (sIdle 1 20000 0))).level 5 = 2 ∧ (after (exec (.idleI3Entry 2) (sIdle 1 400000 0))).idle.dies = 4 ∧
    (after (exec .idleI4Entry (sIdle 2 30000000 15))).idle.module = true ∧ (after (exec (.wakeDone (.ae 31)) (sWake 2))).wakePhase 223 = 0 := by decide +kernel

/-! SMBus and JTAG. -/

theorem witness_smbus : State.reset.pins.stbyOk = true ∧ State.reset.smbus.refreshed = false ∧ smbAlert State.reset = false ∧
    smbAlert (withPins { leak := false }) = true ∧ { State.reset.smbus with refreshed := true }.refreshed = true := by decide +kernel
theorem test_smbus : (after (exec (.smbusReadWord 0x0B) State.reset)).out.smbus = [some 0x8000] ∧ (after (exec (.smbusReadWord 0x0C) State.reset)).out.smbus = [none] ∧
    (after (exec .smbusAlertResponse (withPins { leak := false }))).out.smbus = [some 0x4C] := by decide +kernel
theorem witness_jtag : State.reset.prot.service = false ∧ { State.reset.prot with service := true }.service = true := by decide +kernel

/-! The queue and the invariants. -/

theorem witness_front : { State.reset with pending := [Instr.coldRst] }.pending = Instr.coldRst :: [] := rfl
theorem witness_idle_step : State.reset.pending = [] ∧ State.reset.cmd.maint = [] := ⟨rfl, rfl⟩
theorem test_release_address : (after (step { withPins { perst := false } with pending := [.perstRelease 5] })).geo = 5 := by decide +kernel
theorem witness_memories : MemOk State.reset ∧ MemOk sLoad := by unfold MemOk; decide +kernel
theorem test_step : (after (step { State.reset with pending := [.leakSensorWet, .coldRst] })).pending = [.coldRst] := by decide +kernel

end Sys2Proof.Tests
end

section
/-! Register writes (O40): what a report leaves, what a refused access and a frozen write do, and the writes themselves. -/

namespace Sys2Proof.Machine

/-! What a report leaves unchanged.  `Reported` frees the whole MSI-X table, of which a report changes the pending bits only. -/

/-- Every MSI-X entry has the address, the data and the vector control it had: a pending bit is all that may differ. -/
def VectorsKept (s t : State) : Prop :=
  ∀ k, (t.msix k).addr = (s.msix k).addr ∧ (t.msix k).data = (s.msix k).data ∧ (t.msix k).control = (s.msix k).control

theorem VectorsKept.refl (s : State) : VectorsKept s s := fun _ => ⟨rfl, rfl, rfl⟩

theorem VectorsKept.trans {a b c : State} (h : VectorsKept a b) (k : VectorsKept b c) : VectorsKept a c := fun v =>
  ⟨(k v).1.trans (h v).1, (k v).2.1.trans (h v).2.1, (k v).2.2.trans (h v).2.2⟩

theorem VectorsKept.of_msix_eq {s t : State} (h : t.host.msix = s.host.msix) : VectorsKept s t := fun k => by
  simp only [State.msix, h, and_self]

theorem VectorsKept.forAll {α : Type} {l : List α} {f : State → α → State} (hf : ∀ s a, VectorsKept s (f s a)) (s : State) :
    VectorsKept s (s.forAll l f) := by
  unfold State.forAll
  induction l generalizing s with
  | nil => exact .refl s
  | cons a l ih => exact (hf s a).trans (ih _)

theorem setEvq_vectorsKept (s : State) (i : Nat) (x : EvQueue) : VectorsKept s (s.setEvq i x) := .of_msix_eq rfl

theorem raiseVector_vectorsKept (s : State) (v : Fin 16) : VectorsKept s (raiseVector s v) := by
  unfold raiseVector
  dsimp only
  split
  · intro k
    rw [State.setMsix_msix]
    split
    · next h => subst h; exact ⟨rfl, rfl, rfl⟩
    · exact ⟨rfl, rfl, rfl⟩
  · exact .of_msix_eq rfl

theorem testQueue_vectorsKept (s : State) (i : Nat) : VectorsKept s (testQueue s i) := by
  unfold testQueue
  dsimp only
  split
  · exact (setEvq_vectorsKept _ _ _).trans (raiseVector_vectorsKept _ _)
  · exact .refl s

theorem putRecord_vectorsKept (s : State) (i : Nat) (r : Nat → Nat) : VectorsKept s (putRecord s i r) := .of_msix_eq rfl

theorem putEvent_vectorsKept (s : State) (i : Nat) (e : Ev) : VectorsKept s (putEvent s i e) := by
  unfold putEvent
  exact (setEvq_vectorsKept _ _ _).trans (.forAll (fun _ _ => putRecord_vectorsKept _ _ _) _)

theorem queueEvent_vectorsKept (s : State) (i : Nat) (e : Ev) : VectorsKept s (queueEvent s i e) := by
  unfold queueEvent
  dsimp only
  split
  · split
    · exact (setEvq_vectorsKept _ _ _).trans
        ((putEvent_vectorsKept _ _ _).trans ((putEvent_vectorsKept _ _ _).trans (testQueue_vectorsKept _ _)))
    · exact setEvq_vectorsKept _ _ _
  · split
    · exact (putEvent_vectorsKept _ _ _).trans (testQueue_vectorsKept _ _)
    · exact setEvq_vectorsKept _ _ _

/-- The state with other counters. -/
def State.withCounters (s : State) (c : Tab Counter) : State := { s with counters := c }

/-- Reporting an event changes the counters, and hands at most one event to one queue (R398, R491). -/
theorem emitTo_cases (s : State) (i : Nat) (e : Ev) : ∃ c,
    emitTo s i e = s.withCounters c ∨ ∃ j e', emitTo s i e = queueEvent (s.withCounters c) j e' := by
  unfold emitTo
  split
  · exact ⟨s.counters, .inr ⟨i, e, rfl⟩⟩
  · split
    · exact ⟨s.counters, .inr ⟨0, e, rfl⟩⟩
    · refine ⟨(bumpCounter s 0x1B00 1).1.counters, ?_⟩
      dsimp only
      split
      · split
        · exact .inr ⟨_, _, rfl⟩
        · exact .inl rfl
      · exact .inl rfl

theorem emit_reported (s : State) (e : Ev) : Reported s (emit s e) := by
  obtain ⟨c, h | ⟨j, e', h⟩⟩ := emitTo_cases s (routeOf s e.type) e
  · rw [emit, h]; rfl
  · rw [emit, h]; exact .trans (b := s.withCounters c) rfl (queueEvent_reported _ _ _)

theorem emit_vectorsKept (s : State) (e : Ev) : VectorsKept s (emit s e) := by
  obtain ⟨c, h | ⟨j, e', h⟩⟩ := emitTo_cases s (routeOf s e.type) e
  · rw [emit, h]; exact .of_msix_eq rfl
  · rw [emit, h]; exact .trans (b := s.withCounters c) (.of_msix_eq rfl) (queueEvent_vectorsKept _ _ _)

section
variable {s t : State}

theorem Reported.dev (h : Reported s t) : t.dev = s.dev := by rw [show t = _ from h]
theorem Reported.sync (h : Reported s t) : t.sync = s.sync := by rw [show t = _ from h]
theorem Reported.tdisp (h : Reported s t) : t.prot.tdisp = s.prot.tdisp := by rw [show t = _ from h]
theorem Reported.keyed (h : Reported s t) : t.prot.keyed = s.prot.keyed := by rw [show t = _ from h]
theorem Reported.host (h : Reported s t) : t.host = { s.host with evq := t.host.evq, msix := t.host.msix } :=
  congrArg State.host (show t = _ from h)

end

/-! Host errors (R389). -/

theorem or_shiftLeft_one_of_set {w i : Nat} {x : BitVec w} (h : x.getLsbD i = true) : x ||| (1#w <<< i) = x := by
  refine BitVec.eq_of_getLsbD_eq fun j _ => ?_
  rw [← BitVec.twoPow_eq, BitVec.getLsbD_or, BitVec.getLsbD_twoPow]
  by_cases hij : i = j
  · subst hij; rw [h, Bool.true_or]
  · simp [hij]

/-- The state with another value of HOST_ERROR. -/
def State.withError (s : State) (x : BitVec 6) : State := { s with host := { s.host with error := x } }

theorem Reported.withError {s t : State} (h : Reported s t) (x : BitVec 6) : Reported (s.withError x) (t.withError x) :=
  congrArg (State.withError · x) h

/-- A host error leaves its bit of HOST_ERROR at 1, and for the rest counts and reports only. -/
theorem hostError_reported (s : State) (bit addr : Nat) :
    Reported (s.withError (s.host.error ||| (1#6 <<< bit))) (hostError s bit addr) := by
  have hc := count_reported s 0x1A00
  have he : (count s 0x1A00).host.error = s.host.error := by rw [hc.host]
  unfold hostError
  dsimp only
  split
  · next hset =>
    rw [or_shiftLeft_one_of_set (he ▸ hset)]
    exact hc
  · rw [he]
    exact (hc.withError _).trans (emit_reported _ _)

/-! Frozen registers (R437). -/

/-- A write to a frozen register is reported and takes the function to ERROR, which discards the stream keys. -/
theorem frozenWrite_reported {s : State} (h : s.prot.tdisp ≠ .error) :
    Reported { s with prot := { s.prot with tdisp := .error, keyed := false } } (frozenWrite s) := by
  have hk : (s.prot.keyed && Tdisp.error != .error) = false := Bool.and_false _
  unfold frozenWrite setTdisp
  simp only [h, if_false, hk]
  exact emit_reported _ _

theorem frozenWrite_vectorsKept (s : State) : VectorsKept s (frozenWrite s) := by
  unfold frozenWrite setTdisp
  dsimp only
  split
  · exact .refl s
  · refine .trans ?_ (emit_vectorsKept _ _)
    exact .of_msix_eq rfl

theorem lockedWrite_of_unlocked {s : State} (h : s.prot.tdisp = .unlocked) (f : State → State) : lockedWrite s f = f s :=
  if_pos h

theorem lockedWrite_of_frozen {s : State} (h : s.prot.tdisp ≠ .unlocked) (f : State → State) : lockedWrite s f = frozenWrite s :=
  if_neg h

/-- Where a word of the MSI-X table lies, and what its place says of it (Table 14.3). -/
theorem msixTable_place : ∀ (e : Fin 16) (w : Fin 2), let o := 0x8000 + 16 * e.val + 8 * w.val
    (0x8000 ≤ o ∧ o < 0x8100) ∧ Fin.ofNat 16 ((o - 0x8000) / 16) = e ∧ o % 16 / 8 = w.val := by decide

/-- The words of the MSI-X table among the BAR0 registers: every other register lies below them. -/
theorem bar0Put_msixTable (s : State) (e : Fin 16) (w : Fin 2) (v : Word64) :
    bar0Put s (0x8000 + 16 * e.val + 8 * w.val) v = lockedWrite s (fun s => msixWrite s e w.val v) := by
  obtain ⟨hin, he, hw⟩ := msixTable_place e w
  generalize 0x8000 + 16 * e.val + 8 * w.val = o at hin he hw
  have below : ∀ {k}, k ≤ 0x8000 → ¬ o < k := fun hk => Nat.not_lt.2 (Nat.le_trans hk hin.1)
  have other : ∀ {k}, k < 0x8000 → ¬ o = k := fun hk => Nat.ne_of_gt (Nat.lt_of_lt_of_le hk hin.1)
  calc bar0Put s o v
    _ = lockedWrite s (fun s => msixWrite s (Fin.ofNat 16 ((o - 0x8000) / 16)) (o % 16 / 8) v) :=
      (if_neg (other (by decide))).trans <| (if_neg (other (by decide))).trans <| (if_neg (other (by decide))).trans <|
      (if_neg (other (by decide))).trans <| (if_neg fun h => below (by decide) h.2).trans <|
      (if_neg fun h => below (by decide) h.2).trans <| (if_neg (other (by decide))).trans <|
      (if_neg (other (by decide))).trans <| (if_neg (other (by decide))).trans <| if_pos hin
    _ = _ := by rw [he, hw]

/-- Each of the five kinds of frozen register is written under the TDISP lock. -/
theorem execFrozenRegisterWrite_eq_lockedWrite (r : FrozenReg) (v : BitVec 64) (s : State) :
    ∃ f, execFrozenRegisterWrite r v s = .next (lockedWrite s f) := by
  cases r with
  | bar2Base => exact ⟨fun s => bar2BaseWrite s v, rfl⟩
  | bar2Domain => exact ⟨fun s => { s with host := { s.host with bar2Domain := v.truncate 10 } }, rfl⟩
  | apertureBase =>
    exact ⟨fun s => { s with host := { s.host with aperture := BitVec.ofNat 64 (v.toNat / 4096 * 4096) } }, rfl⟩
  | msixTable e w => exact ⟨fun s => msixWrite s e w.val v, congrArg Host.Outcome.next (bar0Put_msixTable s e w v)⟩
  | resizableBar => exact ⟨_, rfl⟩

/-- Outside CONFIG_UNLOCKED a frozen register ignores its write. -/
theorem execFrozenRegisterWrite_of_frozen {s : State} (h : s.prot.tdisp ≠ .unlocked) (r : FrozenReg) (v : BitVec 64) :
    execFrozenRegisterWrite r v s = .next (frozenWrite s) := by
  obtain ⟨f, hf⟩ := execFrozenRegisterWrite_eq_lockedWrite r v s
  rw [hf, lockedWrite_of_frozen h]

/-- Once locked, a write to a frozen register changes neither BAR2, nor the aperture, nor the MSI-X table, and ends in ERROR. -/
theorem execFrozenRegisterWrite_of_locked {s : State} (h : s.prot.tdisp = .locked ∨ s.prot.tdisp = .run) (r : FrozenReg)
    (v : BitVec 64) : ∃ t, execFrozenRegisterWrite r v s = .next t ∧
      Reported { s with prot := { s.prot with tdisp := .error, keyed := false } } t ∧ VectorsKept s t := by
  have hu : s.prot.tdisp ≠ .unlocked := by rcases h with h | h <;> rw [h] <;> decide
  have he : s.prot.tdisp ≠ .error := by rcases h with h | h <;> rw [h] <;> decide
  exact ⟨_, execFrozenRegisterWrite_of_frozen hu r v, frozenWrite_reported he, frozenWrite_vectorsKept s⟩

/-! The registers that are written. -/

theorem bar2BaseWrite_of_aligned {s : State} {v : Word64} (ha : v.toNat % 2 ^ 48 % 2 ^ s.host.bar2Log2 = 0)
    (hr : v.toNat % 2 ^ 48 + 2 ^ s.host.bar2Log2 ≤ 0x100000000000) :
    bar2BaseWrite s v = { s with host := { s.host with bar2Base := BitVec.ofNat 48 (v.toNat % 2 ^ 48) } } :=
  if_pos ⟨ha, hr⟩

/-- HOST_ERROR clears the bits that are written as 1. -/
theorem bar0Write_hostError (s : State) (v : Word64) :
    bar0Write s 0x58 8 v = { s with host := { s.host with error := s.host.error &&& ~~~(v.truncate 6) } } := rfl

/-- An access that is not an aligned one of 8 or 4 bytes is bad_access (R388). -/
theorem bar0Write_of_bad_size {off size : Nat} (h8 : ¬ (size = 8 ∧ off % 8 = 0)) (h4 : ¬ (size = 4 ∧ off % 4 = 0)) (s : State)
    (v : Word64) : bar0Write s off size v = hostError s 0 off := by
  rw [bar0Write, if_neg h8, if_neg h4]

theorem queue_modQueue_same (s : State) (q : Fin 256) (f : StQueue → StQueue) : (s.modQueue q f).queue q = f (s.queue q) :=
  (State.setQueue_queue s q _ q).trans (if_pos rfl)

/-- Firmware's abort empties the queue: neither transfer is left, and nothing of a deadline or a halt (R162). -/
theorem queue_abortQueue (s : State) (q : Fin 256) : (abortQueue s q).queue q = { s.queue q with
    active := none, shadow := none, state := 0, deadlineMode := false, deadlineAt := 0, halted := false } :=
  (State.setQueue_queue _ q _ q).trans (if_pos rfl)

/-- A write of STQ_CTL with enable 0 takes the limit, aborts the queue and disables it (R162). -/
theorem stqWrite_disable (s : State) (q : Fin 256) {v : Word64} (h : v.getLsbD 0 = false) :
    stqWrite s q 0 v = (abortQueue (s.setQueue q { s.queue q with limit := (v >>> 48).truncate 16 }) q).modQueue q
      (fun r => { r with enable := false }) :=
  if_neg (Bool.eq_false_iff.1 h)

theorem queue_stqWrite_disable (s : State) (q : Fin 256) {v : Word64} (h : v.getLsbD 0 = false) :
    (stqWrite s q 0 v).queue q = { s.queue q with
      limit := (v >>> 48).truncate 16, enable := false, active := none, shadow := none, state := 0, deadlineMode := false
      deadlineAt := 0, halted := false } := by
  rw [stqWrite_disable s q h, queue_modQueue_same, queue_abortQueue, State.setQueue_queue, if_pos rfl]

/-- A write of STQ_STATUS clears the flags written as 1 (Table 6.7). -/
theorem stqWrite_status (s : State) (q : Fin 256) (v : Word64) : stqWrite s q 8 v = s.setQueue q { s.queue q with
    rearmRefused := (s.queue q).rearmRefused && !v.getLsbD 19
    deadlineMissed := (s.queue q).deadlineMissed && !v.getLsbD 18 } := rfl

/-- Training records the rate and width; a report follows where they are not those of the end of bring-up (R382). -/
theorem execHostLinkRetrain_reported (rate width : BitVec 8) (s : State) :
    ∃ t, execHostLinkRetrain rate width s = .next t ∧
      Reported { s with host := { s.host with linkRate := rate, linkWidth := width } } t ∧
      (rate = s.host.trainedRate → width = s.host.trainedWidth → t.hostMem = s.hostMem) := by
  unfold execHostLinkRetrain
  dsimp only
  split
  · exact ⟨_, rfl, .refl _, fun _ _ => rfl⟩
  · next h => exact ⟨_, rfl, emit_reported _ _, fun hr hw => absurd ⟨hr, hw⟩ h⟩

/-! The statement. -/

/-- Settles O40: each write by the lemma on its register above. -/
theorem registerWritesFollowTheirAccess : Obligations.RegisterWritesFollowTheirAccess := by
  unfold Obligations.RegisterWritesFollowTheirAccess
  intro s
  refine ⟨?base, ?frozen, ?resize, ?rw1c, ?badSize, ?stqStatus, ?stqDisable, ?retrain⟩
  case base =>
    intro v hu ha hr
    exact congrArg Host.Outcome.next ((lockedWrite_of_unlocked hu _).trans (bar2BaseWrite_of_aligned ha hr))
  case frozen =>
    intro r v h
    obtain ⟨t, ht, hrep, hvec⟩ := execFrozenRegisterWrite_of_locked h r v
    have hh := hrep.host
    exact ⟨t, ht, hrep.tdisp, hrep.keyed, by rw [hh], by rw [hh], by rw [hh], by rw [hh], hvec⟩
  case resize =>
    intro n hu
    exact congrArg Host.Outcome.next (lockedWrite_of_unlocked hu _)
  case rw1c => exact fun v => congrArg Host.Outcome.next (bar0Write_hostError s v)
  case badSize =>
    intro off size v h8 h4
    have hrep := hostError_reported s 0 off
    refine ⟨_, congrArg Host.Outcome.next (bar0Write_of_bad_size h8 h4 s v), ?_, hrep.dev, hrep.sync⟩
    exact (congrArg (·.error.getLsbD 0) hrep.host).trans ((BitVec.getLsbD_or ..).trans (Bool.or_true _))
  case stqStatus =>
    intro q v
    refine ⟨_, congrArg Host.Outcome.next (stqWrite_status s q v), ?_, fun p hp => ?_⟩
    · exact (State.setQueue_queue s q _ q).trans (if_pos rfl)
    · exact (State.setQueue_queue s q _ p).trans (if_neg hp.symm)
  case stqDisable =>
    intro q v h
    have hq := queue_stqWrite_disable s q h
    exact ⟨_, rfl, congrArg StQueue.enable hq, congrArg StQueue.active hq, congrArg StQueue.shadow hq, congrArg StQueue.limit hq⟩
  case retrain =>
    intro rate width
    obtain ⟨t, ht, hrep, hmem⟩ := execHostLinkRetrain_reported rate width s
    exact ⟨t, ht, congrArg HostPort.linkRate hrep.host, congrArg HostPort.linkWidth hrep.host, hrep.dev, hmem⟩

end Sys2Proof.Machine
end

section
/-! The Keg (O20): exact addition in any order, and the shift when the anchor rises. -/

namespace Sys2Proof.Machine

/-! Addition (R53). -/

theorem kegAdd_of_lt {a b : Nat} (h : a + b < 2 ^ 96) : kegAdd a b = a + b := Nat.mod_eq_of_lt h

/-- Two terms may be added in either order, also where the sum wraps: both orders leave the sum of all three modulo 2^96. -/
theorem kegAdd_right_comm (k a b : Nat) : kegAdd (kegAdd k a) b = kegAdd (kegAdd k b) a := by
  unfold kegAdd
  rw [Nat.mod_add_mod, Nat.mod_add_mod, Nat.add_right_comm]

theorem foldl_kegAdd_of_perm {l l' : List Nat} (h : l.Perm l') (k : Nat) : l.foldl kegAdd k = l'.foldl kegAdd k :=
  h.foldl_eq' (fun a _ b _ z => kegAdd_right_comm z a b) k

/-! The shift (R54): what is left is the Keg without its low d bits. -/

theorem kegShift_mul_le (k d : Nat) : kegShift k d * 2 ^ d ≤ k := Nat.div_mul_le_self k (2 ^ d)

theorem lt_kegShift_succ_mul (k d : Nat) : k < (kegShift k d + 1) * 2 ^ d := by
  rw [Nat.mul_comm]
  exact Nat.lt_mul_div_succ k (Nat.two_pow_pos d)

/-- A shift by at least the width of the Keg leaves zero. -/
theorem kegShift_eq_zero {k d : Nat} (hk : k < 2 ^ 96) (hd : 96 ≤ d) : kegShift k d = 0 :=
  Nat.div_eq_of_lt (Nat.lt_of_lt_of_le hk (Nat.pow_le_pow_right Nat.two_pos hd))

/-- The model's bound of 300 on the shift is not seen in a Keg of 96 bits: past it nothing is left either way. -/
theorem raise'_keg {k : Nat} (hk : k < 2 ^ 96) (num : List Val) (d : Nat) : (raise' k num d).1 = kegShift k d := by
  change kegShift k (min d 300) = kegShift k d
  rcases Nat.le_total d 300 with hd | hd
  · rw [Nat.min_eq_left hd]
  · rw [Nat.min_eq_right hd, kegShift_eq_zero hk (by decide), kegShift_eq_zero hk (by omega)]

/-! The statement. -/

/-- Settles O20: kegAdd is right commutative, so a fold of it does not see the order of its terms; the anchor's rise is
the shift, a division by 2^d. -/
theorem kegAddsExactlyAndShiftsDown : Obligations.KegAddsExactlyAndShiftsDown := by
  unfold Obligations.KegAddsExactlyAndShiftsDown
  refine ⟨fun a b h => kegAdd_of_lt h, fun k l l' h => foldl_kegAdd_of_perm h k, fun k d num hk => ?_⟩
  rw [raise'_keg hk]
  exact ⟨kegShift_mul_le k d, lt_kegShift_succ_mul k d, kegShift_eq_zero hk⟩

end Sys2Proof.Machine
end

section
/-! AE descriptors (O17): what an access of an AE leaves unchanged, AEQ, and the start of a descriptor. -/

namespace Sys2Proof.Machine

/-! What an AE's reads leave unchanged. -/

/-- t is s but for what accesses of an agent leave behind before any byte is written: directory entries and promotions
(R188, R191, R197), dies that leave I3, counting and reporting. -/
def Observed (s t : State) : Prop :=
  t = { s with
    tiers := t.tiers, idle := t.idle, hostMem := t.hostMem, counters := t.counters
    host := { s.host with evq := t.host.evq, msix := t.host.msix }
    out := { s.out with irqs := t.out.irqs }
    prot := { s.prot with trace := t.prot.trace } }

theorem Observed.refl (s : State) : Observed s s := rfl

theorem Observed.trans {a b c : State} (h : Observed a b) (k : Observed b c) : Observed a c := by
  unfold Observed at *
  rw [k, h]

theorem Observed.of_reported {s t : State} (h : Reported s t) : Observed s t := by
  rw [show t = _ from h]
  rfl

/-- A fold keeps what each of its steps keeps; `st` reads the state off the accumulator. -/
theorem Observed.foldl {α β : Type} (st : β → State) {f : β → α → β} (hf : ∀ b a, Observed (st b) (st (f b a)))
    (l : List α) (b : β) : Observed (st b) (st (l.foldl f b)) := by
  induction l generalizing b with
  | nil => exact .refl _
  | cons a l ih => exact (hf b a).trans (ih _)

section
variable {s t : State} (h : Observed s t)
include h

theorem Observed.aeCtx (e : Fin 32) (c : Fin 4) : t.aeCtx e c = s.aeCtx e c := by rw [show t = _ from h]; rfl
theorem Observed.seqs : t.seqs = s.seqs := by rw [show t = _ from h]
theorem Observed.sram : t.sram = s.sram := by rw [show t = _ from h]

end

theorem setGrain_observed (s : State) (g : Nat) (x : Grain) : Observed s (s.setGrain g x) := rfl

theorem wakeDie_observed (s : State) (d : Nat) : Observed s (wakeDie s d) := rfl

theorem startBacking_observed (s : State) (g d : Nat) (die : Fin 5) : Observed s (startBacking s g d die) := by
  unfold startBacking
  dsimp only
  split
  · exact (setGrain_observed _ _ _).trans (.of_reported (count_reported _ _))
  · exact .refl s

theorem pushPend_observed (s : State) (p : Pend) : Observed s (pushPend s p) := by
  unfold pushPend
  split <;> rfl

theorem markPending_observed (s : State) (g : Nat) (cls : Fin 4) : Observed s (markPending s g cls) := by
  unfold markPending markPend
  dsimp only
  split
  · exact (setGrain_observed _ _ _).trans (pushPend_observed _ _)
  · exact .refl s

/-- The last use is noted, which may wake the die; the count of uses may ask for a promotion. -/
theorem observe_observed (s : State) (g : Nat) (die : Fin 5) : Observed s (observe s g die) := by
  unfold observe
  lift_lets
  intro x a b
  have ha : Observed s a := by
    subst a
    split
    · exact .refl s
    · exact wakeDie_observed _ _
  have hb : Observed s b := ha.trans (setGrain_observed _ _ _)
  clear_value b
  intro i n _ b'
  have hb' : Observed s b' := hb.trans rfl
  clear_value b'
  split
  · split
    · exact hb'.trans ((setGrain_observed _ _ _).trans (.foldl id (fun _ _ => markPending_observed _ _ _) _ _))
    · exact hb'
  · exact hb

theorem meetGrain_observed (s : State) (g d : Nat) (write kv : Bool) (die : Fin 5) :
    Observed s (meetGrain s g d write kv die).1 := by
  unfold meetGrain
  dsimp only
  split
  · exact startBacking_observed _ _ _ _
  · exact observe_observed _ _ _
  · exact .refl s

theorem aeMeet_observed (s : State) (e : Fin 32) (a n d : Nat) (write kv : Bool) :
    Observed s (aeMeet s e a n d write kv).1 := by
  unfold aeMeet
  split
  · exact .refl s
  · split
    · exact .refl s
    · split
      · exact .refl s
      · refine .foldl Prod.fst (fun p i => ?_) _ (s, Access.served)
        split
        · exact meetGrain_observed _ _ _ _ _ _
        · exact .refl _

theorem aeRead_observed (s : State) (e : Fin 32) (sram : Bool) (a n d seg : Nat) :
    Observed s (aeRead s e sram a n d seg).1 := by
  have hm : Observed s (aeMeetAt s e sram a n d false).1 := by
    unfold aeMeetAt
    split
    · exact .refl s
    · exact aeMeet_observed _ _ _ _ _ _ _
  unfold aeRead
  dsimp only
  split <;> exact hm

theorem aeThen_observed {α β : Type} {s : State} {p : State × AeMeets α} {f : State → α → State × AeMeets β}
    (hp : Observed s p.1) (hf : ∀ a v, Observed a (f a v).1) : Observed s (aeThen p f).1 := by
  unfold aeThen
  split
  · exact hp.trans (hf _ _)
  · exact hp
  · exact hp

theorem aeEach_observed {α β : Type} {f : State → α → State × AeMeets β} (hf : ∀ s x, Observed s (f s x).1)
    (s : State) (l : List α) : Observed s (aeEach s l f).1 :=
  .foldl Prod.fst (fun p x => aeThen_observed (.refl p.1) fun a _ => aeThen_observed (hf a x) fun b _ => .refl b) l (s, .ok [])

/-- An ATTEND's entry reads: its segments and their sequences, its rows, its trees, its queries and its frequencies. -/
theorem attendEntry_observed (s : State) (e : Fin 32) (i : AeIssue) (entered : Tab SeqEntry) (d : Nat) :
    Observed s (attendEntry s e i entered d).1 := by
  unfold attendEntry
  refine aeThen_observed (aeRead_observed _ _ _ _ _ _ _) fun s1 segs => ?_
  refine aeThen_observed (aeEach_observed (fun a w => ?_) _ _) fun s2 vers => ?_
  · split <;> exact .refl a
  refine aeThen_observed (aeRead_observed _ _ _ _ _ _ _) fun s3 rows => ?_
  dsimp only
  split
  · exact .refl s3
  refine aeThen_observed (aeEach_observed (fun a w => ?_) _ _) fun s4 trees => ?_
  · split
    · exact .refl a
    · exact aeThen_observed (aeRead_observed _ _ _ _ _ _ _) fun b t => .refl b
  refine aeThen_observed (aeRead_observed _ _ _ _ _ _ _) fun s5 queries => ?_
  refine aeThen_observed ?_ fun s6 freqs => .refl s6
  split
  · exact aeRead_observed _ _ _ _ _ _ _
  · exact .refl s5

/-! The issue of an instruction that changes no register of its context. -/

theorem issue_of_issues {s : State} {u : Issue} (h : Issues s u) (f : Ctx → State) :
    issue s u f = f (s.ctx u.tile u.ctx) := by
  obtain ⟨hcan, hpred, -⟩ := h
  simp only [issue, hcan, hpred, if_true]

theorem advance_setCtx_self (s : State) (t : Fin 192) (c : Fin 4) :
    advance (s.setCtx t c (s.ctx t c)) t c = advance s t c := by
  unfold advance advanceFrom
  simp [State.setCtx_setCtx]

theorem advance_continues_id {s : State} {u : Issue}
    (h : (BitVec.ofNat 32 (following (s.ctx u.tile u.ctx)).1).toNat < codeLen s u.tile u.ctx) :
    Continues s u (s.ctx u.tile u.ctx) id (advance s u.tile u.ctx) := by
  rw [← advance_setCtx_self]
  exact advance_continues (f := id) rfl rfl rfl h

theorem Continues.of_idle {s t : State} {u : Issue} {x : Ctx} {f : Ctx → Ctx} {i : Idle}
    (h : Continues { s with idle := i } u x f t) : Continues s u x f t := Scheduled.idle.trans h

theorem Continues.reported {s t v : State} {u : Issue} {x : Ctx} {f : Ctx → Ctx} (h : Continues s u x f t)
    (k : Reported t v) : Continues s u x f v := Scheduled.trans h (.reported k)

theorem Continues.aeCtx {s t : State} {u : Issue} {x : Ctx} {f : Ctx → Ctx} (h : Continues s u x f t) (e : Fin 32)
    (c : Fin 4) : t.aeCtx e c = s.aeCtx e c := by
  obtain ⟨ht, -⟩ := h
  rw [show t = _ from ht]
  rfl

theorem aeCtx_setAeCtx_self (s : State) (e : Fin 32) (c : Fin 4) (x : AeCtx) : (s.setAeCtx e c x).aeCtx e c = x := by simp

theorem idleAe_eq_idle (s : State) (e : Fin 32) : ∃ i, idleAe s e = { s with idle := i } := by
  unfold idleAe idleUnit
  dsimp only
  split
  · split <;> exact ⟨_, rfl⟩
  · split <;> exact ⟨_, rfl⟩

/-! AEQ (R213, R214, R245; the fault 0x01 by log entry 22). -/

/-- What AEQ puts into a queue. -/
def aeqIssue (s : State) (u : Issue) (desc : BitVec 16) (bnd : Fin 32) (n : Fin 16) : AeIssue :=
  let x := s.ctx u.tile u.ctx
  { desc := desc, slot := n, tile := u.tile, ctx := u.ctx, pc := x.pc, issued := s.streams.issues, mLive := (boundOf x bnd 65535).1,
    zero := boundZero x bnd }

section
variable {s : State} {u : Issue} {desc : BitVec 16} {e : Fin 32} {c : Fin 4} {bnd : Fin 32} {n : Fin 16}

theorem execAeq_of_failed (hi : Issues s u) (hn : (s.ctx u.tile u.ctx).slot = some n) (hf : (s.ae e).failed = true) :
    execAeq u desc e c bnd s = .next (issueFault s u (s.ctx u.tile u.ctx) 0x07 (some stNoResource)) := by
  simp only [execAeq, issue_of_issues hi, hn, hf, if_true]

/-- A context of another launch, or a descriptor number that the image does not reach. -/
theorem execAeq_of_not_mine (hi : Issues s u) (hn : (s.ctx u.tile u.ctx).slot = some n) (hf : (s.ae e).failed = false)
    (hm : ¬ ((s.aeCtx e c).owner = some n ∧ desc.toNat < secCount (s.slot n).image 0xC)) :
    execAeq u desc e c bnd s = .next (issueFault s u (s.ctx u.tile u.ctx) 0x01 none) := by
  have hb : ((s.aeCtx e c).owner != some n || decide (secCount (s.slot n).image 0xC ≤ desc.toNat)) = true := by
    rw [Bool.or_eq_true, bne_iff_ne, decide_eq_true_eq, ← Nat.not_lt]
    exact Decidable.not_and_iff_or_not.mp hm
  simp only [execAeq, issue_of_issues hi, hn, hf, hb, if_true, Bool.false_eq_true, if_false]

/-- An AEQ that its launch may issue: a queue of 16 is left as it is, with an event; a shorter one takes the descriptor. -/
theorem execAeq_of_mine (hi : Issues s u) (hn : (s.ctx u.tile u.ctx).slot = some n) (hf : (s.ae e).failed = false)
    (hm : (s.aeCtx e c).owner = some n ∧ desc.toNat < secCount (s.slot n).image 0xC) : ∃ ev,
    execAeq u desc e c bnd s = .next (if 16 ≤ (s.aeCtx e c).queue.length then emit (advance s u.tile u.ctx) ev
      else advance (idleAe (bumpIssue (s.setAeCtx e c { s.aeCtx e c with
        queue := (s.aeCtx e c).queue ++ [aeqIssue s u desc bnd n] })) e) u.tile u.ctx) := by
  obtain ⟨hown, hdesc⟩ := hm
  have hb : ((s.aeCtx e c).owner != some n || decide (secCount (s.slot n).image 0xC ≤ desc.toNat)) = false := by
    simp [hown, hdesc]
  simp only [execAeq, issue_of_issues hi, hn, hf, hb, Bool.false_eq_true, if_false]
  exact ⟨_, rfl⟩

theorem execAeq_full_continues (hi : Issues s u) (hn : (s.ctx u.tile u.ctx).slot = some n) (hf : (s.ae e).failed = false)
    (hm : (s.aeCtx e c).owner = some n ∧ desc.toNat < secCount (s.slot n).image 0xC) (hq : 16 ≤ (s.aeCtx e c).queue.length) :
    ∃ t, execAeq u desc e c bnd s = .next t ∧ Continues s u (s.ctx u.tile u.ctx) id t := by
  obtain ⟨ev, h⟩ := execAeq_of_mine (bnd := bnd) hi hn hf hm
  rw [h, if_pos hq]
  exact ⟨_, rfl, (advance_continues_id hi.2.2).reported (emit_reported _ _)⟩

theorem execAeq_appends (hi : Issues s u) (hn : (s.ctx u.tile u.ctx).slot = some n) (hf : (s.ae e).failed = false)
    (hm : (s.aeCtx e c).owner = some n ∧ desc.toNat < secCount (s.slot n).image 0xC) (hq : (s.aeCtx e c).queue.length < 16) :
    let y := { s.aeCtx e c with queue := (s.aeCtx e c).queue ++ [aeqIssue s u desc bnd n] }
    ∃ t, execAeq u desc e c bnd s = .next t ∧ t.aeCtx e c = y ∧
      Continues (bumpIssue (s.setAeCtx e c y)) u (s.ctx u.tile u.ctx) id t := by
  intro y
  obtain ⟨ev, h⟩ := execAeq_of_mine (bnd := bnd) hi hn hf hm
  obtain ⟨i, hidle⟩ := idleAe_eq_idle (bumpIssue (s.setAeCtx e c y)) e
  rw [h, if_neg (Nat.not_le.mpr hq), hidle]
  obtain ⟨-, -, hcode⟩ := hi
  have hc := Continues.of_idle (advance_continues_id (s := { bumpIssue (s.setAeCtx e c y) with idle := i }) hcode)
  refine ⟨_, rfl, ?_, hc⟩
  rw [hc.aeCtx]
  exact aeCtx_setAeCtx_self s e c y

end

/-! The walker slot of an AE context (R266). -/

/-- The epoch in the walker slot of an AE context. -/
def aeEpoch (s : State) (e : Fin 32) (c : Fin 4) : Option Word32 := (tabGet {} s.seqs.walkers (aeWalker e c)).epoch

/-- The state in which a descriptor starts: an ATTEND that took no credit enters now. -/
def aeEntered (s : State) (e : Fin 32) (c : Fin 4) : State := if aeEpoch s e c = none then enterAe s e c else s

theorem enterWalker_aeCtx (s : State) (k : Nat) (e : Fin 32) (c : Fin 4) : (enterWalker s k).aeCtx e c = s.aeCtx e c := rfl

/-- An entry notes the open sequences and the epoch, and changes nothing else. -/
theorem aeEntered_cases (s : State) (e : Fin 32) (c : Fin 4) : aeEntered s e c = s ∨
    ∃ l, aeEntered s e c = enterWalker (s.setAeCtx e c { s.aeCtx e c with entered := l }) (aeWalker e c) := by
  unfold aeEntered enterAe
  dsimp only
  split
  · split
    · split
      · exact .inr ⟨_, rfl⟩
      · exact .inl rfl
    · exact .inl rfl
  · exact .inl rfl

section
variable {s : State} {e : Fin 32} {c : Fin 4} {i : AeIssue} {rest : List AeIssue}

/-- The end of a start: the head of the queue has its run. -/
def putRun (s : State) (e : Fin 32) (c : Fin 4) (r : AeRun) : State :=
  s.setAeCtx e c { s.aeCtx e c with run := some r, heldAt := none }

theorem putRun_run (r : AeRun) : ((putRun s e c r).aeCtx e c).run = some r := by simp [putRun]
theorem putRun_queue (r : AeRun) : ((putRun s e c r).aeCtx e c).queue = (s.aeCtx e c).queue := by simp [putRun]

/-- A MERGE or ROPE_TABLE does not enter. -/
theorem aeEntered_of_not_attend (hq : (s.aeCtx e c).queue = i :: rest)
    (hk : adKind (aeDesc s i.slot i.desc.toNat) ≠ 0) : aeEntered s e c = s := by
  have hne : aeKind s i ≠ 0 := hk
  simp only [aeEntered, enterAe, hq, hne, if_false, ite_self]

theorem aeEntered_queue : ((aeEntered s e c).aeCtx e c).queue = (s.aeCtx e c).queue := by
  obtain h | ⟨l, h⟩ := aeEntered_cases s e c
  · rw [h]
  · rw [h, enterWalker_aeCtx, aeCtx_setAeCtx_self]

/-- An ATTEND that starts has an epoch: the one it entered with, or the present one. -/
theorem aeEpoch_aeEntered (hq : (s.aeCtx e c).queue = i :: rest) (hk : adKind (aeDesc s i.slot i.desc.toNat) = 0) :
    aeEpoch (aeEntered s e c) e c = some ((aeEpoch s e c).getD s.seqs.epoch) := by
  have he : aeKind s i = 0 := hk
  unfold aeEntered
  cases h : aeEpoch s e c with
  | none => simp [enterAe, hq, he, aeEpoch, enterWalker]
  | some x => simp [h]

theorem aeEntered_bytes : (aeEntered s e c).dev = s.dev ∧ (aeEntered s e c).sram = s.sram := by
  obtain h | ⟨l, h⟩ := aeEntered_cases s e c <;> rw [h] <;> exact ⟨rfl, rfl⟩

/-! The start of a descriptor (R214, R266). -/

theorem startAe_eq (d : Nat) : startAe s e c i d =
    if i.zero || adKind d != 0 then putRun (aeEntered s e c) e c {}
    else
      let r := attendEntry (aeEntered s e c) e i ((aeEntered s e c).aeCtx e c).entered d
      match r.2 with
      | .held a => holdAe r.1 e c a
      | .fail seg a st => aeFault r.1 e c seg a st
      | .ok run => putRun r.1 e c run := by
  simp only [startAe, aeEntered, aeEpoch, Option.isNone_iff_eq_none]
  rfl

theorem startAe_of_not_attend (hq : (s.aeCtx e c).queue = i :: rest)
    (hk : adKind (aeDesc s i.slot i.desc.toNat) ≠ 0) :
    startAe s e c i (aeDesc s i.slot i.desc.toNat) = putRun s e c {} := by
  rw [startAe_eq, if_pos (by simp [hk]), aeEntered_of_not_attend hq hk]

theorem startAe_of_zero (hz : i.zero = true) (d : Nat) : startAe s e c i d = putRun (aeEntered s e c) e c {} := by
  rw [startAe_eq, if_pos (by simp [hz])]

theorem startAe_of_entry {d : Nat} {w : State} {run : AeRun} (hz : i.zero = false) (hk : adKind d = 0)
    (h : attendEntry (aeEntered s e c) e i ((aeEntered s e c).aeCtx e c).entered d = (w, .ok run)) :
    startAe s e c i d = putRun w e c run := by
  rw [startAe_eq, if_neg (by simp [hz, hk]), h]

/-- Nothing but its credit keeps the head of the queue from its start. -/
def HeadReady (s : State) (e : Fin 32) (c : Fin 4) (i : AeIssue) (rest : List AeIssue) : Prop :=
  (s.aeCtx e c).queue = i :: rest ∧ (s.aeCtx e c).run = none ∧ (s.aeCtx e c).stopping = false ∧
    (s.aeCtx e c).saved = false ∧ (s.ae e).failed = false ∧ s.level (aeUnit e) = 0 ∧
    ∀ r ∈ s.sync.reqs, r.act ≠ .withdraw (.ae e c i.issued)

/-- What the credit of the head decides: its take is sent, is waited for, ends the descriptor, or lets it start. -/
def creditTurn (s : State) (e : Fin 32) (c : Fin 4) (i : AeIssue) : Option Nat → CreditSt → State
  | none, _ => startAe s e c i (aeDesc s i.slot i.desc.toNat)
  | some a, .notTaken => sendReq (s.setAeCtx e c { s.aeCtx e c with credit := .waiting }) ⟨a, .credit (.ae e c i.issued), i.pc, 0⟩
  | some _, .waiting => s
  | some a, .abandoned => aeFault s e c 0xFF a stAbandoned
  | some _, .granted => startAe s e c i (aeDesc s i.slot i.desc.toNat)

theorem execAeDescriptorStart_of_ready (h : HeadReady s e c i rest) {o : Option Nat} {k : CreditSt}
    (ho : aeObj s e c i (adConsume (aeDesc s i.slot i.desc.toNat)) = o) (hk : (s.aeCtx e c).credit = k) :
    execAeDescriptorStart e c s = .next (creditTurn s e c i o k) := by
  obtain ⟨hq, hrun, hstop, hsaved, hfail, hlevel, hreqs⟩ := h
  have hany : s.sync.reqs.any (fun r => r.act == .withdraw (.ae e c i.issued)) = false := by
    simpa using hreqs
  unfold execAeDescriptorStart
  dsimp only
  split
  · next hnil => exact nomatch hq.symm.trans hnil
  · next hcons =>
    obtain ⟨rfl, rfl⟩ := List.cons.inj (hq.symm.trans hcons)
    rw [if_neg (by simp [hrun, hstop, hsaved, hfail, hlevel, hany]), ho, hk]
    cases o with
    | none => rfl
    | some a => cases k <;> rfl

theorem execAeDescriptorStart_of_credit (h : HeadReady s e c i rest)
    (hc : aeObj s e c i (adConsume (aeDesc s i.slot i.desc.toNat)) = none ∨ (s.aeCtx e c).credit = .granted) :
    execAeDescriptorStart e c s = .next (startAe s e c i (aeDesc s i.slot i.desc.toNat)) := by
  cases ho : aeObj s e c i (adConsume (aeDesc s i.slot i.desc.toNat)) with
  | none => exact execAeDescriptorStart_of_ready h ho rfl
  | some a => exact execAeDescriptorStart_of_ready h ho (hc.resolve_left (by simp [ho]))

end

/-! The statement. -/

/-- Settles O17: AEQ by its four cases, the start by what the credit decides and then by the kind of the descriptor. -/
theorem aeqDescriptorsQueueAndStart : Obligations.AeqDescriptorsQueueAndStart := by
  unfold Obligations.AeqDescriptorsQueueAndStart
  refine ⟨?aeq, ?start⟩
  case aeq =>
    intro s u desc e c bnd n hi x y i mine hn
    exact ⟨fun hf hm hq => execAeq_appends hi hn hf hm hq, fun hf hm hq => execAeq_full_continues hi hn hf hm hq,
      fun hf => execAeq_of_failed hi hn hf, fun hf hm => execAeq_of_not_mine hi hn hf hm⟩
  case start =>
    intro s e c i rest x d credit hq hrun hstop hsaved hfail hlevel hreqs old entered
    have hr : HeadReady s e c i rest := ⟨hq, hrun, hstop, hsaved, hfail, hlevel, hreqs⟩
    have hstart := execAeDescriptorStart_of_credit hr
    obtain ⟨hdev, hsram⟩ := aeEntered_bytes (s := s) (e := e) (c := c)
    refine ⟨?notTaken, ?waiting, ?abandoned, ?other, ?zero, ?attend⟩
    case notTaken => intro a ha hc; exact execAeDescriptorStart_of_ready hr ha hc
    case waiting => intro a ha hc; exact execAeDescriptorStart_of_ready hr ha hc
    case abandoned => intro a ha hc; exact execAeDescriptorStart_of_ready hr ha hc
    case other => intro hc hk; exact (hstart hc).trans (by rw [startAe_of_not_attend hq hk]; rfl)
    case zero =>
      intro hc hk hz
      refine ⟨_, (hstart hc).trans (by rw [startAe_of_zero hz]), putRun_run _, ?_, aeEpoch_aeEntered hq hk, hdev, hsram⟩
      exact (putRun_queue _).trans aeEntered_queue
    case attend =>
      intro w run hc hk hz hw
      have ho : Observed (aeEntered s e c) w := by
        have h := attendEntry_observed entered e i (entered.aeCtx e c).entered d
        rwa [hw] at h
      refine ⟨_, (hstart hc).trans (by rw [startAe_of_entry hz hk hw]), putRun_run _, ?_, ?_, rfl, ho.sram.trans hsram⟩
      · rw [putRun_queue, ho.aeCtx]
        exact aeEntered_queue
      · have hepoch : aeEpoch (putRun w e c run) e c = aeEpoch (aeEntered s e c) e c := congrArg
          (fun q => (tabGet {} q.walkers (aeWalker e c)).epoch) ho.seqs
        exact hepoch.trans (aeEpoch_aeEntered hq hk)

end Sys2Proof.Machine
end

section
/-! Ring passes (O23, O25): what a word of the hub and a message leave of rings and passes; the acceptance, the beginning, the
due times and the ends of a pass. -/

namespace Sys2Proof.Machine

/-! What a word of the hub leaves unchanged (R260, R280). -/

/-- The ring unit and the records that wait in the windows of contexts are those of s. -/
structure PassesKept (s t : State) : Prop where
  rings : t.rings = s.rings
  records : t.seqs.records = s.seqs.records

theorem PassesKept.refl (s : State) : PassesKept s s := ⟨rfl, rfl⟩

theorem PassesKept.trans {a b c : State} (h : PassesKept a b) (k : PassesKept b c) : PassesKept a c :=
  ⟨k.rings.trans h.rings, k.records.trans h.records⟩

/-- The same of what is done after a change of other parts of the state. -/
theorem PassesKept.after {a b c : State} (k : PassesKept b c) (hr : b.rings = a.rings) (hq : b.seqs.records = a.seqs.records) :
    PassesKept a c := .trans ⟨hr, hq⟩ k

theorem PassesKept.forAll {α : Type} {f : State → α → State} (hf : ∀ s a, PassesKept s (f s a)) (l : List α) (s : State) :
    PassesKept s (s.forAll l f) := by
  unfold State.forAll
  induction l generalizing s with
  | nil => exact .refl s
  | cons a l ih => exact (hf s a).trans (ih _)

theorem PassesKept.of_observed {s t : State} (h : Observed s t) : PassesKept s t :=
  ⟨by rw [show t = _ from h], by rw [h.seqs]⟩

theorem PassesKept.of_reported {s t : State} (h : Reported s t) : PassesKept s t := .of_observed (.of_reported h)

theorem PassesKept.bind {s t : State} (h : PassesKept s t) (b : Nat) : t.bind b = s.bind b := by
  rw [State.bind, State.bind, h.rings]

theorem emitTo_reported (s : State) (i : Nat) (e : Ev) : Reported s (emitTo s i e) := by
  obtain ⟨c, h | ⟨j, e', h⟩⟩ := emitTo_cases s i e
  · rw [h]; rfl
  · rw [h]; exact .trans (b := s.withCounters c) rfl (queueEvent_reported _ _ _)

theorem freeNearOf_passesKept (s : State) (x : Grain) : PassesKept s (freeNearOf s x) := by
  unfold freeNearOf
  dsimp only
  split <;> split <;> exact ⟨rfl, rfl⟩

theorem freeFarOf_passesKept (s : State) (x : Grain) : PassesKept s (freeFarOf s x) := by
  unfold freeFarOf
  dsimp only
  split <;> split <;> exact ⟨rfl, rfl⟩

theorem releaseNow_passesKept (s : State) (g : Nat) : PassesKept s (releaseNow s g) :=
  ((freeNearOf_passesKept s (s.grain g)).trans (freeFarOf_passesKept _ (s.grain g))).trans ⟨rfl, rfl⟩

theorem cancelEviction_passesKept (s : State) (g : Nat) : PassesKept s (cancelEviction s g) := by
  unfold cancelEviction
  dsimp only
  split
  · have hcount := (PassesKept.of_reported (count_reported (s.setGrain g { s.grain g with st := 2 }) 0x0500)).after (a := s) rfl rfl
    unfold afterCopy
    split
    · exact hcount.trans (releaseNow_passesKept _ _)
    · exact hcount
  · exact .refl s

theorem devStore_passesKept (s : State) (a : Nat) (l : List Byte) : PassesKept s (devStore s a l) := by
  unfold devStore grainWritten
  dsimp only
  split
  · exact ⟨rfl, rfl⟩
  · split
    · exact (cancelEviction_passesKept _ _).after rfl rfl
    · exact ⟨rfl, rfl⟩

theorem creditReply_passesKept (s : State) (src : CreditSrc) (r : CreditSt) : PassesKept s (creditReply s src r) := by
  cases src with
  | stream q n =>
    unfold creditReply
    dsimp only
    split
    · split <;> exact ⟨rfl, rfl⟩
    · exact .refl s
  | ae e c n =>
    have henter : ∀ a, PassesKept a (enterAe a e c) := by
      intro a
      unfold enterAe
      dsimp only
      split
      · split <;> exact ⟨rfl, rfl⟩
      · exact .refl a
    unfold creditReply
    dsimp only
    split
    · split
      · exact (henter _).after rfl rfl
      · exact ⟨rfl, rfl⟩
    · exact .refl s
  | coll g n => exact ⟨rfl, rfl⟩

theorem fireNotifs_passesKept (s : State) (a status : Nat) (p : Notif → Bool) : PassesKept s (fireNotifs s a status p) :=
  (PassesKept.forAll (fun _ _ => .of_reported (emitTo_reported _ _ _)) _ _).after rfl rfl

theorem releaseMet_passesKept (s : State) (a : Nat) : PassesKept s (releaseMet s a) := by
  refine .trans ?replies (fireNotifs_passesKept _ _ _ _)
  refine PassesKept.after (.forAll (fun s w => ?reply) _ _) rfl rfl
  cases w <;> exact ⟨rfl, rfl⟩

theorem grantTakers_passesKept (k : Nat) (s : State) (a : Nat) : PassesKept s (grantTakers k s a) := by
  induction k generalizing s with
  | zero => exact .refl s
  | succ k ih =>
    unfold grantTakers
    dsimp only
    split
    · split
      · exact .refl s
      · exact (((creditReply_passesKept _ _ _).trans (releaseMet_passesKept _ _)).trans (ih _)).after rfl rfl
    · exact .refl s

theorem changeCounter_passesKept (s : State) (a : Nat) (v : Word32) : PassesKept s (changeCounter s a v) := by
  have hwork : PassesKept s (workWrite s a (s.obj a).count v) := by
    unfold workWrite
    dsimp only
    split
    · exact .of_reported (emit_reported _ _)
    · exact .refl s
  unfold changeCounter setCounterObj
  exact hwork.trans (((releaseMet_passesKept _ _).trans (grantTakers_passesKept _ _ _)).after rfl rfl)

theorem plainWrite_passesKept (s : State) (a n v cls src ctx : Nat) :
    PassesKept s (plainWrite s a n v cls src ctx).1 := by
  unfold plainWrite
  dsimp only
  split
  · exact .of_reported (count_reported _ _)
  · split
    · exact .of_reported ((count_reported _ _).trans (emit_reported _ _))
    · exact changeCounter_passesKept _ _ _

theorem devWrite_passesKept (s : State) (a : Nat) (l : List Byte) (cls src ctx : Nat) :
    PassesKept s (devWrite s a l cls src ctx).1 := by
  unfold devWrite
  split
  · exact plainWrite_passesKept _ _ _ _ _ _ _
  · split
    · exact devStore_passesKept _ _ _
    · exact (devStore_passesKept _ _ _).trans (devStore_passesKept _ _ _)

theorem devMeet_passesKept (s : State) (a n d : Nat) (write : Bool) (die : Fin 5) :
    PassesKept s (devMeet s a n d write die).1 := by
  have hmeet : ∀ b g, PassesKept b (meetGrain b g d write false die).1 := fun _ _ => .of_observed (meetGrain_observed _ _ _ _ _ _)
  unfold devMeet
  dsimp only
  split
  · split
    · exact hmeet _ _
    · split
      · exact (hmeet _ _).trans (hmeet _ _)
      · exact hmeet _ _
  · split
    · exact .refl s
    · split <;> exact .refl s

theorem wordStore_passesKept (s : State) (w : HubWrite) : PassesKept s (wordStore s w) := by
  unfold wordStore
  dsimp only
  split
  · exact devWrite_passesKept _ _ _ _ _ _
  · split
    · exact .refl s
    · exact devWrite_passesKept _ _ _ _ _ _

theorem hubTry_passesKept (s : State) (w : HubWrite) : PassesKept s (hubTry s w).1 := by
  unfold hubTry
  dsimp only
  split
  · split
    · exact .of_observed (startBacking_observed _ _ _ _)
    · split
      · exact .refl s
      · exact devStore_passesKept _ _ _
  · split
    · exact devMeet_passesKept _ _ _ _ _ _
    · exact (devMeet_passesKept _ _ _ _ _ _).trans (wordStore_passesKept _ _)
    · exact devMeet_passesKept _ _ _ _ _ _

theorem addObj_passesKept (s : State) (a : Nat) (k : Word32) : PassesKept s (addObj s a k) := by
  unfold addObj
  dsimp only
  split
  · exact .of_reported (count_reported _ _)
  · split
    · exact changeCounter_passesKept _ _ _
    · exact .refl s

theorem hubWord_passesKept (s : State) (w : HubWrite) : PassesKept s (hubWord s w) := by
  unfold hubWord
  dsimp only
  split
  · exact (hubTry_passesKept _ _).trans (.forAll (fun _ _ => addObj_passesKept _ _ _) _ _)
  · exact (hubTry_passesKept _ _).trans ⟨rfl, rfl⟩

theorem moverWord_passesKept (s : State) (w : WindowRec) (a : Nat) (l : List Byte) : PassesKept s (moverWord s w a l) :=
  hubWord_passesKept _ _

/-- A refused record writes its word and advances its counter, and touches neither rings nor windows (R280). -/
theorem refusePass_passesKept (s : State) (w : WindowRec) (status : Nat) : PassesKept s (refusePass s w status) := by
  have hdraw : ∀ c : Prop, ∀ [Decidable c], PassesKept s (if c then s.bump else s) := by
    intro c _
    split <;> exact ⟨rfl, rfl⟩
  unfold refusePass
  dsimp only
  split
  · exact (hdraw _).trans (addObj_passesKept _ _ _)
  · exact (hdraw _).trans (hubWord_passesKept _ _)

/-! What a message leaves unchanged: only the planes noted on chunks that are not acknowledged change (R298). -/

/-- The binding with other notes on its pass's unacknowledged chunks. -/
def Binding.noted (x : Binding) (f : List RingSent → List RingSent) : Binding :=
  { x with pass := x.pass.map (fun p => { p with unacked := f p.unacked }) }

theorem Binding.noted_id (x : Binding) : x.noted id = x := by
  unfold Binding.noted
  simp

theorem Binding.noted_noted (x : Binding) (f g : List RingSent → List RingSent) : (x.noted f).noted g = x.noted (g ∘ f) := by
  simp [Binding.noted, Function.comp_def]

/-- The ring table is that of s, and so is each binding but for notes on the chunks that its pass has sent. -/
structure ChunksNoted (s t : State) : Prop where
  table : t.rings.table = s.rings.table
  binds : ∀ b, ∃ f, t.bind b = (s.bind b).noted f

theorem ChunksNoted.of_rings_eq {s t : State} (h : t.rings = s.rings) : ChunksNoted s t :=
  ⟨by rw [h], fun b => ⟨id, by rw [Binding.noted_id, State.bind, State.bind, h]⟩⟩

theorem ChunksNoted.refl (s : State) : ChunksNoted s s := .of_rings_eq rfl

theorem PassesKept.chunksNoted {s t : State} (h : PassesKept s t) : ChunksNoted s t := .of_rings_eq h.rings

theorem ChunksNoted.trans {a b c : State} (h : ChunksNoted a b) (k : ChunksNoted b c) : ChunksNoted a c := by
  refine ⟨k.table.trans h.table, fun i => ?_⟩
  obtain ⟨f, hf⟩ := h.binds i
  obtain ⟨g, hg⟩ := k.binds i
  exact ⟨g ∘ f, by rw [hg, hf, Binding.noted_noted]⟩

theorem ChunksNoted.forAll {α : Type} {f : State → α → State} (hf : ∀ s a, ChunksNoted s (f s a)) (l : List α) (s : State) :
    ChunksNoted s (s.forAll l f) := by
  unfold State.forAll
  induction l generalizing s with
  | nil => exact .refl s
  | cons a l ih => exact (hf s a).trans (ih _)

section
variable {s t : State} (h : ChunksNoted s t)
include h

theorem ChunksNoted.ringIx (id : BitVec 12) : ringIx t id = ringIx s id := by
  unfold Machine.ringIx
  rw [h.table]

theorem ChunksNoted.used (b : Nat) : (t.bind b).used = (s.bind b).used := by
  obtain ⟨f, hf⟩ := h.binds b
  rw [hf]; rfl

theorem ChunksNoted.bind_ring (b : Nat) : (t.bind b).ring = (s.bind b).ring := by
  obtain ⟨f, hf⟩ := h.binds b
  rw [hf]; rfl

theorem ChunksNoted.pass {b : Nat} {p : Pass} (hp : (s.bind b).pass = some p) :
    ∃ l, (t.bind b).pass = some { p with unacked := l } := by
  obtain ⟨f, hf⟩ := h.binds b
  exact ⟨f p.unacked, by simp only [hf, Binding.noted, hp, Option.map_some]⟩

end

theorem noteChunk_chunksNoted (s : State) (k : Packet) : ChunksNoted s (noteChunk s k) := by
  unfold noteChunk
  split
  · next b dst d _ =>
    refine ⟨rfl, fun j => ?_⟩
    by_cases hj : b.val = j
    · exact ⟨_, (State.setBind_bind ..).trans (by subst hj; exact if_pos rfl)⟩
    · exact ⟨id, (State.setBind_bind ..).trans (by rw [if_neg hj, Binding.noted_id])⟩
  · exact .of_rings_eq rfl
  · exact .refl s

theorem noteSent_chunksNoted (s : State) (k : Packet) : ChunksNoted s (noteSent s k) := by
  unfold noteSent
  split
  · exact noteChunk_chunksNoted s k
  · split <;> exact .of_rings_eq rfl

theorem launchOn_chunksNoted (s : State) (k : Packet) (p : Nat) : ChunksNoted s (launchOn s k p) := by
  unfold launchOn
  dsimp only
  refine .trans (.of_rings_eq ?_) (noteSent_chunksNoted _ _)
  split <;> rfl

theorem queuePacket_chunksNoted (s : State) (k : Packet) : ChunksNoted s (queuePacket s k) := by
  unfold queuePacket
  dsimp only
  split
  · exact .of_rings_eq rfl
  · split
    · exact launchOn_chunksNoted _ _ _
    · exact .of_rings_eq rfl

theorem openSession_chunksNoted (s : State) (d : Nat) (timeOnly : Bool) : ChunksNoted s (openSession s d timeOnly) := by
  unfold openSession
  dsimp only
  split
  · exact .trans (b := s.bump.setSess d { s.sess d with st := 1, timeOnly := timeOnly, eph := s.free }) (.of_rings_eq rfl)
      (queuePacket_chunksNoted _ _)
  · exact .refl s

theorem sendPacket_chunksNoted (s : State) (k : Packet) : ChunksNoted s (sendPacket s k) := by
  unfold sendPacket
  split
  · exact (openSession_chunksNoted _ _ _).trans (queuePacket_chunksNoted _ _)
  · exact queuePacket_chunksNoted _ _

theorem sendRing_chunksNoted (s : State) (dst domain : Nat) (items : List (Nat × Nat)) :
    ChunksNoted s (sendRing s dst domain items) := by
  unfold sendRing
  split
  · exact sendPacket_chunksNoted _ _
  · exact .refl s

theorem sendPass_chunksNoted (s : State) (r : RingEntry) (x : Binding) (p : Pass) (kind dst : Nat) (extra : List (Nat × Nat)) :
    ChunksNoted s (sendPass s r x p kind dst extra) := sendRing_chunksNoted _ _ _ _

/-! Acceptance (R278, R279). -/

theorem enterWalker_passesKept (s : State) (k : Nat) : PassesKept s (enterWalker s k) := ⟨rfl, rfl⟩

/-- The pass of a record as its acceptance makes it: not begun, nothing reached, under the version current then. -/
def passOfRec (s : State) (w : WindowRec) (b : Nat) : Pass :=
  let x := s.bind b
  { data := w.data, tile := w.tile, ctx := w.ctx, slot := w.slot, domain := w.domain
    walker := (moverSlot s (s.seq x.handle).homeDie).getD 0, version := (s.seq x.handle).versionAddr.toNat
    a0 := (s.obj (prArrive w.num)).count, d0 := (s.obj (prDone w.num)).count, acceptedAt := s.time.now.toNat
    frees := takeEarly s x w.num, heldBy := takeHolds s x w.num }

/-- The messages that came early for a binding are taken. -/
def dropEarly (s : State) (x : Binding) : State :=
  { s with rings := { s.rings with
    early := s.rings.early.filter (fun f => !(f.header.ring == x.ring && f.header.tag == x.tag))
    earlyHolds := s.rings.earlyHolds.filter (fun f => !(f.2.ring == x.ring && f.2.tag == x.tag)) } }

/-- The ring remembers the start of the last pass that it has accepted. -/
def noteStart (s : State) (id : BitVec 12) (g : Nat) : State :=
  match ringIx s id with
  | some i => s.setRing i { (s.ring i) with lastG := BitVec.ofNat 48 g }
  | none => s

/-- Acceptance up to the entry of the mover's walker: the role word is written and the pass stands in its binding. -/
def enterPass (s : State) (w : WindowRec) (b : Nat) (r : RingEntry) : State :=
  let x := s.bind b
  let p := passOfRec s w b
  let role := moverWord (dropEarly s x) w (prRole w.num) (leBytes 8 (roleWord w.num r.n r.index))
  enterWalker (noteStart (role.setBind b { x with pass := some p }) x.ring (prG w.num)) p.walker

/-- What follows: slot-free messages to the predecessor, or the MERGE lists and slot-free messages to all who send. -/
def announcePass (s : State) (w : WindowRec) (r : RingEntry) (x : Binding) (p : Pass) : State :=
  let d := w.num
  if p.rotates then
    if r.n ≤ 1 then s
    else sendPass (sendPass s r x p rmFree r.pred [(8, 1)]) r x p rmFree r.pred [(8, 2)]
  else
    (s.forAll (mergeLists d r.n r.index) (fun s l => moverWord s w l.1 l.2)).forAll
      ((List.range r.n).filter (fun m => sendsTo d r.n m r.index)) (fun s m => sendPass s r x p rmFree (r.mem m) [(8, 0)])

theorem acceptPass_eq (s : State) (w : WindowRec) (b : Nat) (r : RingEntry) :
    acceptPass s w b r = announcePass (enterPass s w b r) w r (s.bind b) (passOfRec s w b) := rfl

theorem noteStart_bind (s : State) (id : BitVec 12) (g b : Nat) : (noteStart s id g).bind b = s.bind b := by
  unfold noteStart
  split <;> rfl

theorem enterPass_bind (s : State) (w : WindowRec) (b : Nat) (r : RingEntry) :
    (enterPass s w b r).bind b = { s.bind b with pass := some (passOfRec s w b) } :=
  ((enterWalker_passesKept _ _).bind b).trans ((noteStart_bind ..).trans ((State.setBind_bind ..).trans (if_pos rfl)))

theorem announcePass_chunksNoted (s : State) (w : WindowRec) (r : RingEntry) (x : Binding) (p : Pass) :
    ChunksNoted s (announcePass s w r x p) := by
  unfold announcePass
  dsimp only
  split
  · split
    · exact .refl s
    · exact (sendPass_chunksNoted _ _ _ _ _ _ _).trans (sendPass_chunksNoted _ _ _ _ _ _ _)
  · exact .trans (PassesKept.forAll (fun _ _ => moverWord_passesKept _ _ _ _) _ _).chunksNoted
      (.forAll (fun _ _ => sendPass_chunksNoted _ _ _ _ _ _ _) _ _)

/-- The record becomes the active pass of its binding; what is sent then may note planes on its chunks. -/
theorem acceptPass_pass (s : State) (w : WindowRec) (b : Nat) (r : RingEntry) :
    ∃ l, ((acceptPass s w b r).bind b).pass = some { passOfRec s w b with unacked := l } := by
  rw [acceptPass_eq]
  exact (announcePass_chunksNoted ..).pass (congrArg Binding.pass (enterPass_bind s w b r))

/-- The state once a record has left its window. -/
def State.dropRec (s : State) (w : WindowRec) : State :=
  { s with seqs := { s.seqs with records := s.seqs.records.erase w } }

section
variable {s : State} {u : Fin 192} {c : Fin 4} {w : WindowRec} {op : Nat}
  (hfind : s.seqs.records.find? (fun w => w.tile == u && w.ctx == c && w.pass) = some w) (hop : prOp w.num = op)
include hfind hop

theorem runPass_of_accepted {b : Nat} {r : RingEntry} (href : passRefusal (s.dropRec w) w = stOk)
    (hb : bindOfSeq (s.dropRec w) (prHandle w.num) = some b) (hr : ringOf (s.dropRec w) ((s.dropRec w).bind b).ring = some r) :
    runPass u c op s = settlePass (acceptPass (s.dropRec w) w b r) b := by
  unfold State.dropRec at *
  simp only [runPass, hfind, hop, ne_eq, not_true_eq_false, false_and, if_false, href, hb, hr]

theorem runPass_of_refused (href : passRefusal (s.dropRec w) w ≠ stOk) :
    runPass u c op s = refusePass (s.dropRec w) w (passRefusal (s.dropRec w) w) := by
  unfold State.dropRec at *
  simp only [runPass, hfind, hop, ne_eq, not_true_eq_false, false_and, if_false, href, not_false_eq_true, if_true]

end

/-- ROTATE and CIRCULATE run the oldest pass record of their context. -/
theorem exec_passRecord {i : Instr} {u : Fin 192} {c : Fin 4} {op : Nat}
    (h : (i = .rotate u c ∧ op = 0x11) ∨ (i = .circulate u c ∧ op = 0x12)) (s : State) :
    exec i s = .next (runPass u c op s) := by
  rcases h with ⟨rfl, rfl⟩ | ⟨rfl, rfl⟩ <;> rfl

theorem execPassBegin_of_reached {s : State} {b : Fin 16384} {p : Pass} (hp : (s.bind b.val).pass = some p) (hb : p.begun = none)
    (hr : stepReached s (prG p.num) = true) : execPassBegin b s = .next (settlePass (s.setBind b.val { s.bind b.val with
      pass := some { p with begun := some (max p.acceptedAt (stepTime s (prG p.num))) } }) b.val) := by
  simp only [execPassBegin, hp, hb, hr, Option.isSome_none, Bool.not_true, Bool.or_self, Bool.false_eq_true, if_false]

theorem execPassBegin_of_early {s : State} {b : Fin 16384} {p : Pass} (hp : (s.bind b.val).pass = some p)
    (hr : stepReached s (prG p.num) = false) : execPassBegin b s = .next s := by
  simp only [execPassBegin, hp, hr, Bool.not_false, Bool.or_true, if_true]

/-! Due times (R295, R296). -/

/-- The due time of a pass that has one left is not past its last: N of a ROTATE pass, one of a CIRCULATE pass. -/
theorem due_not_past {c : Prop} [Decidable c] {due n : Nat} (h : if c then due < n else due = 0) :
    ¬ (if c then n ≤ due else 1 ≤ due) := by
  split at h
  · next hc => rw [if_pos hc]; omega
  · next hc => rw [if_neg hc]; omega

section
variable {s : State} {b : Fin 16384} {p : Pass} {r : RingEntry} {t : Nat} (hp : (s.bind b.val).pass = some p)
  (hr : ringOf s (s.bind b.val).ring = some r) (hb : p.begun = some t) (hdue : if p.rotates then p.due < r.n else p.due = 0)
include hp hr hb hdue

/-- A due time that is met only clears what was noted since the one before. -/
theorem execRingDueTime_of_complete (hc : (dueState s p t).2.2.1 = true) : execRingDueTime b s = .next (s.setBind b.val
    { s.bind b.val with pass := some { p with
      due := p.due + 1, preempted := p.holding, throttled := rateHeld s, rerouted := false } }) := by
  have hopen := due_not_past hdue
  simp only [execRingDueTime, hp, hr, hb, hopen, hc, if_true, if_false]

/-- A due time that is missed is counted in the pass and in the module's counter; the first of a pass is reported. -/
theorem execRingDueTime_of_late (hc : (dueState s p t).2.2.1 = false) : ∃ v, execRingDueTime b s = .next v ∧ Reported
    (s.setBind b.val { s.bind b.val with pass := some { p with
      due := p.due + 1, preempted := p.holding, throttled := rateHeld s, rerouted := false, late := p.late + 1, reported := true } }) v := by
  have hopen := due_not_past hdue
  simp only [execRingDueTime, hp, hr, hb, hopen, hc, if_false, Bool.false_eq_true]
  split
  · exact ⟨_, rfl, count_reported _ _⟩
  · exact ⟨_, rfl, (count_reported _ _).trans (emit_reported _ _)⟩

end

/-! Ends of passes and broken rings (R280, R299). -/

theorem mem_of_tabGet_ne {α : Type} {d : α} {t : Tab α} {i : Nat} (h : tabGet d t i ≠ d) : (i, tabGet d t i) ∈ t := by
  induction t with
  | nil => exact absurd rfl h
  | cons e t ih =>
    obtain ⟨k, v⟩ := e
    unfold tabGet at h ⊢
    split at h
    · next hk => subst hk; simp
    · next hk => rw [if_neg hk]; exact List.mem_cons_of_mem _ (ih h)

/-- A binding in use is listed. -/
theorem mem_binds_of_used {s : State} {b : Nat} (h : (s.bind b).used = true) : (b, s.bind b) ∈ s.rings.binds := by
  refine mem_of_tabGet_ne fun he => ?_
  rw [State.bind, he] at h
  cases h

/-- The end of a pass takes it from its binding, and changes nothing else of the ring unit. -/
theorem endPass_rings (s : State) (b status : Nat) :
    (endPass s b status).rings.table = s.rings.table ∧
    ∀ j, (endPass s b status).bind j = if b = j then { s.bind b with pass := none } else s.bind j := by
  unfold endPass
  dsimp only
  split
  · next hp =>
    refine ⟨rfl, fun j => ?_⟩
    split
    · next hj => subst hj; rw [← hp]
    · rfl
  · have hk := fun (a : State) (w : HubWrite) => (hubWord_passesKept a w).rings
    refine ⟨by rw [hk]; rfl, fun j => ?_⟩
    rw [State.bind, hk]
    exact State.setBind_bind ..

theorem forAll_endPass_rings (l : List Nat) (s : State) (status : Nat) :
    (s.forAll l (fun s b => endPass s b status)).rings.table = s.rings.table ∧
    ∀ j, j ∈ l ∨ (s.bind j).pass = none → ((s.forAll l (fun s b => endPass s b status)).bind j).pass = none := by
  unfold State.forAll
  induction l generalizing s with
  | nil => exact ⟨rfl, fun j hj => hj.resolve_left List.not_mem_nil⟩
  | cons b l ih =>
    obtain ⟨htab, hbind⟩ := endPass_rings s b status
    obtain ⟨itab, ibind⟩ := ih (endPass s b status)
    refine ⟨itab.trans htab, fun j hj => ibind j ?_⟩
    rw [hbind]
    by_cases hbj : b = j
    · exact .inr (by rw [if_pos hbj])
    · rw [if_neg hbj]
      exact hj.imp_left fun h => (List.mem_cons.1 h).resolve_left (Ne.symm hbj)

/-- Once a ring is BROKEN no pass of it is active. -/
theorem setBroken_of_ix {s : State} {id : BitVec 12} {i : Nat} (hi : ringIx s id = some i) :
    ((setBroken s id).ring i).st = 2 ∧
    ∀ b, (s.bind b).used = true → (s.bind b).ring = id → ((setBroken s id).bind b).pass = none := by
  simp only [setBroken, hi]
  obtain ⟨htab, hpass⟩ := forAll_endPass_rings
    ((s.rings.binds.filter (fun e => e.2.used && e.2.ring == id)).map (·.1)) (s.setRing i { s.ring i with st := 2 }) stAbandoned
  refine ⟨?_, fun b hu hr => hpass b (.inl ?_)⟩
  · have hring := congrArg (fun t => (tabGet ({} : RingEntry) t i).st) htab
    exact hring.trans (congrArg RingEntry.st ((State.setRing_ring ..).trans (if_pos rfl)))
  · exact List.mem_map.2 ⟨_, List.mem_filter.2 ⟨mem_binds_of_used hu, by simp [hu, hr]⟩, rfl⟩

/-- A member that declares its ring BROKEN reports it and tells the others first, which leaves table and bindings. -/
theorem breakRing_eq (s : State) (r : RingEntry) (suspect : Nat) :
    ∃ a, breakRing s r suspect = setBroken a r.id ∧ ChunksNoted s a :=
  ⟨_, rfl, .trans (PassesKept.of_reported (emit_reported _ _)).chunksNoted (.forAll (fun _ _ => sendRing_chunksNoted _ _ _ _) _ _)⟩

theorem breakRing_of_ix {s : State} {r : RingEntry} {i : Nat} (hi : ringIx s r.id = some i) (suspect : Nat) :
    ((breakRing s r suspect).ring i).st = 2 ∧
    ∀ b, (s.bind b).used = true → (s.bind b).ring = r.id → ((breakRing s r suspect).bind b).pass = none := by
  obtain ⟨a, ha, hn⟩ := breakRing_eq s r suspect
  obtain ⟨hst, hpass⟩ := setBroken_of_ix ((hn.ringIx r.id).trans hi)
  rw [ha]
  exact ⟨hst, fun b hu hr => hpass b ((hn.used b).trans hu) ((hn.bind_ring b).trans hr)⟩

theorem execRingBreakTimer_of_no_hold {s : State} {b : Fin 16384} {p : Pass} {r : RingEntry} (hp : (s.bind b.val).pass = some p)
    (hr : ringOf s (s.bind b.val).ring = some r) (hh : p.heldBy = []) :
    execRingBreakTimer b s = .next (breakRing s r (suspectOf r p)) := by
  simp only [execRingBreakTimer, hp, hr, hh, List.isEmpty_nil, if_true]

/-- While a HOLD stands, the time without progress breaks nothing (R297). -/
theorem execRingBreakTimer_of_hold {s : State} {b : Fin 16384} {p : Pass} (hp : (s.bind b.val).pass = some p)
    (hh : p.heldBy ≠ []) : execRingBreakTimer b s = .next s := by
  unfold execRingBreakTimer
  dsimp only
  split
  · next q r hq _ =>
    obtain rfl : p = q := Option.some.inj (hp.symm.trans hq)
    exact if_neg (mt List.isEmpty_iff.1 hh)
  · rfl

theorem execBrokenMessage_of_known {s s1 : State} {p : PktHdr} {h : RingHdr} {r : RingEntry}
    (hm : ringMsg (ingress s p 4) p h = (s1, some r)) : execBrokenMessage p h s = .next (setBroken s1 r.id) := by
  simp only [execBrokenMessage, hm]

/-! The statements. -/

/-- Settles O23: a record that is not refused becomes `passOfRec`, one that is refused only writes its word; PASS_BEGIN by
whether its step has been reached. -/
theorem ringPassesAreAcceptedAndBegin : Obligations.RingPassesAreAcceptedAndBegin := by
  unfold Obligations.RingPassesAreAcceptedAndBegin
  refine ⟨?record, ?begin⟩
  case record =>
    intro s u c w i op hi hfind hop s1
    rw [exec_passRecord hi]
    refine ⟨fun b r href hb hr => ?_, fun href => ?_⟩
    · obtain ⟨l, hl⟩ := acceptPass_pass s1 w b r
      exact ⟨congrArg Host.Outcome.next (runPass_of_accepted hfind hop href hb hr), _, hl, rfl, rfl, rfl, rfl, rfl⟩
    · have hk := refusePass_passesKept s1 w (passRefusal s1 w)
      exact ⟨_, congrArg Host.Outcome.next (runPass_of_refused hfind hop href), hk.rings, hk.records⟩
  case begin =>
    intro s b p hp hb
    exact ⟨execPassBegin_of_reached hp hb, execPassBegin_of_early hp⟩

/-- Settles O25: a due time by whether its step is complete; both ways to a BROKEN ring end in `setBroken`. -/
theorem lateAndBrokenRings : Obligations.LateAndBrokenRings := by
  unfold Obligations.LateAndBrokenRings
  intro s
  refine ⟨?due, ?timer, ?hold, ?message⟩
  case due =>
    intro b p r t0 hp hr hb hdue
    refine ⟨execRingDueTime_of_complete hp hr hb hdue, fun hc => ?_⟩
    obtain ⟨t, ht, hrep⟩ := execRingDueTime_of_late hp hr hb hdue hc
    have hpass := congrArg Binding.pass (((PassesKept.of_reported hrep).bind b).trans ((State.setBind_bind ..).trans (if_pos rfl)))
    exact ⟨t, _, ht, hpass, rfl, rfl, rfl, rfl, rfl, hrep.dev, (Observed.of_reported hrep).sram⟩
  case timer =>
    intro b p r i hp hr hu hi hid hh
    obtain ⟨hst, hpass⟩ := breakRing_of_ix hi (suspectOf r p)
    exact ⟨_, execRingBreakTimer_of_no_hold hp hr hh, hst, hpass b.val hu hid⟩
  case hold => exact fun b p hp hh => execRingBreakTimer_of_hold hp hh
  case message =>
    intro p h s1 r i hm hi
    obtain ⟨hst, hpass⟩ := setBroken_of_ix hi
    exact ⟨_, execBrokenMessage_of_known hm, hst, hpass⟩

end Sys2Proof.Machine
end
